-- ==== Sys2Proof/Word.lean ====
section
/-!
DEFINITION. Sys2Proof/Word.lean: the word types of the Diara 48 and their plainest arithmetic.
Registers hold 64-bit words (R223); memory is addressed in bytes; an instruction word is 16 or 32 bits (R216).
-/

namespace Sys2Proof

/-- A 64-bit register value (R223). -/
abbrev Word := BitVec 64

/-- One byte of memory. -/
abbrev Byte := BitVec 8

/-- A 32-bit instruction word (R216). -/
abbrev Word32 := BitVec 32

/-- One bit as a word: 1 for true, 0 for false. -/
def boolWord (b : Bool) : Word := if b then 1 else 0

end Sys2Proof
end

