-- ==== Sys2Proof/Syntax.lean ====
section
/-!
DEFINITION. Sys2Proof/Syntax.lean: one constructor for every row of the opcode table. An instruction word carries its
fields as the table lays them out (R220, R234, R236), under the table's field names. A row without an encoding is an
event: a whole and indivisible step of another unit of the package; its arguments say which unit performs it and on
which item, or what the host or the bring-up firmware writes.
-/

namespace Sys2Proof

/-- Instructions and events of the Diara 48. -/
inductive Instr where
  -- Scalar integer instructions (R247 to R252)
  /-- ADD (R247): Writes the 64-bit wrapping sum of two scalar registers. -/
  | add (g : BitVec 3) (c : BitVec 5) (b : BitVec 5) (a : BitVec 5)
  /-- SUB (R247): Writes the 64-bit wrapping difference of two scalar registers. -/
  | sub (g : BitVec 3) (c : BitVec 5) (b : BitVec 5) (a : BitVec 5)
  /-- MUL (R247): Writes the low 64 bits of the product of two scalar registers. -/
  | mul (g : BitVec 3) (c : BitVec 5) (b : BitVec 5) (a : BitVec 5)
  /-- MULH (R247): Writes the high 64 bits of the signed 128-bit product. -/
  | mulh (g : BitVec 3) (c : BitVec 5) (b : BitVec 5) (a : BitVec 5)
  /-- MULH_U (R247): Writes the high 64 bits of the unsigned 128-bit product. -/
  | mulhU (g : BitVec 3) (c : BitVec 5) (b : BitVec 5) (a : BitVec 5)
  /-- DIV (R248): Signed division rounded toward zero; it never traps. -/
  | div (g : BitVec 3) (c : BitVec 5) (b : BitVec 5) (a : BitVec 5)
  /-- DIV_U (R248): Unsigned division; it never traps. -/
  | divU (g : BitVec 3) (c : BitVec 5) (b : BitVec 5) (a : BitVec 5)
  /-- REM (R248): Signed remainder taking the sign of the dividend. -/
  | rem (g : BitVec 3) (c : BitVec 5) (b : BitVec 5) (a : BitVec 5)
  /-- REM_U (R248): Unsigned remainder. -/
  | remU (g : BitVec 3) (c : BitVec 5) (b : BitVec 5) (a : BitVec 5)
  /-- AND (R247): Bitwise AND of two scalar registers. -/
  | and (g : BitVec 3) (c : BitVec 5) (b : BitVec 5) (a : BitVec 5)
  /-- OR (R247): Bitwise OR of two scalar registers. -/
  | or (g : BitVec 3) (c : BitVec 5) (b : BitVec 5) (a : BitVec 5)
  /-- XOR (R247): Bitwise XOR of two scalar registers. -/
  | xor (g : BitVec 3) (c : BitVec 5) (b : BitVec 5) (a : BitVec 5)
  /-- SHL (R247): Left shift by the second operand mod 64. -/
  | shl (g : BitVec 3) (c : BitVec 5) (b : BitVec 5) (a : BitVec 5)
  /-- SHR (R247): Logical right shift by the second operand mod 64. -/
  | shr (g : BitVec 3) (c : BitVec 5) (b : BitVec 5) (a : BitVec 5)
  /-- SRA (R247): Arithmetic right shift by the second operand mod 64. -/
  | sra (g : BitVec 3) (c : BitVec 5) (b : BitVec 5) (a : BitVec 5)
  /-- MIN (R247): Signed minimum of two scalar registers. -/
  | min (g : BitVec 3) (c : BitVec 5) (b : BitVec 5) (a : BitVec 5)
  /-- MIN_U (R247): Unsigned minimum of two scalar registers. -/
  | minU (g : BitVec 3) (c : BitVec 5) (b : BitVec 5) (a : BitVec 5)
  /-- MAX (R247): Signed maximum of two scalar registers. -/
  | max (g : BitVec 3) (c : BitVec 5) (b : BitVec 5) (a : BitVec 5)
  /-- MAX_U (R247): Unsigned maximum of two scalar registers. -/
  | maxU (g : BitVec 3) (c : BitVec 5) (b : BitVec 5) (a : BitVec 5)
  /-- CLZ (R247): Counts the leading zero bits of a register. -/
  | clz (g : BitVec 3) (b : BitVec 5) (a : BitVec 5)
  /-- POPC (R247): Counts the one bits of a register. -/
  | popc (g : BitVec 3) (b : BitVec 5) (a : BitVec 5)
  /-- MOV (R247): Copies one scalar register to another. -/
  | mov (g : BitVec 3) (b : BitVec 5) (a : BitVec 5)
  /-- SEL (R247): Selects one of two registers by a predicate coded in G; it is never guarded. -/
  | sel (q : BitVec 3) (c : BitVec 5) (b : BitVec 5) (a : BitVec 5)
  /-- ADDI (R249): Adds a sign-extended 10-bit immediate. -/
  | addi (g : BitVec 3) (i : BitVec 10) (b : BitVec 5) (a : BitVec 5)
  /-- ANDI (R249): ANDs with a sign-extended immediate. -/
  | andi (g : BitVec 3) (i : BitVec 10) (b : BitVec 5) (a : BitVec 5)
  /-- ORI (R249): ORs with a sign-extended immediate. -/
  | ori (g : BitVec 3) (i : BitVec 10) (b : BitVec 5) (a : BitVec 5)
  /-- XORI (R249): XORs with a sign-extended immediate. -/
  | xori (g : BitVec 3) (i : BitVec 10) (b : BitVec 5) (a : BitVec 5)
  /-- SHLI (R249): Left shift by an immediate of 0 to 63. -/
  | shli (g : BitVec 3) (i : BitVec 6) (b : BitVec 5) (a : BitVec 5)
  /-- SHRI (R249): Logical right shift by an immediate. -/
  | shri (g : BitVec 3) (i : BitVec 6) (b : BitVec 5) (a : BitVec 5)
  /-- SRAI (R249): Arithmetic right shift by an immediate. -/
  | srai (g : BitVec 3) (i : BitVec 6) (b : BitVec 5) (a : BitVec 5)
  /-- MOVI (R250): Writes a sign-extended 16-bit immediate shifted to a halfword position. -/
  | movi (h : BitVec 2) (i : BitVec 16) (a : BitVec 5)
  /-- LUI (R250): Inserts a 16-bit immediate into one halfword of a register. -/
  | lui (h : BitVec 2) (i : BitVec 16) (a : BitVec 5)
  -- Extension registers, compares, work identifier
  /-- EXT (R226): Writes a scalar register into an extension register. -/
  | ext (g : BitVec 3) (b : BitVec 5) (e : BitVec 3)
  /-- EXT_READ (R226): Reads an extension register into a scalar register. -/
  | extRead (g : BitVec 3) (e : BitVec 3) (a : BitVec 5)
  /-- EXTI (R226): Writes a 16-bit immediate into one halfword of an extension register. -/
  | exti (h : BitVec 2) (i : BitVec 16) (e : BitVec 3)
  /-- CMP (R251): Compares two registers under a condition and writes a predicate. -/
  | cmp (g : BitVec 3) (n : BitVec 5) (c : BitVec 5) (b : BitVec 5) (d : BitVec 3)
  /-- CMPI (R251): Compares a register with a 6-bit immediate and writes a predicate. -/
  | cmpi (g : BitVec 3) (i : BitVec 6) (n : BitVec 4) (b : BitVec 5) (d : BitVec 3)
  /-- WID (R253): Reads the task's work identifier or one field of it. -/
  | wid (g : BitVec 3) (i : BitVec 10) (a : BitVec 5)
  -- Control (R258 to R268)
  /-- B (R260): Branches PC-relative. -/
  | b (o : BitVec 23)
  /-- BL (R260): Branches PC-relative and writes the return address to S1. -/
  | bl (o : BitVec 23)
  /-- BP (R260): Branches if a predicate, optionally negated, is true. -/
  | bp (p : BitVec 3) (n : BitVec 1) (o : BitVec 19)
  /-- JR (R261): Branches to the address in a register. -/
  | jr (g : BitVec 3) (b : BitVec 5)
  /-- RET (R261): Branches to the address in S1. -/
  | ret (g : BitVec 3)
  /-- STRAY (R264): Detaches the executing member from its string's stream. -/
  | stray
  /-- MUSTER (R265): Waits at a meeting point until every live gang member arrives, then reattaches them. -/
  | muster
  /-- DONE (R266): Ends the task, after its children are joined and its join word is written. -/
  | done
  /-- PAND (R252): ANDs two predicates. -/
  | pand (g : BitVec 3) (q : BitVec 3) (p : BitVec 3) (d : BitVec 3)
  /-- POR (R252): ORs two predicates. -/
  | por (g : BitVec 3) (q : BitVec 3) (p : BitVec 3) (d : BitVec 3)
  /-- PNOT (R252): Negates a predicate. -/
  | pnot (g : BitVec 3) (p : BitVec 3) (d : BitVec 3)
  /-- REP (R269): Captures the following instructions and starts the repeat stream with an immediate count. -/
  | rep (n : BitVec 15) (l : BitVec 4) (s : BitVec 4)
  /-- REP_REG (R269): Captures the following instructions and starts the repeat stream with a count from a register. -/
  | repReg (a : BitVec 5) (l : BitVec 4) (s : BitVec 4)
  -- Memory, tags, atomics, reductions, fences, queue access
  /-- LD (R276): Loads 1 to 8 bytes, zero-extended, as a plain access. -/
  | ld (g : BitVec 3) (s : BitVec 1) (i : BitVec 7) (w : BitVec 2) (b : BitVec 5) (a : BitVec 5)
  /-- LDS (R276): Loads 1 to 4 bytes, sign-extended. -/
  | lds (g : BitVec 3) (s : BitVec 1) (i : BitVec 7) (w : BitVec 2) (b : BitVec 5) (a : BitVec 5)
  /-- ST (R276): Stores 1 to 8 bytes as a plain access. -/
  | st (g : BitVec 3) (s : BitVec 1) (i : BitVec 7) (w : BitVec 2) (b : BitVec 5) (a : BitVec 5)
  /-- LDA (R276): Acquiring load. -/
  | lda (g : BitVec 3) (s : BitVec 1) (i : BitVec 7) (w : BitVec 2) (b : BitVec 5) (a : BitVec 5)
  /-- STL (R276): Releasing store. -/
  | stl (g : BitVec 3) (s : BitVec 1) (i : BitVec 7) (w : BitVec 2) (b : BitVec 5) (a : BitVec 5)
  /-- LDF (R280): Waits for a local-store word to be full, reads it and sets it empty. -/
  | ldf (g : BitVec 3) (b : BitVec 5) (a : BitVec 5)
  /-- LDFN (R280): Reads a full word and sets it empty, or reports empty without waiting. -/
  | ldfn (g : BitVec 3) (p : BitVec 3) (b : BitVec 5) (a : BitVec 5)
  /-- STE (R280): Waits for a word to be empty, writes it and sets it full. -/
  | ste (g : BitVec 3) (b : BitVec 5) (a : BitVec 5)
  /-- STEN (R280): Writes an empty word and sets it full, or reports failure without waiting. -/
  | sten (g : BitVec 3) (p : BitVec 3) (b : BitVec 5) (a : BitVec 5)
  /-- TAGSET (R280): Sets a word's tag full. -/
  | tagset (g : BitVec 3) (b : BitVec 5)
  /-- TAGCLR (R280): Sets a word's tag empty. -/
  | tagclr (g : BitVec 3) (b : BitVec 5)
  /-- AMO (R283): Atomic read-modify-write of a 4 or 8 B word at its home, returning the old value. -/
  | amo (g : BitVec 3) (w : BitVec 1) (o : BitVec 4) (c : BitVec 5) (b : BitVec 5) (a : BitVec 5)
  /-- CAS (R283): Atomic compare and swap at the word's home. -/
  | cas (g : BitVec 3) (w : BitVec 1) (c : BitVec 5) (b : BitVec 5) (a : BitVec 5)
  /-- RED (R285): Posts a non-returning integer reduction to a word. -/
  | red (g : BitVec 3) (w : BitVec 1) (o : BitVec 4) (c : BitVec 5) (b : BitVec 5)
  /-- REDF (R286): Posts a float reduction into a contributor slot of a reduction region. -/
  | redf (g : BitVec 3) (t : BitVec 1) (c : BitVec 5) (b : BitVec 5) (a : BitVec 5)
  /-- REDF_U (R286): Posts an unordered float reduction into an element. -/
  | redfU (g : BitVec 3) (t : BitVec 1) (c : BitVec 5) (b : BitVec 5)
  /-- FENCE (R139): Waits for all earlier accesses within a scope and halts on a non-empty fault log. -/
  | fence (g : BitVec 3) (s : BitVec 4)
  /-- FENCE_X (R140): Orders two named access classes within a scope. -/
  | fenceX (g : BitVec 3) (y : BitVec 3) (x : BitVec 3) (s : BitVec 4)
  /-- QTRY_RD (R291): Takes a value from a queue without waiting. -/
  | qtryRd (g : BitVec 3) (p : BitVec 3) (q : BitVec 2) (a : BitVec 5)
  /-- QTRY_WR (R291): Adds a value to a queue without waiting. -/
  | qtryWr (g : BitVec 3) (p : BitVec 3) (q : BitVec 2) (a : BitVec 5)
  -- Scalar floating point
  /-- FADD (R254): Floating-point addition rounded once. -/
  | fadd (g : BitVec 3) (r : BitVec 3) (t : BitVec 1) (c : BitVec 5) (b : BitVec 5) (a : BitVec 5)
  /-- FSUB (R254): Floating-point subtraction. -/
  | fsub (g : BitVec 3) (r : BitVec 3) (t : BitVec 1) (c : BitVec 5) (b : BitVec 5) (a : BitVec 5)
  /-- FMUL (R254): Floating-point multiplication. -/
  | fmul (g : BitVec 3) (r : BitVec 3) (t : BitVec 1) (c : BitVec 5) (b : BitVec 5) (a : BitVec 5)
  /-- FFMA (R254): Fused multiply-add into the destination. -/
  | ffma (g : BitVec 3) (r : BitVec 3) (t : BitVec 1) (c : BitVec 5) (b : BitVec 5) (a : BitVec 5)
  /-- FDIV (R254): Floating-point division. -/
  | fdiv (g : BitVec 3) (r : BitVec 3) (t : BitVec 1) (c : BitVec 5) (b : BitVec 5) (a : BitVec 5)
  /-- FSQRT (R254): Floating-point square root. -/
  | fsqrt (g : BitVec 3) (r : BitVec 3) (t : BitVec 1) (b : BitVec 5) (a : BitVec 5)
  /-- FMIN (R255): Floating-point minimum with -0 below +0. -/
  | fmin (g : BitVec 3) (t : BitVec 1) (c : BitVec 5) (b : BitVec 5) (a : BitVec 5)
  /-- FMAX (R255): Floating-point maximum. -/
  | fmax (g : BitVec 3) (t : BitVec 1) (c : BitVec 5) (b : BitVec 5) (a : BitVec 5)
  /-- FCMP (R256): Floating-point compare into a predicate. -/
  | fcmp (g : BitVec 3) (r : BitVec 3) (t : BitVec 1) (c : BitVec 5) (b : BitVec 5) (d : BitVec 3)
  /-- FCVT (R257): Converts between float and integer kinds. -/
  | fcvt (g : BitVec 3) (r : BitVec 3) (k : BitVec 3) (j : BitVec 4) (b : BitVec 5) (a : BitVec 5)
  -- Tile instructions
  /-- TADD (R300): Elementwise tile addition. -/
  | tadd (m : BitVec 3) (p : BitVec 1) (b : BitVec 5) (a : BitVec 7) (d : BitVec 7)
  /-- TSUB (R300): Elementwise tile subtraction. -/
  | tsub (m : BitVec 3) (p : BitVec 1) (b : BitVec 5) (a : BitVec 7) (d : BitVec 7)
  /-- TMUL (R300): Elementwise tile multiplication. -/
  | tmul (m : BitVec 3) (p : BitVec 1) (b : BitVec 5) (a : BitVec 7) (d : BitVec 7)
  /-- TFMA (R300): Elementwise fused multiply-add into the destination tile. -/
  | tfma (m : BitVec 3) (p : BitVec 1) (b : BitVec 5) (a : BitVec 7) (d : BitVec 7)
  /-- TMAX (R301): Elementwise tile maximum. -/
  | tmax (m : BitVec 3) (p : BitVec 1) (b : BitVec 5) (a : BitVec 7) (d : BitVec 7)
  /-- TMIN (R301): Elementwise tile minimum. -/
  | tmin (m : BitVec 3) (p : BitVec 1) (b : BitVec 5) (a : BitVec 7) (d : BitVec 7)
  /-- TEXP (R300): Elementwise exponential on BF16. -/
  | texp (m : BitVec 3) (p : BitVec 1) (a : BitVec 7) (d : BitVec 7)
  /-- TRCP (R300): Elementwise reciprocal on BF16. -/
  | trcp (m : BitVec 3) (p : BitVec 1) (a : BitVec 7) (d : BitVec 7)
  /-- TRSQ (R300): Elementwise reciprocal square root on BF16. -/
  | trsq (m : BitVec 3) (p : BitVec 1) (a : BitVec 7) (d : BitVec 7)
  /-- TLOG (R300): Elementwise natural logarithm on BF16. -/
  | tlog (m : BitVec 3) (p : BitVec 1) (a : BitVec 7) (d : BitVec 7)
  /-- TCVT (R302): Converts a tile from the format of HA into that of HB. -/
  | tcvt (m : BitVec 3) (p : BitVec 1) (a : BitVec 7) (d : BitVec 7)
  /-- TRED (R303): Reduces a tile along one axis by sum, max or min. -/
  | tred (m : BitVec 3) (p : BitVec 1) (x : BitVec 1) (o : BitVec 2) (a : BitVec 7) (d : BitVec 7)
  /-- TBCAST (R304): Broadcasts a column or row along one axis. -/
  | tbcast (m : BitVec 3) (p : BitVec 1) (x : BitVec 1) (a : BitVec 7) (d : BitVec 7)
  /-- TTRANS (R305): Transposes a tile. -/
  | ttrans (m : BitVec 3) (p : BitVec 1) (a : BitVec 7) (d : BitVec 7)
  /-- TCMP_EQ (R306): Compares tiles for equality into a mask. -/
  | tcmpEq (m : BitVec 3) (p : BitVec 1) (b : BitVec 5) (a : BitVec 7) (d : BitVec 7)
  /-- TCMP_NE (R306): Compares tiles for inequality into a mask. -/
  | tcmpNe (m : BitVec 3) (p : BitVec 1) (b : BitVec 5) (a : BitVec 7) (d : BitVec 7)
  /-- TCMP_LT (R306): Compares tiles for less-than into a mask. -/
  | tcmpLt (m : BitVec 3) (p : BitVec 1) (b : BitVec 5) (a : BitVec 7) (d : BitVec 7)
  /-- TCMP_LE (R306): Compares tiles for less-or-equal into a mask. -/
  | tcmpLe (m : BitVec 3) (p : BitVec 1) (b : BitVec 5) (a : BitVec 7) (d : BitVec 7)
  /-- TSEL (R307): Selects each position from one of two tiles by the mask. -/
  | tsel (m : BitVec 3) (b : BitVec 5) (a : BitVec 7) (d : BitVec 7)
  /-- TSQZ (R308): Packs the masked positions of a tile and writes their count to a scalar. -/
  | tsqz (m : BitVec 3) (s : BitVec 5) (a : BitVec 7) (d : BitVec 7)
  /-- TXPD (R309): Expands packed values into the masked positions. -/
  | txpd (m : BitVec 3) (p : BitVec 1) (a : BitVec 7) (d : BitVec 7)
  /-- TRAND (R311): Fills a tile with values made from random draws by position. -/
  | trand (m : BitVec 3) (p : BitVec 1) (d : BitVec 7)
  /-- TMOV (R310): Copies a tile bit for bit. -/
  | tmov (m : BitVec 3) (p : BitVec 1) (a : BitVec 7) (d : BitVec 7)
  /-- TZERO (R310): Writes zero to a tile. -/
  | tzero (m : BitVec 3) (p : BitVec 1) (d : BitVec 7)
  /-- TFILL (R310): Fills a tile with a scalar's value. -/
  | tfill (m : BitVec 3) (p : BitVec 1) (s : BitVec 5) (d : BitVec 7)
  /-- TLD (R316): Loads a tile row by row from strided memory. -/
  | tld (m : BitVec 3) (p : BitVec 1) (s : BitVec 1) (a : BitVec 5) (d : BitVec 7)
  /-- TST (R316): Stores a tile row by row to strided memory. -/
  | tst (m : BitVec 3) (s : BitVec 1) (a : BitVec 5) (d : BitVec 7)
  /-- TLD_G (R316): Loads tile rows at addresses given by an index tile. -/
  | tldG (m : BitVec 3) (p : BitVec 1) (s : BitVec 1) (i : BitVec 5) (a : BitVec 5) (d : BitVec 7)
  /-- TST_G (R316): Stores tile rows at addresses given by an index tile. -/
  | tstG (m : BitVec 3) (s : BitVec 1) (i : BitVec 5) (a : BitVec 5) (d : BitVec 7)
  /-- SHP_SET (R293): Writes a shape register from a scalar. -/
  | shpSet (g : BitVec 3) (b : BitVec 5) (k : BitVec 3)
  /-- SHP_GET (R293): Reads a shape register into a scalar. -/
  | shpGet (g : BitVec 3) (k : BitVec 3) (a : BitVec 5)
  -- Matrix and accumulator instructions
  /-- MMA (R326): Adds the products of two tiles into an accumulator. -/
  | mma (c : BitVec 1) (b : BitVec 7) (a : BitVec 7)
  /-- MMA_G (R328): Matrix product with its left operand gathered from local-store rows. -/
  | mmaG (c : BitVec 1) (b : BitVec 7) (i : BitVec 5)
  /-- MMAS (R326): FP32 matrix product on the float path with three slices. -/
  | mmas (c : BitVec 1) (b : BitVec 7) (a : BitVec 7)
  /-- ACC_CLR (R330): Clears an accumulator and its status. -/
  | accClr (c : BitVec 1)
  /-- ACC_ANCH (R331): Sets or re-grids an accumulator's anchor. -/
  | accAnch (c : BitVec 1) (i : BitVec 16)
  /-- ACC_DRN (R332): Drains an accumulator into a tile with RNE. -/
  | accDrn (c : BitVec 1) (d : BitVec 7)
  /-- ACC_SEND (R336): Copies an accumulator image into a core's local store and optionally raises a notice. -/
  | accSend (c : BitVec 1) (b : BitVec 5) (a : BitVec 5)
  /-- ACC_LD (R334): Restores an accumulator from a local-store image. -/
  | accLd (c : BitVec 1) (a : BitVec 5)
  /-- ACC_ST (R334): Writes an accumulator image into the local store. -/
  | accSt (c : BitVec 1) (a : BitVec 5)
  -- Engine, circuit, message, task and barrier instructions
  /-- CPY (R344): Issues a strided copy command to the string's copy engine. -/
  | cpy (g : BitVec 3) (c : BitVec 5) (b : BitVec 5) (a : BitVec 5)
  /-- CPY_W (R350): Waits for an engine command and reads its status. -/
  | cpyW (g : BitVec 3) (b : BitVec 5) (a : BitVec 5)
  /-- CPY_W_POLL (R350): Polls an engine command's status without waiting. -/
  | cpyWPoll (g : BitVec 3) (p : BitVec 3) (b : BitVec 5) (a : BitVec 5)
  /-- CPY_T (R346): Issues a confidential chunk copy that is decrypted under a stream key. -/
  | cpyT (g : BitVec 3) (c : BitVec 5) (b : BitVec 5) (a : BitVec 5)
  /-- CPY_DIG (R345): Issues a SHAKE256 digest of copied source bytes. -/
  | cpyDig (g : BitVec 3) (c : BitVec 5) (b : BitVec 5) (a : BitVec 5)
  /-- DEAL (R347): Issues a distributor deal of an HBM range to the local stores of several cores. -/
  | deal (g : BitVec 3) (c : BitVec 5) (b : BitVec 5) (a : BitVec 5)
  /-- PUT (R348): Sends a local-store payload to a core or to global memory. -/
  | put (g : BitVec 3) (c : BitVec 5) (b : BitVec 5) (a : BitVec 5)
  /-- CIRC_OPEN (R351): Requests a new circuit from the yardmaster. -/
  | circOpen (g : BitVec 3) (b : BitVec 5) (a : BitVec 5)
  /-- CIRC_WIDEN (R351): Requests more chains on a circuit. -/
  | circWiden (g : BitVec 3) (b : BitVec 5) (a : BitVec 5)
  /-- CIRC_CLOSE (R351): Requests narrowing or closing of a circuit. -/
  | circClose (g : BitVec 3) (c : BitVec 5) (b : BitVec 5) (a : BitVec 5)
  /-- CIRC_Q (R351): Queries the status of a circuit's latest request. -/
  | circQ (g : BitVec 3) (b : BitVec 5) (a : BitVec 5)
  /-- SEND (R353): Sends a message to a channel of a core, waiting if needed. -/
  | send (g : BitVec 3) (b : BitVec 5) (a : BitVec 5)
  /-- SENDN (R353): Sends a message or reports failure without waiting. -/
  | sendn (g : BitVec 3) (p : BitVec 3) (b : BitVec 5) (a : BitVec 5)
  /-- HRET (R354): Ends a handler run and frees its record. -/
  | hret (g : BitVec 3)
  /-- CHAN_CFG (R355): Configures a channel's queue and handler. -/
  | chanCfg (g : BitVec 3) (c : BitVec 5) (b : BitVec 5) (a : BitVec 5)
  /-- SPAWN (R356): Creates a child task record, waiting if needed. -/
  | spawn (g : BitVec 3) (b : BitVec 5) (a : BitVec 5)
  /-- SPAWNN (R356): Creates a child task record or reports failure without waiting. -/
  | spawnn (g : BitVec 3) (p : BitVec 3) (b : BitVec 5) (a : BitVec 5)
  /-- JOIN (R357): Waits for unjoined children and merges their values in child order. -/
  | join (g : BitVec 3) (o : BitVec 3) (a : BitVec 5)
  /-- JOINN (R357): Merges the children's values if all have ended, without waiting. -/
  | joinn (g : BitVec 3) (p : BitVec 3) (o : BitVec 3) (a : BitVec 5)
  /-- LAUNCH (R358): Writes a launch record into the pending-launch store, waiting if it is full. -/
  | launch (g : BitVec 3) (b : BitVec 5) (a : BitVec 5)
  /-- LAUNCHN (R358): Writes a launch record or reports a full store without waiting. -/
  | launchn (g : BitVec 3) (c : BitVec 5) (b : BitVec 5) (d : BitVec 3)
  /-- BAR_INIT (R362): Initialises a barrier on the issuing core. -/
  | barInit (g : BitVec 3) (b : BitVec 5) (a : BitVec 5)
  /-- BAR_ARR (R362): Sends an arrival to a barrier and returns the phase it counted for. -/
  | barArr (g : BitVec 3) (b : BitVec 5) (a : BitVec 5)
  /-- BAR_WAIT (R362): Waits until a barrier has passed a phase. -/
  | barWait (g : BitVec 3) (b : BitVec 5) (a : BitVec 5)
  /-- BAR_TEST (R362): Tests whether a barrier has passed a phase. -/
  | barTest (g : BitVec 3) (c : BitVec 5) (b : BitVec 5) (d : BitVec 3)
  -- System instructions
  /-- TRAP (R363): Raises the software trap with a 10-bit code. -/
  | trap (g : BitVec 3) (k : BitVec 10)
  /-- ERET (R364): Resumes a parked context at a return address. -/
  | eret (g : BitVec 3) (b : BitVec 5) (a : BitVec 5)
  /-- BRK (R363): Raises the breakpoint trap. -/
  | brk (g : BitVec 3)
  /-- NOP (R363): Has no effect. -/
  | nop (g : BitVec 3)
  /-- IDEM_BEGIN (R366): Opens an idempotent region and starts a checkpoint. -/
  | idemBegin (g : BitVec 3)
  /-- IDEM_END (R366): Commits and closes an idempotent region. -/
  | idemEnd (g : BitVec 3)
  /-- TLBI_R (R33): Invalidates the translations of an address range of an ASID in every holder of the die. -/
  | tlbiR (g : BitVec 3) (c : BitVec 5) (b : BitVec 5) (a : BitVec 5)
  /-- CTX_LIVE (R365): Sets the context's live-tile mask. -/
  | ctxLive (g : BitVec 3) (a : BitVec 5)
  /-- CTX_SAVE (R364): Saves a parked task context to its string's save area. -/
  | ctxSave (g : BitVec 3) (a : BitVec 5)
  /-- CTX_RST (R364): Restores a saved task context onto a free core of its string. -/
  | ctxRst (g : BitVec 3) (b : BitVec 5) (a : BitVec 5)
  /-- CSRR (R231): Reads a system register. -/
  | csrr (g : BitVec 3) (r : BitVec 12) (a : BitVec 5)
  /-- CSRW (R231): Writes a system register under that register's rules. -/
  | csrw (g : BitVec 3) (r : BitVec 12) (a : BitVec 5)
  -- 16-bit forms (R234)
  /-- C_MOV (R234): 16-bit form of MOV. -/
  | cMov (d : BitVec 5) (a : BitVec 5)
  /-- C_ADDI (R234): 16-bit form of ADDI to the same register. -/
  | cAddi (d : BitVec 5) (i : BitVec 6)
  /-- C_ADD (R234): 16-bit form of ADD to the same register. -/
  | cAdd (d : BitVec 5) (a : BitVec 5)
  /-- C_SUB (R234): 16-bit form of SUB from the same register. -/
  | cSub (d : BitVec 5) (a : BitVec 5)
  /-- C_LDD (R234): 16-bit 8 B local-store load relative to S2. -/
  | cLdd (d : BitVec 5) (i : BitVec 6)
  /-- C_STD (R234): 16-bit 8 B local-store store relative to S2. -/
  | cStd (a : BitVec 5) (i : BitVec 6)
  /-- C_B (R234): 16-bit form of B. -/
  | cB (o : BitVec 11)
  /-- C_BP (R234): 16-bit form of BP. -/
  | cBp (p : BitVec 3) (n : BitVec 1) (o : BitVec 7)
  /-- C_NOP (R234): 16-bit NOP. -/
  | cNop
  /-- C_RET (R234): 16-bit form of RET. -/
  | cRet
  /-- C_MUSTER (R234): 16-bit form of MUSTER. -/
  | cMuster
  /-- C_DONE (R234): 16-bit form of DONE. -/
  | cDone
  /-- C_STRAY (R234): 16-bit form of STRAY. -/
  | cStray
  -- Events: steps of the package that have no instruction word
  /-- ASID_INSTALL (R14): ASIDCMD command 1 installs both words of an ASID table entry after its checks. -/
  | asidInstall (die : BitVec 2)
  /-- ASID_LOAD (R14): ASIDCMD command 2 loads an ASID table entry into ASIDDAT0 and ASIDDAT1. -/
  | asidLoad (die : BitVec 2)
  /-- EXPORT (R29): HNDCMD command 1 makes a handle live with its current GEN. -/
  | exportHandle (die : BitVec 2)
  /-- REVOKE (R31): HNDCMD command 2 sets RV and sends a revoke notice to the importer die. -/
  | revoke (die : BitVec 2)
  /-- HANDLE_READ (R29): HNDCMD command 3 loads a handle entry into HNDDAT0 to HNDDAT3. -/
  | handleRead (die : BitVec 2)
  /-- REVOKE_NOTICE (R31): The importer die marks matching peer entries revoked, invalidates their ranges and acknowledges. -/
  | revokeNotice (die : BitVec 2) (i : Nat)
  /-- REVOKE_ACK (R31): The exporter clears V and RV and increments GEN on the acknowledgement. -/
  | revokeAck (die : BitVec 2) (hnd : BitVec 12)
  /-- REVOKE_TIMEOUT (R31): After 1 ms without an acknowledgement the exporter completes the revocation alone and sets ERR. -/
  | revokeTimeout (die : BitVec 2) (hnd : BitVec 12)
  /-- FILL_REQUEST (R25): A port group answers a micro-TLB fill request from its TLB or by walking. -/
  | fillRequest (die : BitVec 2) (core : BitVec 11) (eng : Bool) (va : BitVec 64) (acc : BitVec 3)
  /-- TLBI_BROADCAST (R33): The yardmaster takes a TLBI.R request and broadcasts it to every holder of the die. -/
  | tlbiBroadcast (die : BitVec 2)
  /-- HOLDER_ACK (R33): A holder removes matching entries after its in-flight accesses are performed and acknowledges; the last one lets TLBI.R retire. -/
  | holderAck (die : BitVec 2) (holder : BitVec 12)
  /-- PEER_ACCESS (R30): The exporter's port group checks a peer access against its handle and performs or refuses it. -/
  | peerAccess (die : BitVec 2) (pg : BitVec 4)
  /-- ACCESS_RESPONSE (R34): The response of a global or peer access reaches the core, which completes the waiting instruction. -/
  | accessResponse (die : BitVec 2) (core : BitVec 11) (ctx : BitVec 2)
  /-- TIME_EXCHANGE (R43): A two-way time message on slot 0 of a package link steers the wheel and checks the offset. -/
  | timeExchange (offset : BitVec 64)
  /-- TIME_ALIGN (R44): A package joining a domain with no live paddock sets its WTIME to the master's at a revolution boundary. -/
  | timeAlign (master : BitVec 64)
  /-- SLOT_FORWARD (R48): A router forwards on each outgoing link the word that the slot entry names. -/
  | slotForward (unit : BitVec 4) (row : BitVec 5) (col : BitVec 6)
  /-- CIRCUIT_REQUEST (R55): The yardmaster takes a circuit request and searches paths and start slots. -/
  | circuitRequest (yard : BitVec 3)
  /-- CIRCUIT_RESEARCH (R55): A waiting request searches again when a circuit on its candidate paths frees slots. -/
  | circuitResearch (yard : BitVec 3) (i : Nat)
  /-- CIRCUIT_DEADLINE (R55): The deadline of a waiting request passes and the request is refused with its blocking hop. -/
  | circuitDeadline (yard : BitVec 3) (i : Nat)
  /-- CIRC_ACCEPTANCE (R351): The yardmaster's acceptance reaches a CIRC instruction, which writes its status and retires. -/
  | circAcceptance (die : BitVec 2) (i : Nat)
  /-- EXCHANGE_REQUEST (R53): A yardmaster takes a request from another die's yardmaster, in an exchange slot, to write its segment. -/
  | exchangeRequest (yard : BitVec 3)
  /-- CONFIGURATION_FLIT (R52): A configuration flit's slot-table writes take effect at the start of the next revolution. -/
  | configurationFlit (yard : BitVec 3)
  /-- CHAIN_CLEAR (R57): After o_n + 256 wt the remaining entries of a removed chain are cleared. -/
  | chainClear (yard : BitVec 3) (i : Nat)
  /-- LINK_FAILURE (R66): An adapter reports an outright link failure and its yardmaster suspends and reroutes the affected circuits. -/
  | linkFailure (die : BitVec 2) (link : Nat)
  /-- REPLAY (R66): Once the new path is written the sending endpoint replays from the receiver's next expected sequence number. -/
  | replay (yard : BitVec 3) (cid : BitVec 12)
  /-- LANE_REPAIR (R64): A link repairs failing lanes with spare lanes without changing slots or delay. -/
  | laneRepair (link : Nat)
  /-- LANE_SHED (R69): A link idle for 10 µs of circuit slots sheds to half width. -/
  | laneShed (link : Nat)
  /-- LINK_WAKE (R69): After the 1 µs wake time the yardmaster writes a circuit across the regained link. -/
  | linkWake (link : Nat)
  /-- TOKEN_REFILL (R73): Every 1,024 wt each port group refills buckets and collects repayments. -/
  | tokenRefill (die : BitVec 2) (pg : BitVec 4)
  /-- HBM_ACCESS (R87): A port group translates and performs an HBM access in arrival order when its tenant holds a token. -/
  | hbmAccess (die : BitVec 2) (pg : BitVec 4) (ten : BitVec 8)
  /-- STOP_NOTICE (R71): A network port receiving a stop notice holds its tenant's further requests for that port group. -/
  | stopNotice (die : BitVec 2) (pg : BitVec 4) (port : BitVec 10) (ten : BitVec 8)
  /-- DEMAND_BEACON (R71): Once per revolution a network port with held requests sends a demand beacon. -/
  | demandBeacon (die : BitVec 2) (pg : BitVec 4) (port : BitVec 10) (ten : BitVec 8)
  /-- GO_NOTICE (R71): A go notice releases held requests as tokens become available. -/
  | goNotice (die : BitVec 2) (pg : BitVec 4) (port : BitVec 10) (ten : BitVec 8)
  /-- PEER_FORWARD (R452): A forwarding point sends queued peer words per held slot in tenant round-robin order. -/
  | peerForward (die : BitVec 2) (point : BitVec 5)
  /-- RELAY_FORWARD (R63): A message relay forwards a message in dimension order within one revolution. -/
  | relayForward (die : BitVec 2) (i : Nat)
  /-- VAULT_ACCESS (R85): A vault performs an access, store, atomic or integer reduction in its write buffer. -/
  | vaultAccess (die : BitVec 2) (vault : BitVec 6)
  /-- REDUCTION_APPLY (R90): A port group applies or logs a posted RED, REDF or REDF.U. -/
  | reductionApply (die : BitVec 2) (pg : BitVec 4)
  /-- INSTALL (R89): RRCMD command 1 installs a reduction region after its checks. -/
  | install (die : BitVec 2)
  /-- REMOVE (R89): RRCMD command 2 folds every result line and clears the region, stopping at a failure. -/
  | remove (die : BitVec 2)
  /-- REGION_READ (R89): RRCMD command 3 loads a region entry into RRDAT0 to RRDAT3. -/
  | regionRead (die : BitVec 2)
  /-- DEAL_BLOCK (R97): A port group's distributor reads its bytes of a DEAL and sends them to the target strings. -/
  | dealBlock (die : BitVec 2) (str : BitVec 8) (slot : BitVec 4) (pg : BitVec 4)
  /-- ENGINE_EXECUTE (R343): The copy engine performs a retired command's reads and writes. -/
  | engineExecute (die : BitVec 2) (str : BitVec 8) (slot : BitVec 4) (n : Nat)
  /-- PAYLOAD_ARRIVAL (R82): An engine write reaches a target local store and marks words full if FULL is set. -/
  | payloadArrival (die : BitVec 2) (i : Nat)
  /-- COMMAND_COMPLETE (R349): An engine command finishes and its status word is kept. -/
  | commandComplete (die : BitVec 2) (str : BitVec 8) (slot : BitVec 4)
  /-- FLOG_CLEAR (R103): A write of 0 to FLOGCNT empties the context's fault log. -/
  | flogClear (die : BitVec 2) (core : BitVec 11) (ctx : BitVec 2)
  /-- RACE_SWEEP (R147): A background sweep clears race records whose phase is no longer current. -/
  | raceSweep (die : BitVec 2) (vault : Bool) (unit : BitVec 6)
  /-- DISPATCH_ROUND (R211): Once per revolution the manger chooses and dispatches up to 32 candidates. -/
  | dispatchRound (die : BitVec 2)
  /-- STEAL_REQUEST (R191): Once per revolution an idle core with no records sends a steal request. -/
  | stealRequest (die : BitVec 2) (core : BitVec 11)
  /-- STEAL_REPLY (R191): A victim's deque answers a steal with its oldest record or empty. -/
  | stealReply (die : BitVec 2) (i : Nat)
  /-- TASK_RECORD_ARRIVAL (R192): In ordered mode a task record arrives at its hashed target core. -/
  | taskRecordArrival (die : BitVec 2) (i : Nat)
  /-- TASK_START (R190): An idle core takes a record from its deque or spill area and starts the task. -/
  | taskStart (die : BitVec 2) (core : BitVec 11)
  /-- JOIN_WORD_WRITE (R193): A child's return value arrives in its join word with FULL. -/
  | joinWordWrite (die : BitVec 2) (i : Nat)
  /-- MESSAGE_ARRIVAL (R198): An arriving message is placed in its channel queue or diverted to the lean-to. -/
  | messageArrival (die : BitVec 2) (i : Nat)
  /-- MESSAGE_ACK (R199): Acceptance of a sent message is acknowledged to the sender. -/
  | messageAck (die : BitVec 2) (i : Nat)
  /-- MESSAGE_RESEND (R199): A refused message is resent one revolution later. -/
  | messageResend (die : BitVec 2) (i : Nat)
  /-- HANDLER_START (R200): A free handler context starts a run on a waiting record. -/
  | handlerStart (die : BitVec 2) (core : BitVec 11) (hc : Bool)
  /-- BATCH (R205): At each window start an ordered core forms and handles a sorted batch of parked records. -/
  | batch (die : BitVec 2) (core : BitVec 11)
  /-- BARRIER_ARRIVAL (R207): The hosting core counts an arrival and advances the phase. -/
  | barrierArrival (die : BitVec 2) (i : Nat)
  /-- BARRIER_QUERY (R362): The hosting core answers a phase query when its condition holds. -/
  | barrierQuery (die : BitVec 2) (i : Nat)
  /-- BARRIER_REPLY (R207): A barrier reply reaches the issuing core and completes its instruction. -/
  | barrierReply (die : BitVec 2) (i : Nat)
  /-- DOORBELL (R208): A write of LQnTAIL offers launch records, or sets ERR if bad. -/
  | doorbell (die : BitVec 2) (fn : BitVec 5) (q : BitVec 3) (v : BitVec 64)
  /-- LQ_CONFIG_WRITE (R208): A write of LQnCFG enables a queue, or sets ERR if LOG2 is below 3. -/
  | lqConfigWrite (die : BitVec 2) (fn : BitVec 5) (q : BitVec 3) (v : BitVec 64)
  /-- LAUNCH_INTAKE (R210): The manger moves launch records from queues into free pending-launch entries. -/
  | launchIntake (die : BitVec 2)
  /-- CORE_TIME_REFILL (R212): Every 64 µs the manger refills each tenant's core-time bucket under the allowance. -/
  | coreTimeRefill (die : BitVec 2)
  /-- COMPLETION_RECORD (R359): The manger writes a complete launch's completion record and signal. -/
  | completionRecord (die : BitVec 2) (lid : BitVec 12)
  /-- TRAP_RECORD (R372): The supervisor's core writes a trap record into its ring and advances TAIL. -/
  | trapRecord (die : BitVec 2) (str : BitVec 8)
  /-- TRAP_RECORD_RETRY (R372): A held trap record is offered again once per revolution. -/
  | trapRecordRetry (die : BitVec 2) (str : BitVec 8)
  /-- TSCR_WRITE (R373): A supervisor write of TSCR sets the ring, HEAD or remote access, or is refused with ERR. -/
  | tscrWrite (die : BitVec 2) (core : BitVec 11) (v : BitVec 64)
  /-- TERMINATE (R376): TSCR command 01 terminates a parked or saved context. -/
  | terminate (die : BitVec 2) (core : BitVec 11) (agent : BitVec 13)
  /-- PREEMPTION_REQUEST (R379): The pre-emption controller accepts a request naming strings and broadcasts it. -/
  | preemptionRequest (die : BitVec 2) (words : List (BitVec 64))
  /-- RELEASE (R387): A request with REL releases held strings for restoring. -/
  | release (die : BitVec 2) (words : List (BitVec 64))
  /-- PREEMPT_BROADCAST (R381): A named string receives the broadcast and chooses drain, discard or save. -/
  | preemptBroadcast (die : BitVec 2) (str : BitVec 8)
  /-- FALLBACK (R381): At a + D - M a draining string discards or saves its remaining contexts. -/
  | fallback (die : BitVec 2) (str : BitVec 8)
  /-- DRAIN_END (R382): A draining string with no live context writes its images. -/
  | drainEnd (die : BitVec 2) (str : BitVec 8)
  /-- IMAGES_WRITTEN (R386): A string's images are complete and the string is free and held. -/
  | imagesWritten (die : BitVec 2) (str : BitVec 8)
  /-- PREEMPTION_RESPONSE (R379): When every named string is free the controller writes the response. -/
  | preemptionResponse (die : BitVec 2)
  /-- RESTORE_COMPLETE (R387): A released string's images are read back and its contexts resume. -/
  | restoreComplete (die : BitVec 2) (str : BitVec 8)
  /-- CHECKPOINT_COMPLETE (R389): A region's checkpoint completes and the region becomes discardable. -/
  | checkpointComplete (die : BitVec 2) (core : BitVec 11)
  /-- CREATE (R396): PDCMD command 1 checks a descriptor and builds a paddock. -/
  | create (die : BitVec 2) (slot : BitVec 4)
  /-- DESTROY (R399): PDCMD command 2 stops and dismantles a paddock and erases its keys. -/
  | destroy (die : BitVec 2) (slot : BitVec 4)
  /-- PADDOCK_READ (R395): PDCMD command 3 reads a paddock slot. -/
  | paddockRead (die : BitVec 2) (slot : BitVec 4)
  /-- USAGE_RECORD (R402): The tack room emits a signed usage record at each stud-book period. -/
  | usageRecord (die : BitVec 2) (slot : BitVec 4)
  /-- STUD_BOOK_INDEX (R403): A write of a SEQ to the stud-book window exposes that record. -/
  | studBookIndex (die : BitVec 2) (fn : BitVec 5) (seq : BitVec 64)
  /-- VERSION (R405): SPDM VERSION message answered by the trust die. -/
  | version (die : BitVec 2)
  /-- CAPABILITIES (R405): SPDM CAPABILITIES message. -/
  | capabilities (die : BitVec 2)
  /-- ALGORITHMS (R405): SPDM ALGORITHMS message. -/
  | algorithms (die : BitVec 2)
  /-- DIGESTS (R405): SPDM DIGESTS message. -/
  | digests (die : BitVec 2)
  /-- CERTIFICATE (R405): SPDM CERTIFICATE message serving slot 0 or 1. -/
  | certificate (die : BitVec 2) (certSlot : BitVec 4) (offset len : BitVec 16)
  /-- CHALLENGE (R405): SPDM CHALLENGE message. -/
  | challenge (die : BitVec 2) (certSlot : BitVec 4) (nonce : List (BitVec 8))
  /-- MEASUREMENTS (R405): SPDM MEASUREMENTS message returning blocks 1 to 4. -/
  | measurements (die : BitVec 2) (block : BitVec 8) (nonce : List (BitVec 8))
  /-- KEY_EXCHANGE (R405): SPDM KEY_EXCHANGE message opening a session. -/
  | keyExchange (die : BitVec 2) (share : List (BitVec 8))
  /-- FINISH (R405): SPDM FINISH message. -/
  | finish (die : BitVec 2) (session : Nat) (verify : List (BitVec 8))
  /-- END_SESSION (R405): SPDM END_SESSION message, which also clears the session's stream entries. -/
  | endSession (die : BitVec 2) (session : Nat)
  /-- BIND (R405): Vendor-defined BIND binds a stream id to an ASID with a derived key. -/
  | bind (die : BitVec 2) (session : Nat) (target : BitVec 2) (slot : BitVec 4) (asid : BitVec 11) (stream : BitVec 32)
  /-- UNBIND (R405): Vendor-defined UNBIND clears a stream entry. -/
  | unbind (die : BitVec 2) (session : Nat) (target : BitVec 2) (stream : BitVec 32)
  /-- IDE_KM (R409): IDE_KM keys a selective IDE stream in an SPDM session. -/
  | ideKm (die : BitVec 2) (session : Nat) (stream : BitVec 8) (key : BitVec 256)
  /-- LOCK_INTERFACE (R409): TDISP LOCK_INTERFACE fixes a VF's BARs and its paddock's descriptor. -/
  | lockInterface (die : BitVec 2) (fn : BitVec 5)
  /-- STOP_INTERFACE (R409): TDISP STOP_INTERFACE leaves ERROR. -/
  | stopInterface (die : BitVec 2) (fn : BitVec 5)
  /-- DOMAIN_MEMBERSHIP (R410): Bring-up firmware writes the domain identifier, package number and coordinates. -/
  | domainMembership (domain : BitVec 64) (number coords : BitVec 12)
  /-- PACKAGE_LINK_CHECK (R410): A package link comes into service only when its neighbour reports matching membership. -/
  | packageLinkCheck (link : Nat) (domain : BitVec 64) (number coords : BitVec 12) (delay : Nat)
  /-- POWER_ON (R411): The package boots through the steps of its boot sequence. -/
  | powerOn
  /-- COUNTER_CLEAR (R408): A write of zero clears one device status counter. -/
  | counterClear (die : BitVec 2) (offset : BitVec 16) (v : BitVec 64)
  /-- ARBITER_PERIOD (R416): Every 64 µs the power arbiter adjusts operating points, allowance and guard step. -/
  | arbiterPeriod
  /-- GUARD_STEP_CHANGE (R418): A decided guard-step change takes effect on every row at the second revolution boundary. -/
  | guardStepChange
  /-- FREQUENCY_RAISE (R418): At least 10 µs after the voltage rises, the frequency is raised. -/
  | frequencyRaise
  /-- CORE_STOP (R413): A core without a live context for 1 µs stops its clock. -/
  | coreStop (die : BitVec 2) (core : BitVec 11)
  /-- CORE_RESTART (R413): A stopped core restarts at ÷1 before the manger dispatches to it. -/
  | coreRestart (die : BitVec 2) (core : BitVec 11)
  /-- CAP_MESSAGE (R421): A GO write submits a cap message, which is accepted, ignored or refused. -/
  | capMessage (die : BitVec 2) (v : BitVec 64)
  /-- LEASE_EXPIRY (R421): The lease timer expires and the budget falls to 1,800 W. -/
  | leaseExpiry
  /-- THRESHOLD_WRITE (R422): A write of the thermal threshold sets T_th or is refused. -/
  | thresholdWrite (die : BitVec 2) (v : BitVec 64)
  /-- THERMAL_EVALUATION (R422): Every 64 wt each row's sensor state machine is evaluated. -/
  | thermalEvaluation
  /-- REGISTER_WRITE (R232): A write to a register with no step of its own, under the general rules. -/
  | registerWrite (die : BitVec 2) (fn : BitVec 5) (offset : BitVec 16) (v : BitVec 64)
  /-- MEMORY_REQUEST (R409): A host memory request arriving through a function, such as a confidential chunk written into paddock memory through the locked VF, is served or completed with Unsupported Request in ERROR. -/
  | memoryRequest (die : BitVec 2) (fn : BitVec 5) (write : Bool) (bar : Bool) (asid : BitVec 11) (addr : BitVec 64) (len : Nat) (bytes : List (BitVec 8))
  /-- START_INTERFACE (R409): The TDISP transition that moves a locked interface into state RUN. -/
  | startInterface (die : BitVec 2) (fn : BitVec 5)
  /-- LINK_RETURN (R68): The physical function returns a repaired failed link to service. -/
  | linkReturn (link : Nat)
  /-- SUPERVISOR_RESUME (R377): The physical function resumes a parked supervisor context or terminates the paddock's parked contexts after a supervisor-fault report. -/
  | supervisorResume (die : BitVec 2) (slot : BitVec 4) (terminate : Bool) (pc : BitVec 64)
deriving DecidableEq, Repr, Inhabited

end Sys2Proof
end

