-- ==== Sys2Proof/WellFormed.lean ====
section
/-!
DEFINITION. Sys2Proof/WellFormed.lean: which field values of each instruction word are an instruction (R222, R223, R225,
R236, R237). The fixed bits of a word are the decoder's; what stands here are the checks on its fields.
-/

namespace Sys2Proof

/-- A scalar source of a main-stream instruction: S0 to S27, Q2 or Q3 (R223, R224). -/
def srcOk (r : BitVec 5) : Bool := decide (r.toNat < 28) || decide (30 ≤ r.toNat)

/-- A scalar destination of a main-stream instruction: S0 to S27, Q0 or Q1 (R178, R223, R224). -/
def dstOk (r : BitVec 5) : Bool := decide (r.toNat < 30)

/-- A scalar field that is both source and destination names no queue: every queue is read or written in the wrong
direction by one of the two roles (R224). -/
def plainOk (r : BitVec 5) : Bool := decide (r.toNat < 28)

/-- A predicate destination is not P0 (R225). -/
def predOk (p : BitVec 3) : Bool := p != 0

/-- A scalar rounding mode, 000 to 100 (R113, R236). -/
def roundOk (r : BitVec 3) : Bool := decide (r.toNat ≤ 4)

/-- A scope, 0 to 11 (R137). -/
def scopeOk (s : BitVec 4) : Bool := decide (s.toNat ≤ 11)

/-- A class of FENCE.X, 0 to 4 (R140). -/
def classOk (c : BitVec 3) : Bool := decide (c.toNat ≤ 4)

/-- A register number aligned to a group of 2^width registers (R221). -/
def alignedOk (n : BitVec 5) (width : Nat) : Bool := n.toNat % 2 ^ width == 0

/-- A 7-bit tile operand: number in its high five bits, width in its low two, aligned (R221). -/
def groupOk (t : BitVec 7) : Bool := (t.toNat / 4) % 2 ^ (t.toNat % 4) == 0

/-- The system-register numbers that R231 assigns. -/
def csrKnown (r : Nat) : Bool :=
  decide (r ≤ 0x005) || (decide (0x010 ≤ r) && decide (r ≤ 0x01A)) || (decide (0x020 ≤ r) && decide (r ≤ 0x027)) ||
  (decide (0x030 ≤ r) && decide (r ≤ 0x047)) || (decide (0x050 ≤ r) && decide (r ≤ 0x059)) ||
  (decide (0x060 ≤ r) && decide (r ≤ 0x063)) || r == 0x070 || r == 0x071 ||
  (decide (0x100 ≤ r) && decide (r ≤ 0x103)) || (decide (0x110 ≤ r) && decide (r ≤ 0x115)) ||
  (decide (0x120 ≤ r) && decide (r ≤ 0x125)) || r == 0x130 || r == 0x131

/-- The instruction is a word (it has an encoding), not an event. -/
def isWord : Instr → Bool
  | .add _ _ _ _ => true
  | .sub _ _ _ _ => true
  | .mul _ _ _ _ => true
  | .mulh _ _ _ _ => true
  | .mulhU _ _ _ _ => true
  | .div _ _ _ _ => true
  | .divU _ _ _ _ => true
  | .rem _ _ _ _ => true
  | .remU _ _ _ _ => true
  | .and _ _ _ _ => true
  | .or _ _ _ _ => true
  | .xor _ _ _ _ => true
  | .shl _ _ _ _ => true
  | .shr _ _ _ _ => true
  | .sra _ _ _ _ => true
  | .min _ _ _ _ => true
  | .minU _ _ _ _ => true
  | .max _ _ _ _ => true
  | .maxU _ _ _ _ => true
  | .clz _ _ _ => true
  | .popc _ _ _ => true
  | .mov _ _ _ => true
  | .sel _ _ _ _ => true
  | .addi _ _ _ _ => true
  | .andi _ _ _ _ => true
  | .ori _ _ _ _ => true
  | .xori _ _ _ _ => true
  | .shli _ _ _ _ => true
  | .shri _ _ _ _ => true
  | .srai _ _ _ _ => true
  | .movi _ _ _ => true
  | .lui _ _ _ => true
  | .ext _ _ _ => true
  | .extRead _ _ _ => true
  | .exti _ _ _ => true
  | .cmp _ _ _ _ _ => true
  | .cmpi _ _ _ _ _ => true
  | .wid _ _ _ => true
  | .b _ => true
  | .bl _ => true
  | .bp _ _ _ => true
  | .jr _ _ => true
  | .ret _ => true
  | .stray => true
  | .muster => true
  | .done => true
  | .pand _ _ _ _ => true
  | .por _ _ _ _ => true
  | .pnot _ _ _ => true
  | .rep _ _ _ => true
  | .repReg _ _ _ => true
  | .ld _ _ _ _ _ _ => true
  | .lds _ _ _ _ _ _ => true
  | .st _ _ _ _ _ _ => true
  | .lda _ _ _ _ _ _ => true
  | .stl _ _ _ _ _ _ => true
  | .ldf _ _ _ => true
  | .ldfn _ _ _ _ => true
  | .ste _ _ _ => true
  | .sten _ _ _ _ => true
  | .tagset _ _ => true
  | .tagclr _ _ => true
  | .amo _ _ _ _ _ _ => true
  | .cas _ _ _ _ _ => true
  | .red _ _ _ _ _ => true
  | .redf _ _ _ _ _ => true
  | .redfU _ _ _ _ => true
  | .fence _ _ => true
  | .fenceX _ _ _ _ => true
  | .qtryRd _ _ _ _ => true
  | .qtryWr _ _ _ _ => true
  | .fadd _ _ _ _ _ _ => true
  | .fsub _ _ _ _ _ _ => true
  | .fmul _ _ _ _ _ _ => true
  | .ffma _ _ _ _ _ _ => true
  | .fdiv _ _ _ _ _ _ => true
  | .fsqrt _ _ _ _ _ => true
  | .fmin _ _ _ _ _ => true
  | .fmax _ _ _ _ _ => true
  | .fcmp _ _ _ _ _ _ => true
  | .fcvt _ _ _ _ _ _ => true
  | .tadd _ _ _ _ _ => true
  | .tsub _ _ _ _ _ => true
  | .tmul _ _ _ _ _ => true
  | .tfma _ _ _ _ _ => true
  | .tmax _ _ _ _ _ => true
  | .tmin _ _ _ _ _ => true
  | .texp _ _ _ _ => true
  | .trcp _ _ _ _ => true
  | .trsq _ _ _ _ => true
  | .tlog _ _ _ _ => true
  | .tcvt _ _ _ _ => true
  | .tred _ _ _ _ _ _ => true
  | .tbcast _ _ _ _ _ => true
  | .ttrans _ _ _ _ => true
  | .tcmpEq _ _ _ _ _ => true
  | .tcmpNe _ _ _ _ _ => true
  | .tcmpLt _ _ _ _ _ => true
  | .tcmpLe _ _ _ _ _ => true
  | .tsel _ _ _ _ => true
  | .tsqz _ _ _ _ => true
  | .txpd _ _ _ _ => true
  | .trand _ _ _ => true
  | .tmov _ _ _ _ => true
  | .tzero _ _ _ => true
  | .tfill _ _ _ _ => true
  | .tld _ _ _ _ _ => true
  | .tst _ _ _ _ => true
  | .tldG _ _ _ _ _ _ => true
  | .tstG _ _ _ _ _ => true
  | .shpSet _ _ _ => true
  | .shpGet _ _ _ => true
  | .mma _ _ _ => true
  | .mmaG _ _ _ => true
  | .mmas _ _ _ => true
  | .accClr _ => true
  | .accAnch _ _ => true
  | .accDrn _ _ => true
  | .accSend _ _ _ => true
  | .accLd _ _ => true
  | .accSt _ _ => true
  | .cpy _ _ _ _ => true
  | .cpyW _ _ _ => true
  | .cpyWPoll _ _ _ _ => true
  | .cpyT _ _ _ _ => true
  | .cpyDig _ _ _ _ => true
  | .deal _ _ _ _ => true
  | .put _ _ _ _ => true
  | .circOpen _ _ _ => true
  | .circWiden _ _ _ => true
  | .circClose _ _ _ _ => true
  | .circQ _ _ _ => true
  | .send _ _ _ => true
  | .sendn _ _ _ _ => true
  | .hret _ => true
  | .chanCfg _ _ _ _ => true
  | .spawn _ _ _ => true
  | .spawnn _ _ _ _ => true
  | .join _ _ _ => true
  | .joinn _ _ _ _ => true
  | .launch _ _ _ => true
  | .launchn _ _ _ _ => true
  | .barInit _ _ _ => true
  | .barArr _ _ _ => true
  | .barWait _ _ _ => true
  | .barTest _ _ _ _ => true
  | .trap _ _ => true
  | .eret _ _ _ => true
  | .brk _ => true
  | .nop _ => true
  | .idemBegin _ => true
  | .idemEnd _ => true
  | .tlbiR _ _ _ _ => true
  | .ctxLive _ _ => true
  | .ctxSave _ _ => true
  | .ctxRst _ _ _ => true
  | .csrr _ _ _ => true
  | .csrw _ _ _ => true
  | .cMov _ _ => true
  | .cAddi _ _ => true
  | .cAdd _ _ => true
  | .cSub _ _ => true
  | .cLdd _ _ => true
  | .cStd _ _ => true
  | .cB _ => true
  | .cBp _ _ _ => true
  | .cNop => true
  | .cRet => true
  | .cMuster => true
  | .cDone => true
  | .cStray => true
  | .asidInstall _ => false
  | .asidLoad _ => false
  | .exportHandle _ => false
  | .revoke _ => false
  | .handleRead _ => false
  | .revokeNotice _ _ => false
  | .revokeAck _ _ => false
  | .revokeTimeout _ _ => false
  | .fillRequest _ _ _ _ _ => false
  | .tlbiBroadcast _ => false
  | .holderAck _ _ => false
  | .peerAccess _ _ => false
  | .accessResponse _ _ _ => false
  | .timeExchange _ => false
  | .timeAlign _ => false
  | .slotForward _ _ _ => false
  | .circuitRequest _ => false
  | .circuitResearch _ _ => false
  | .circuitDeadline _ _ => false
  | .circAcceptance _ _ => false
  | .exchangeRequest _ => false
  | .configurationFlit _ => false
  | .chainClear _ _ => false
  | .linkFailure _ _ => false
  | .replay _ _ => false
  | .laneRepair _ => false
  | .laneShed _ => false
  | .linkWake _ => false
  | .tokenRefill _ _ => false
  | .hbmAccess _ _ _ => false
  | .stopNotice _ _ _ _ => false
  | .demandBeacon _ _ _ _ => false
  | .goNotice _ _ _ _ => false
  | .peerForward _ _ => false
  | .relayForward _ _ => false
  | .vaultAccess _ _ => false
  | .reductionApply _ _ => false
  | .install _ => false
  | .remove _ => false
  | .regionRead _ => false
  | .dealBlock _ _ _ _ => false
  | .engineExecute _ _ _ _ => false
  | .payloadArrival _ _ => false
  | .commandComplete _ _ _ => false
  | .flogClear _ _ _ => false
  | .raceSweep _ _ _ => false
  | .dispatchRound _ => false
  | .stealRequest _ _ => false
  | .stealReply _ _ => false
  | .taskRecordArrival _ _ => false
  | .taskStart _ _ => false
  | .joinWordWrite _ _ => false
  | .messageArrival _ _ => false
  | .messageAck _ _ => false
  | .messageResend _ _ => false
  | .handlerStart _ _ _ => false
  | .batch _ _ => false
  | .barrierArrival _ _ => false
  | .barrierQuery _ _ => false
  | .barrierReply _ _ => false
  | .doorbell _ _ _ _ => false
  | .lqConfigWrite _ _ _ _ => false
  | .launchIntake _ => false
  | .coreTimeRefill _ => false
  | .completionRecord _ _ => false
  | .trapRecord _ _ => false
  | .trapRecordRetry _ _ => false
  | .tscrWrite _ _ _ => false
  | .terminate _ _ _ => false
  | .preemptionRequest _ _ => false
  | .release _ _ => false
  | .preemptBroadcast _ _ => false
  | .fallback _ _ => false
  | .drainEnd _ _ => false
  | .imagesWritten _ _ => false
  | .preemptionResponse _ => false
  | .restoreComplete _ _ => false
  | .checkpointComplete _ _ => false
  | .create _ _ => false
  | .destroy _ _ => false
  | .paddockRead _ _ => false
  | .usageRecord _ _ => false
  | .studBookIndex _ _ _ => false
  | .version _ => false
  | .capabilities _ => false
  | .algorithms _ => false
  | .digests _ => false
  | .certificate _ _ _ _ => false
  | .challenge _ _ _ => false
  | .measurements _ _ _ => false
  | .keyExchange _ _ => false
  | .finish _ _ _ => false
  | .endSession _ _ => false
  | .bind _ _ _ _ _ _ => false
  | .unbind _ _ _ _ => false
  | .ideKm _ _ _ _ => false
  | .lockInterface _ _ => false
  | .stopInterface _ _ => false
  | .domainMembership _ _ _ => false
  | .packageLinkCheck _ _ _ _ _ => false
  | .powerOn => false
  | .counterClear _ _ _ => false
  | .arbiterPeriod => false
  | .guardStepChange => false
  | .frequencyRaise => false
  | .coreStop _ _ => false
  | .coreRestart _ _ => false
  | .capMessage _ _ => false
  | .leaseExpiry => false
  | .thresholdWrite _ _ => false
  | .thermalEvaluation => false
  | .registerWrite _ _ _ _ => false
  | .memoryRequest _ _ _ _ _ _ _ _ => false
  | .startInterface _ _ => false
  | .linkReturn _ => false
  | .supervisorResume _ _ _ _ => false

/-- The field values of an instruction word are legal (R237); an event has none to check. -/
def wf : Instr → Bool
  | .add _ c b a => dstOk a && srcOk b && srcOk c
  | .sub _ c b a => dstOk a && srcOk b && srcOk c
  | .mul _ c b a => dstOk a && srcOk b && srcOk c
  | .mulh _ c b a => dstOk a && srcOk b && srcOk c
  | .mulhU _ c b a => dstOk a && srcOk b && srcOk c
  | .div _ c b a => dstOk a && srcOk b && srcOk c
  | .divU _ c b a => dstOk a && srcOk b && srcOk c
  | .rem _ c b a => dstOk a && srcOk b && srcOk c
  | .remU _ c b a => dstOk a && srcOk b && srcOk c
  | .and _ c b a => dstOk a && srcOk b && srcOk c
  | .or _ c b a => dstOk a && srcOk b && srcOk c
  | .xor _ c b a => dstOk a && srcOk b && srcOk c
  | .shl _ c b a => dstOk a && srcOk b && srcOk c
  | .shr _ c b a => dstOk a && srcOk b && srcOk c
  | .sra _ c b a => dstOk a && srcOk b && srcOk c
  | .min _ c b a => dstOk a && srcOk b && srcOk c
  | .minU _ c b a => dstOk a && srcOk b && srcOk c
  | .max _ c b a => dstOk a && srcOk b && srcOk c
  | .maxU _ c b a => dstOk a && srcOk b && srcOk c
  | .clz _ b a => dstOk a && srcOk b
  | .popc _ b a => dstOk a && srcOk b
  | .mov _ b a => dstOk a && srcOk b
  | .sel _ c b a => dstOk a && srcOk b && srcOk c
  | .addi _ _ b a => dstOk a && srcOk b
  | .andi _ _ b a => dstOk a && srcOk b
  | .ori _ _ b a => dstOk a && srcOk b
  | .xori _ _ b a => dstOk a && srcOk b
  | .shli _ _ b a => dstOk a && srcOk b
  | .shri _ _ b a => dstOk a && srcOk b
  | .srai _ _ b a => dstOk a && srcOk b
  | .movi _ _ a => dstOk a
  | .lui _ _ a => dstOk a
  | .ext _ b _ => srcOk b
  | .extRead _ _ a => dstOk a
  | .exti _ _ _ => true
  | .cmp _ n c b d => decide (n.toNat ≤ 9) && predOk d && srcOk b && srcOk c
  | .cmpi _ _ n b d => decide (n.toNat ≤ 9) && predOk d && srcOk b
  | .wid _ i a => decide (i.toNat ≤ 6) && dstOk a
  | .b _ => true
  | .bl _ => true
  | .bp _ _ _ => true
  | .jr _ b => srcOk b
  | .ret _ => true
  | .stray => true
  | .muster => true
  | .done => true
  | .pand _ _ _ d => predOk d
  | .por _ _ _ d => predOk d
  | .pnot _ _ d => predOk d
  | .rep n _ _ => n != 0
  | .repReg a _ _ => srcOk a
  | .ld _ _ _ _ b a => dstOk a && srcOk b
  | .lds _ _ _ w b a => decide (w.toNat ≤ 2) && dstOk a && srcOk b
  | .st _ _ _ _ b a => srcOk a && srcOk b
  | .lda _ _ _ _ b a => dstOk a && srcOk b
  | .stl _ _ _ _ b a => srcOk a && srcOk b
  | .ldf _ b a => dstOk a && srcOk b
  | .ldfn _ p b a => predOk p && dstOk a && srcOk b
  | .ste _ b a => srcOk a && srcOk b
  | .sten _ p b a => predOk p && srcOk a && srcOk b
  | .tagset _ b => srcOk b
  | .tagclr _ b => srcOk b
  | .amo _ _ o c b a => decide (o.toNat ≤ 8) && dstOk a && srcOk b && srcOk c
  | .cas _ _ c b a => plainOk a && srcOk b && srcOk c
  | .red _ _ o c b => decide (1 ≤ o.toNat) && decide (o.toNat ≤ 8) && srcOk b && srcOk c
  | .redf _ _ c b a => srcOk a && srcOk b && srcOk c
  | .redfU _ _ c b => srcOk b && srcOk c
  | .fence _ s => scopeOk s
  | .fenceX _ y x s => scopeOk s && classOk x && classOk y
  | .qtryRd _ p q a => decide (2 ≤ q.toNat) && predOk p && plainOk a
  | .qtryWr _ p q a => decide (q.toNat ≤ 1) && predOk p && plainOk a
  | .fadd _ r _ c b a => roundOk r && dstOk a && srcOk b && srcOk c
  | .fsub _ r _ c b a => roundOk r && dstOk a && srcOk b && srcOk c
  | .fmul _ r _ c b a => roundOk r && dstOk a && srcOk b && srcOk c
  | .ffma _ r _ c b a => roundOk r && plainOk a && srcOk b && srcOk c
  | .fdiv _ r _ c b a => roundOk r && dstOk a && srcOk b && srcOk c
  | .fsqrt _ r _ b a => roundOk r && dstOk a && srcOk b
  | .fmin _ _ c b a => dstOk a && srcOk b && srcOk c
  | .fmax _ _ c b a => dstOk a && srcOk b && srcOk c
  | .fcmp _ r _ c b d => decide (r.toNat ≤ 4) && predOk d && srcOk b && srcOk c
  | .fcvt _ r k j b a => roundOk r && decide (k.toNat ≤ 5) && decide (j.toNat ≤ 5) && (k.toNat != j.toNat) && (decide (k.toNat < 2) || decide (j.toNat < 2)) && dstOk a && srcOk b
  | .tadd _ _ b a d => groupOk d && groupOk a && alignedOk b (a.toNat % 4)
  | .tsub _ _ b a d => groupOk d && groupOk a && alignedOk b (a.toNat % 4)
  | .tmul _ _ b a d => groupOk d && groupOk a && alignedOk b (a.toNat % 4)
  | .tfma _ _ b a d => groupOk d && groupOk a && alignedOk b (a.toNat % 4)
  | .tmax _ _ b a d => groupOk d && groupOk a && alignedOk b (a.toNat % 4)
  | .tmin _ _ b a d => groupOk d && groupOk a && alignedOk b (a.toNat % 4)
  | .texp _ _ a d => groupOk d && groupOk a
  | .trcp _ _ a d => groupOk d && groupOk a
  | .trsq _ _ a d => groupOk d && groupOk a
  | .tlog _ _ a d => groupOk d && groupOk a
  | .tcvt _ _ a d => groupOk d && groupOk a
  | .tred _ _ _ o a d => decide (o.toNat ≤ 2) && groupOk d && groupOk a
  | .tbcast _ _ _ a d => groupOk d && groupOk a
  | .ttrans _ _ a d => groupOk d && groupOk a
  | .tcmpEq _ _ b a d => groupOk d && groupOk a && alignedOk b (a.toNat % 4)
  | .tcmpNe _ _ b a d => groupOk d && groupOk a && alignedOk b (a.toNat % 4)
  | .tcmpLt _ _ b a d => groupOk d && groupOk a && alignedOk b (a.toNat % 4)
  | .tcmpLe _ _ b a d => groupOk d && groupOk a && alignedOk b (a.toNat % 4)
  | .tsel _ b a d => groupOk d && groupOk a && alignedOk b (a.toNat % 4)
  | .tsqz _ _ a d => groupOk d && groupOk a
  | .txpd _ _ a d => groupOk d && groupOk a
  | .trand _ _ d => groupOk d
  | .tmov _ _ a d => groupOk d && groupOk a
  | .tzero _ _ d => groupOk d
  | .tfill _ _ _ d => groupOk d
  | .tld _ _ _ _ d => groupOk d
  | .tst _ _ _ d => groupOk d
  | .tldG _ _ _ _ _ d => groupOk d
  | .tstG _ _ _ _ d => groupOk d
  | .shpSet _ b _ => srcOk b
  | .shpGet _ _ a => dstOk a
  | .mma _ b a => groupOk b && groupOk a
  | .mmaG _ b _ => groupOk b
  | .mmas _ b a => groupOk b && groupOk a
  | .accClr _ => true
  | .accAnch _ _ => true
  | .accDrn _ d => groupOk d
  | .accSend _ b a => srcOk a && srcOk b
  | .accLd _ _ => true
  | .accSt _ _ => true
  | .cpy _ c b a => dstOk a && srcOk b && srcOk c
  | .cpyW _ b a => dstOk a && srcOk b
  | .cpyWPoll _ p b a => predOk p && dstOk a && srcOk b
  | .cpyT _ c b a => dstOk a && srcOk b && srcOk c
  | .cpyDig _ c b a => dstOk a && srcOk b && srcOk c
  | .deal _ c b a => dstOk a && srcOk b && srcOk c
  | .put _ c b a => dstOk a && srcOk b && srcOk c
  | .circOpen _ b a => dstOk a && srcOk b
  | .circWiden _ b a => dstOk a && srcOk b
  | .circClose _ c b a => dstOk a && srcOk b && srcOk c
  | .circQ _ b a => dstOk a && srcOk b
  | .send _ b a => srcOk a && srcOk b
  | .sendn _ p b a => predOk p && srcOk a && srcOk b
  | .hret _ => true
  | .chanCfg _ c b a => srcOk a && srcOk b && srcOk c
  | .spawn _ b a => dstOk a && srcOk b
  | .spawnn _ p b a => predOk p && dstOk a && srcOk b
  | .join _ _ a => dstOk a
  | .joinn _ p _ a => predOk p && dstOk a
  | .launch _ b a => srcOk a && srcOk b
  | .launchn _ c b d => predOk d && srcOk b && srcOk c
  | .barInit _ b a => srcOk a && srcOk b
  | .barArr _ b a => dstOk a && srcOk b
  | .barWait _ b a => srcOk a && srcOk b
  | .barTest _ c b d => predOk d && srcOk b && srcOk c
  | .trap _ _ => true
  | .eret _ b a => srcOk a && srcOk b
  | .brk _ => true
  | .nop _ => true
  | .idemBegin _ => true
  | .idemEnd _ => true
  | .tlbiR _ c b a => srcOk a && srcOk b && srcOk c
  | .ctxLive _ a => srcOk a
  | .ctxSave _ a => srcOk a
  | .ctxRst _ b a => srcOk a && srcOk b
  | .csrr _ r a => decide (a.toNat < 28) && csrKnown r.toNat
  | .csrw _ r a => decide (a.toNat < 28) && csrKnown r.toNat
  | .cMov d a => d != 0 && dstOk d && srcOk a
  | .cAddi d _ => d != 0 && plainOk d
  | .cAdd d a => d != 0 && plainOk d && srcOk a
  | .cSub d a => d != 0 && plainOk d && srcOk a
  | .cLdd d _ => dstOk d
  | .cStd a _ => srcOk a
  | .cB _ => true
  | .cBp _ _ _ => true
  | .cNop => true
  | .cRet => true
  | .cMuster => true
  | .cDone => true
  | .cStray => true
  | .asidInstall _ => true
  | .asidLoad _ => true
  | .exportHandle _ => true
  | .revoke _ => true
  | .handleRead _ => true
  | .revokeNotice _ _ => true
  | .revokeAck _ _ => true
  | .revokeTimeout _ _ => true
  | .fillRequest _ _ _ _ _ => true
  | .tlbiBroadcast _ => true
  | .holderAck _ _ => true
  | .peerAccess _ _ => true
  | .accessResponse _ _ _ => true
  | .timeExchange _ => true
  | .timeAlign _ => true
  | .slotForward _ _ _ => true
  | .circuitRequest _ => true
  | .circuitResearch _ _ => true
  | .circuitDeadline _ _ => true
  | .circAcceptance _ _ => true
  | .exchangeRequest _ => true
  | .configurationFlit _ => true
  | .chainClear _ _ => true
  | .linkFailure _ _ => true
  | .replay _ _ => true
  | .laneRepair _ => true
  | .laneShed _ => true
  | .linkWake _ => true
  | .tokenRefill _ _ => true
  | .hbmAccess _ _ _ => true
  | .stopNotice _ _ _ _ => true
  | .demandBeacon _ _ _ _ => true
  | .goNotice _ _ _ _ => true
  | .peerForward _ _ => true
  | .relayForward _ _ => true
  | .vaultAccess _ _ => true
  | .reductionApply _ _ => true
  | .install _ => true
  | .remove _ => true
  | .regionRead _ => true
  | .dealBlock _ _ _ _ => true
  | .engineExecute _ _ _ _ => true
  | .payloadArrival _ _ => true
  | .commandComplete _ _ _ => true
  | .flogClear _ _ _ => true
  | .raceSweep _ _ _ => true
  | .dispatchRound _ => true
  | .stealRequest _ _ => true
  | .stealReply _ _ => true
  | .taskRecordArrival _ _ => true
  | .taskStart _ _ => true
  | .joinWordWrite _ _ => true
  | .messageArrival _ _ => true
  | .messageAck _ _ => true
  | .messageResend _ _ => true
  | .handlerStart _ _ _ => true
  | .batch _ _ => true
  | .barrierArrival _ _ => true
  | .barrierQuery _ _ => true
  | .barrierReply _ _ => true
  | .doorbell _ _ _ _ => true
  | .lqConfigWrite _ _ _ _ => true
  | .launchIntake _ => true
  | .coreTimeRefill _ => true
  | .completionRecord _ _ => true
  | .trapRecord _ _ => true
  | .trapRecordRetry _ _ => true
  | .tscrWrite _ _ _ => true
  | .terminate _ _ _ => true
  | .preemptionRequest _ _ => true
  | .release _ _ => true
  | .preemptBroadcast _ _ => true
  | .fallback _ _ => true
  | .drainEnd _ _ => true
  | .imagesWritten _ _ => true
  | .preemptionResponse _ => true
  | .restoreComplete _ _ => true
  | .checkpointComplete _ _ => true
  | .create _ _ => true
  | .destroy _ _ => true
  | .paddockRead _ _ => true
  | .usageRecord _ _ => true
  | .studBookIndex _ _ _ => true
  | .version _ => true
  | .capabilities _ => true
  | .algorithms _ => true
  | .digests _ => true
  | .certificate _ _ _ _ => true
  | .challenge _ _ _ => true
  | .measurements _ _ _ => true
  | .keyExchange _ _ => true
  | .finish _ _ _ => true
  | .endSession _ _ => true
  | .bind _ _ _ _ _ _ => true
  | .unbind _ _ _ _ => true
  | .ideKm _ _ _ _ => true
  | .lockInterface _ _ => true
  | .stopInterface _ _ => true
  | .domainMembership _ _ _ => true
  | .packageLinkCheck _ _ _ _ _ => true
  | .powerOn => true
  | .counterClear _ _ _ => true
  | .arbiterPeriod => true
  | .guardStepChange => true
  | .frequencyRaise => true
  | .coreStop _ _ => true
  | .coreRestart _ _ => true
  | .capMessage _ _ => true
  | .leaseExpiry => true
  | .thresholdWrite _ _ => true
  | .thermalEvaluation => true
  | .registerWrite _ _ _ _ => true
  | .memoryRequest _ _ _ _ _ _ _ _ => true
  | .startInterface _ _ => true
  | .linkReturn _ => true
  | .supervisorResume _ _ _ _ => true

end Sys2Proof
end

