-- ==== Sys2Proof/Decode.lean ====
section
/-!
DEFINITION. Sys2Proof/Decode.lean: from bytes to an instruction or to a named refusal (R216 to R222, R234 to R237), total
on any bytes; and the encoder, written from the same tables. Words are read as numbers: field hi:lo of a word w is
w / 2^lo mod 2^(hi - lo + 1).
-/

namespace Sys2Proof

/-- Why an encoding is not an instruction (R237). -/
inductive Illegal where
  /-- a 16-bit word that R234 excludes -/
  | compactForm
  /-- OP 0x00 or an unassigned OP -/
  | opcode
  /-- an FN value that R236 does not list -/
  | function
  /-- a reserved field, a bit marked 0 or a forbidden guard that is not zero -/
  | reserved
  /-- a field value that is not allowed: a register group, predicate, rounding mode, scope, class, queue, code or system register -/
  | fieldValue
deriving DecidableEq, Repr, Inhabited

/-- What a run of bytes decodes to: an instruction with its length in bytes, an illegal encoding with its length, or too
few bytes. -/
inductive Decoded where
  | instr (i : Instr) (len : Nat)
  | illegal (why : Illegal) (len : Nat)
  | short
deriving DecidableEq, Repr, Inhabited

/-- The n-bit field of a word that starts at bit lo. -/
def fld (w lo n : Nat) : BitVec n := BitVec.ofNat n (w / 2 ^ lo)

/-- The value of the n-bit field of a word that starts at bit lo. -/
def fldNat (w lo n : Nat) : Nat := w / 2 ^ lo % 2 ^ n

/-- An instruction whose reserved bits were found zero or not, and whose field values are then checked (R222, R237). -/
def accept (clear : Bool) (i : Instr) : Except Illegal Instr :=
  if clear then (if wf i then .ok i else .error .fieldValue) else .error .reserved

/-- Words of OP 0x01, by FN (R235, R236). -/
def decodeInt (w : Nat) : Except Illegal Instr :=
  match fldNat w 24 5 with
  | 0 => accept (true) (.add (fld w 29 3) (fld w 19 5) (fld w 14 5) (fld w 9 5))
  | 1 => accept (true) (.sub (fld w 29 3) (fld w 19 5) (fld w 14 5) (fld w 9 5))
  | 2 => accept (true) (.mul (fld w 29 3) (fld w 19 5) (fld w 14 5) (fld w 9 5))
  | 3 => accept (true) (.mulh (fld w 29 3) (fld w 19 5) (fld w 14 5) (fld w 9 5))
  | 4 => accept (true) (.mulhU (fld w 29 3) (fld w 19 5) (fld w 14 5) (fld w 9 5))
  | 5 => accept (true) (.div (fld w 29 3) (fld w 19 5) (fld w 14 5) (fld w 9 5))
  | 6 => accept (true) (.divU (fld w 29 3) (fld w 19 5) (fld w 14 5) (fld w 9 5))
  | 7 => accept (true) (.rem (fld w 29 3) (fld w 19 5) (fld w 14 5) (fld w 9 5))
  | 8 => accept (true) (.remU (fld w 29 3) (fld w 19 5) (fld w 14 5) (fld w 9 5))
  | 9 => accept (true) (.and (fld w 29 3) (fld w 19 5) (fld w 14 5) (fld w 9 5))
  | 10 => accept (true) (.or (fld w 29 3) (fld w 19 5) (fld w 14 5) (fld w 9 5))
  | 11 => accept (true) (.xor (fld w 29 3) (fld w 19 5) (fld w 14 5) (fld w 9 5))
  | 12 => accept (true) (.shl (fld w 29 3) (fld w 19 5) (fld w 14 5) (fld w 9 5))
  | 13 => accept (true) (.shr (fld w 29 3) (fld w 19 5) (fld w 14 5) (fld w 9 5))
  | 14 => accept (true) (.sra (fld w 29 3) (fld w 19 5) (fld w 14 5) (fld w 9 5))
  | 15 => accept (true) (.min (fld w 29 3) (fld w 19 5) (fld w 14 5) (fld w 9 5))
  | 16 => accept (true) (.minU (fld w 29 3) (fld w 19 5) (fld w 14 5) (fld w 9 5))
  | 17 => accept (true) (.max (fld w 29 3) (fld w 19 5) (fld w 14 5) (fld w 9 5))
  | 18 => accept (true) (.maxU (fld w 29 3) (fld w 19 5) (fld w 14 5) (fld w 9 5))
  | 19 => accept (fldNat w 19 5 == 0) (.clz (fld w 29 3) (fld w 14 5) (fld w 9 5))
  | 20 => accept (fldNat w 19 5 == 0) (.popc (fld w 29 3) (fld w 14 5) (fld w 9 5))
  | 21 => accept (fldNat w 19 5 == 0) (.mov (fld w 29 3) (fld w 14 5) (fld w 9 5))
  | 22 => accept (true) (.sel (fld w 29 3) (fld w 19 5) (fld w 14 5) (fld w 9 5))
  | _ => .error .function

/-- Words of OP 0x0B, by FN (R235, R236). -/
def decodeExt (w : Nat) : Except Illegal Instr :=
  match fldNat w 24 5 with
  | 0 => accept (fldNat w 12 2 == 0 && fldNat w 19 5 == 0) (.ext (fld w 29 3) (fld w 14 5) (fld w 9 3))
  | 1 => accept (fldNat w 17 7 == 0) (.extRead (fld w 29 3) (fld w 14 3) (fld w 9 5))
  | _ => .error .function

/-- Words of OP 0x13, by FN (R235, R236). -/
def decodeCtl (w : Nat) : Except Illegal Instr :=
  match fldNat w 24 5 with
  | 0 => accept (fldNat w 9 5 == 0 && fldNat w 19 5 == 0) (.jr (fld w 29 3) (fld w 14 5))
  | 1 => accept (fldNat w 9 15 == 0) (.ret (fld w 29 3))
  | 2 => accept (fldNat w 29 3 == 0 && fldNat w 9 15 == 0) (.stray)
  | 3 => accept (fldNat w 29 3 == 0 && fldNat w 9 15 == 0) (.muster)
  | 4 => accept (fldNat w 29 3 == 0 && fldNat w 9 15 == 0) (.done)
  | _ => .error .function

/-- Words of OP 0x14, by FN (R235, R236). -/
def decodePred (w : Nat) : Except Illegal Instr :=
  match fldNat w 24 5 with
  | 0 => accept (fldNat w 12 2 == 0 && fldNat w 17 2 == 0 && fldNat w 22 2 == 0) (.pand (fld w 29 3) (fld w 19 3) (fld w 14 3) (fld w 9 3))
  | 1 => accept (fldNat w 12 2 == 0 && fldNat w 17 2 == 0 && fldNat w 22 2 == 0) (.por (fld w 29 3) (fld w 19 3) (fld w 14 3) (fld w 9 3))
  | 2 => accept (fldNat w 12 2 == 0 && fldNat w 17 7 == 0) (.pnot (fld w 29 3) (fld w 14 3) (fld w 9 3))
  | _ => .error .function

/-- Words of OP 0x1D, by FN (R235, R236). -/
def decodeTag (w : Nat) : Except Illegal Instr :=
  match fldNat w 24 5 with
  | 0 => accept (fldNat w 19 5 == 0) (.ldf (fld w 29 3) (fld w 14 5) (fld w 9 5))
  | 1 => accept (fldNat w 22 2 == 0) (.ldfn (fld w 29 3) (fld w 19 3) (fld w 14 5) (fld w 9 5))
  | 2 => accept (fldNat w 19 5 == 0) (.ste (fld w 29 3) (fld w 14 5) (fld w 9 5))
  | 3 => accept (fldNat w 22 2 == 0) (.sten (fld w 29 3) (fld w 19 3) (fld w 14 5) (fld w 9 5))
  | 4 => accept (fldNat w 9 5 == 0 && fldNat w 19 5 == 0) (.tagset (fld w 29 3) (fld w 14 5))
  | 5 => accept (fldNat w 9 5 == 0 && fldNat w 19 5 == 0) (.tagclr (fld w 29 3) (fld w 14 5))
  | _ => .error .function

/-- Words of OP 0x23, by FN (R235, R236). -/
def decodeFence (w : Nat) : Except Illegal Instr :=
  match fldNat w 24 5 with
  | 0 => accept (fldNat w 13 11 == 0) (.fence (fld w 29 3) (fld w 9 4))
  | 1 => accept (fldNat w 13 1 == 0 && fldNat w 17 2 == 0 && fldNat w 22 2 == 0) (.fenceX (fld w 29 3) (fld w 19 3) (fld w 14 3) (fld w 9 4))
  | _ => .error .function

/-- Words of OP 0x24, by FN (R235, R236). -/
def decodeQtry (w : Nat) : Except Illegal Instr :=
  match fldNat w 24 5 with
  | 0 => accept (fldNat w 16 3 == 7 && fldNat w 22 2 == 0) (.qtryRd (fld w 29 3) (fld w 19 3) (fld w 14 2) (fld w 9 5))
  | 1 => accept (fldNat w 16 3 == 7 && fldNat w 22 2 == 0) (.qtryWr (fld w 29 3) (fld w 19 3) (fld w 14 2) (fld w 9 5))
  | _ => .error .function

/-- Words of OP 0x5D, by FN (R235, R236). -/
def decodeShp (w : Nat) : Except Illegal Instr :=
  match fldNat w 24 5 with
  | 0 => accept (fldNat w 12 2 == 0 && fldNat w 19 5 == 0) (.shpSet (fld w 29 3) (fld w 14 5) (fld w 9 3))
  | 1 => accept (fldNat w 17 7 == 0) (.shpGet (fld w 29 3) (fld w 14 3) (fld w 9 5))
  | _ => .error .function

/-- Words of OP 0x70, by FN (R235, R236). -/
def decodeEng (w : Nat) : Except Illegal Instr :=
  match fldNat w 24 5 with
  | 0 => accept (true) (.cpy (fld w 29 3) (fld w 19 5) (fld w 14 5) (fld w 9 5))
  | 1 =>
    if fldNat w 19 3 == 0 then accept (fldNat w 19 5 == 0) (.cpyW (fld w 29 3) (fld w 14 5) (fld w 9 5))
    else accept (fldNat w 22 2 == 0) (.cpyWPoll (fld w 29 3) (fld w 19 3) (fld w 14 5) (fld w 9 5))
  | 2 => accept (true) (.cpyT (fld w 29 3) (fld w 19 5) (fld w 14 5) (fld w 9 5))
  | 3 => accept (true) (.cpyDig (fld w 29 3) (fld w 19 5) (fld w 14 5) (fld w 9 5))
  | 4 => accept (true) (.deal (fld w 29 3) (fld w 19 5) (fld w 14 5) (fld w 9 5))
  | 5 => accept (true) (.put (fld w 29 3) (fld w 19 5) (fld w 14 5) (fld w 9 5))
  | _ => .error .function

/-- Words of OP 0x71, by FN (R235, R236). -/
def decodeCirc (w : Nat) : Except Illegal Instr :=
  match fldNat w 24 5 with
  | 0 => accept (fldNat w 19 5 == 0) (.circOpen (fld w 29 3) (fld w 14 5) (fld w 9 5))
  | 1 => accept (fldNat w 19 5 == 0) (.circWiden (fld w 29 3) (fld w 14 5) (fld w 9 5))
  | 2 => accept (true) (.circClose (fld w 29 3) (fld w 19 5) (fld w 14 5) (fld w 9 5))
  | 3 => accept (fldNat w 19 5 == 0) (.circQ (fld w 29 3) (fld w 14 5) (fld w 9 5))
  | _ => .error .function

/-- Words of OP 0x72, by FN (R235, R236). -/
def decodeMsg (w : Nat) : Except Illegal Instr :=
  match fldNat w 24 5 with
  | 0 => accept (fldNat w 19 5 == 0) (.send (fld w 29 3) (fld w 14 5) (fld w 9 5))
  | 1 => accept (fldNat w 22 2 == 0) (.sendn (fld w 29 3) (fld w 19 3) (fld w 14 5) (fld w 9 5))
  | 2 => accept (fldNat w 9 15 == 0) (.hret (fld w 29 3))
  | 3 => accept (true) (.chanCfg (fld w 29 3) (fld w 19 5) (fld w 14 5) (fld w 9 5))
  | _ => .error .function

/-- Words of OP 0x73, by FN (R235, R236). -/
def decodeTask (w : Nat) : Except Illegal Instr :=
  match fldNat w 24 5 with
  | 0 => accept (fldNat w 19 5 == 0) (.spawn (fld w 29 3) (fld w 14 5) (fld w 9 5))
  | 1 => accept (fldNat w 22 2 == 0) (.spawnn (fld w 29 3) (fld w 19 3) (fld w 14 5) (fld w 9 5))
  | 2 => accept (fldNat w 17 7 == 0) (.join (fld w 29 3) (fld w 14 3) (fld w 9 5))
  | 3 => accept (fldNat w 17 2 == 0 && fldNat w 22 2 == 0) (.joinn (fld w 29 3) (fld w 19 3) (fld w 14 3) (fld w 9 5))
  | 4 => accept (fldNat w 19 5 == 0) (.launch (fld w 29 3) (fld w 14 5) (fld w 9 5))
  | 5 => accept (fldNat w 12 2 == 0) (.launchn (fld w 29 3) (fld w 19 5) (fld w 14 5) (fld w 9 3))
  | _ => .error .function

/-- Words of OP 0x74, by FN (R235, R236). -/
def decodeBar (w : Nat) : Except Illegal Instr :=
  match fldNat w 24 5 with
  | 0 => accept (fldNat w 19 5 == 0) (.barInit (fld w 29 3) (fld w 14 5) (fld w 9 5))
  | 1 => accept (fldNat w 19 5 == 0) (.barArr (fld w 29 3) (fld w 14 5) (fld w 9 5))
  | 2 => accept (fldNat w 19 5 == 0) (.barWait (fld w 29 3) (fld w 14 5) (fld w 9 5))
  | 3 => accept (fldNat w 12 2 == 0) (.barTest (fld w 29 3) (fld w 19 5) (fld w 14 5) (fld w 9 3))
  | _ => .error .function

/-- Words of OP 0x78, by FN (R235, R236). -/
def decodeSys (w : Nat) : Except Illegal Instr :=
  match fldNat w 24 5 with
  | 0 => accept (fldNat w 9 5 == 0) (.trap (fld w 29 3) (fld w 14 10))
  | 1 => accept (fldNat w 19 5 == 0) (.eret (fld w 29 3) (fld w 14 5) (fld w 9 5))
  | 2 => accept (fldNat w 9 15 == 0) (.brk (fld w 29 3))
  | 3 => accept (fldNat w 9 15 == 0) (.nop (fld w 29 3))
  | 4 => accept (fldNat w 9 15 == 0) (.idemBegin (fld w 29 3))
  | 5 => accept (fldNat w 9 15 == 0) (.idemEnd (fld w 29 3))
  | 6 => accept (true) (.tlbiR (fld w 29 3) (fld w 19 5) (fld w 14 5) (fld w 9 5))
  | 7 => accept (fldNat w 14 10 == 0) (.ctxLive (fld w 29 3) (fld w 9 5))
  | 8 => accept (fldNat w 14 10 == 0) (.ctxSave (fld w 29 3) (fld w 9 5))
  | 9 => accept (fldNat w 19 5 == 0) (.ctxRst (fld w 29 3) (fld w 14 5) (fld w 9 5))
  | _ => .error .function

/-- A 32-bit word, by OP (R219, R235). -/
def decode32 (w : Nat) : Except Illegal Instr :=
  match fldNat w 2 7 with
  | 0x01 => decodeInt w
  | 0x02 => accept (true) (.addi (fld w 29 3) (fld w 19 10) (fld w 14 5) (fld w 9 5))
  | 0x03 => accept (true) (.andi (fld w 29 3) (fld w 19 10) (fld w 14 5) (fld w 9 5))
  | 0x04 => accept (true) (.ori (fld w 29 3) (fld w 19 10) (fld w 14 5) (fld w 9 5))
  | 0x05 => accept (true) (.xori (fld w 29 3) (fld w 19 10) (fld w 14 5) (fld w 9 5))
  | 0x06 => accept (fldNat w 25 4 == 0) (.shli (fld w 29 3) (fld w 19 6) (fld w 14 5) (fld w 9 5))
  | 0x07 => accept (fldNat w 25 4 == 0) (.shri (fld w 29 3) (fld w 19 6) (fld w 14 5) (fld w 9 5))
  | 0x08 => accept (fldNat w 25 4 == 0) (.srai (fld w 29 3) (fld w 19 6) (fld w 14 5) (fld w 9 5))
  | 0x09 => accept (true) (.movi (fld w 30 2) (fld w 14 16) (fld w 9 5))
  | 0x0A => accept (true) (.lui (fld w 30 2) (fld w 14 16) (fld w 9 5))
  | 0x0B => decodeExt w
  | 0x0C => accept (fldNat w 12 2 == 0) (.exti (fld w 30 2) (fld w 14 16) (fld w 9 3))
  | 0x0D => accept (fldNat w 12 2 == 0) (.cmp (fld w 29 3) (fld w 24 5) (fld w 19 5) (fld w 14 5) (fld w 9 3))
  | 0x0E => accept (fldNat w 12 2 == 0) (.cmpi (fld w 29 3) (fld w 23 6) (fld w 19 4) (fld w 14 5) (fld w 9 3))
  | 0x0F => accept (fldNat w 14 5 == 0) (.wid (fld w 29 3) (fld w 19 10) (fld w 9 5))
  | 0x10 => accept (true) (.b (fld w 9 23))
  | 0x11 => accept (true) (.bl (fld w 9 23))
  | 0x12 => accept (true) (.bp (fld w 29 3) (fld w 28 1) (fld w 9 19))
  | 0x13 => decodeCtl w
  | 0x14 => decodePred w
  | 0x15 => accept (true) (.rep (fld w 17 15) (fld w 13 4) (fld w 9 4))
  | 0x16 => accept (fldNat w 22 10 == 0) (.repReg (fld w 17 5) (fld w 13 4) (fld w 9 4))
  | 0x18 => accept (true) (.ld (fld w 29 3) (fld w 28 1) (fld w 21 7) (fld w 19 2) (fld w 14 5) (fld w 9 5))
  | 0x19 => accept (true) (.lds (fld w 29 3) (fld w 28 1) (fld w 21 7) (fld w 19 2) (fld w 14 5) (fld w 9 5))
  | 0x1A => accept (true) (.st (fld w 29 3) (fld w 28 1) (fld w 21 7) (fld w 19 2) (fld w 14 5) (fld w 9 5))
  | 0x1B => accept (true) (.lda (fld w 29 3) (fld w 28 1) (fld w 21 7) (fld w 19 2) (fld w 14 5) (fld w 9 5))
  | 0x1C => accept (true) (.stl (fld w 29 3) (fld w 28 1) (fld w 21 7) (fld w 19 2) (fld w 14 5) (fld w 9 5))
  | 0x1D => decodeTag w
  | 0x1E => accept (true) (.amo (fld w 29 3) (fld w 28 1) (fld w 24 4) (fld w 19 5) (fld w 14 5) (fld w 9 5))
  | 0x1F => accept (fldNat w 24 4 == 0) (.cas (fld w 29 3) (fld w 28 1) (fld w 19 5) (fld w 14 5) (fld w 9 5))
  | 0x20 => accept (fldNat w 9 5 == 0) (.red (fld w 29 3) (fld w 28 1) (fld w 24 4) (fld w 19 5) (fld w 14 5))
  | 0x21 => accept (fldNat w 25 4 == 0) (.redf (fld w 29 3) (fld w 24 1) (fld w 19 5) (fld w 14 5) (fld w 9 5))
  | 0x22 => accept (fldNat w 9 5 == 0 && fldNat w 25 4 == 0) (.redfU (fld w 29 3) (fld w 24 1) (fld w 19 5) (fld w 14 5))
  | 0x23 => decodeFence w
  | 0x24 => decodeQtry w
  | 0x28 => accept (fldNat w 25 1 == 0) (.fadd (fld w 29 3) (fld w 26 3) (fld w 24 1) (fld w 19 5) (fld w 14 5) (fld w 9 5))
  | 0x29 => accept (fldNat w 25 1 == 0) (.fsub (fld w 29 3) (fld w 26 3) (fld w 24 1) (fld w 19 5) (fld w 14 5) (fld w 9 5))
  | 0x2A => accept (fldNat w 25 1 == 0) (.fmul (fld w 29 3) (fld w 26 3) (fld w 24 1) (fld w 19 5) (fld w 14 5) (fld w 9 5))
  | 0x2B => accept (fldNat w 25 1 == 0) (.ffma (fld w 29 3) (fld w 26 3) (fld w 24 1) (fld w 19 5) (fld w 14 5) (fld w 9 5))
  | 0x2C => accept (fldNat w 25 1 == 0) (.fdiv (fld w 29 3) (fld w 26 3) (fld w 24 1) (fld w 19 5) (fld w 14 5) (fld w 9 5))
  | 0x2D => accept (fldNat w 19 5 == 0 && fldNat w 25 1 == 0) (.fsqrt (fld w 29 3) (fld w 26 3) (fld w 24 1) (fld w 14 5) (fld w 9 5))
  | 0x2E => accept (fldNat w 25 4 == 0) (.fmin (fld w 29 3) (fld w 24 1) (fld w 19 5) (fld w 14 5) (fld w 9 5))
  | 0x2F => accept (fldNat w 25 4 == 0) (.fmax (fld w 29 3) (fld w 24 1) (fld w 19 5) (fld w 14 5) (fld w 9 5))
  | 0x30 => accept (fldNat w 12 2 == 0 && fldNat w 25 1 == 0) (.fcmp (fld w 29 3) (fld w 26 3) (fld w 24 1) (fld w 19 5) (fld w 14 5) (fld w 9 3))
  | 0x31 => accept (true) (.fcvt (fld w 29 3) (fld w 26 3) (fld w 23 3) (fld w 19 4) (fld w 14 5) (fld w 9 5))
  | 0x40 => accept (true) (.tadd (fld w 29 3) (fld w 28 1) (fld w 23 5) (fld w 16 7) (fld w 9 7))
  | 0x41 => accept (true) (.tsub (fld w 29 3) (fld w 28 1) (fld w 23 5) (fld w 16 7) (fld w 9 7))
  | 0x42 => accept (true) (.tmul (fld w 29 3) (fld w 28 1) (fld w 23 5) (fld w 16 7) (fld w 9 7))
  | 0x43 => accept (true) (.tfma (fld w 29 3) (fld w 28 1) (fld w 23 5) (fld w 16 7) (fld w 9 7))
  | 0x44 => accept (true) (.tmax (fld w 29 3) (fld w 28 1) (fld w 23 5) (fld w 16 7) (fld w 9 7))
  | 0x45 => accept (true) (.tmin (fld w 29 3) (fld w 28 1) (fld w 23 5) (fld w 16 7) (fld w 9 7))
  | 0x46 => accept (fldNat w 23 5 == 0) (.texp (fld w 29 3) (fld w 28 1) (fld w 16 7) (fld w 9 7))
  | 0x47 => accept (fldNat w 23 5 == 0) (.trcp (fld w 29 3) (fld w 28 1) (fld w 16 7) (fld w 9 7))
  | 0x48 => accept (fldNat w 23 5 == 0) (.trsq (fld w 29 3) (fld w 28 1) (fld w 16 7) (fld w 9 7))
  | 0x49 => accept (fldNat w 23 5 == 0) (.tlog (fld w 29 3) (fld w 28 1) (fld w 16 7) (fld w 9 7))
  | 0x4A => accept (fldNat w 23 5 == 0) (.tcvt (fld w 29 3) (fld w 28 1) (fld w 16 7) (fld w 9 7))
  | 0x4B => accept (fldNat w 26 2 == 0) (.tred (fld w 29 3) (fld w 28 1) (fld w 25 1) (fld w 23 2) (fld w 16 7) (fld w 9 7))
  | 0x4C => accept (fldNat w 24 4 == 0) (.tbcast (fld w 29 3) (fld w 28 1) (fld w 23 1) (fld w 16 7) (fld w 9 7))
  | 0x4D => accept (fldNat w 23 5 == 0) (.ttrans (fld w 29 3) (fld w 28 1) (fld w 16 7) (fld w 9 7))
  | 0x4E => accept (true) (.tcmpEq (fld w 29 3) (fld w 28 1) (fld w 23 5) (fld w 16 7) (fld w 9 7))
  | 0x4F => accept (true) (.tcmpNe (fld w 29 3) (fld w 28 1) (fld w 23 5) (fld w 16 7) (fld w 9 7))
  | 0x50 => accept (true) (.tcmpLt (fld w 29 3) (fld w 28 1) (fld w 23 5) (fld w 16 7) (fld w 9 7))
  | 0x51 => accept (true) (.tcmpLe (fld w 29 3) (fld w 28 1) (fld w 23 5) (fld w 16 7) (fld w 9 7))
  | 0x52 => accept (fldNat w 28 1 == 0) (.tsel (fld w 29 3) (fld w 23 5) (fld w 16 7) (fld w 9 7))
  | 0x53 => accept (fldNat w 28 1 == 0) (.tsqz (fld w 29 3) (fld w 23 5) (fld w 16 7) (fld w 9 7))
  | 0x54 => accept (fldNat w 23 5 == 0) (.txpd (fld w 29 3) (fld w 28 1) (fld w 16 7) (fld w 9 7))
  | 0x55 => accept (fldNat w 16 12 == 0) (.trand (fld w 29 3) (fld w 28 1) (fld w 9 7))
  | 0x56 => accept (fldNat w 23 5 == 0) (.tmov (fld w 29 3) (fld w 28 1) (fld w 16 7) (fld w 9 7))
  | 0x57 => accept (fldNat w 16 12 == 0) (.tzero (fld w 29 3) (fld w 28 1) (fld w 9 7))
  | 0x58 => accept (fldNat w 21 7 == 0) (.tfill (fld w 29 3) (fld w 28 1) (fld w 16 5) (fld w 9 7))
  | 0x59 => accept (fldNat w 21 6 == 0) (.tld (fld w 29 3) (fld w 28 1) (fld w 27 1) (fld w 16 5) (fld w 9 7))
  | 0x5A => accept (fldNat w 21 6 == 0 && fldNat w 28 1 == 0) (.tst (fld w 29 3) (fld w 27 1) (fld w 16 5) (fld w 9 7))
  | 0x5B => accept (fldNat w 21 1 == 0) (.tldG (fld w 29 3) (fld w 28 1) (fld w 27 1) (fld w 22 5) (fld w 16 5) (fld w 9 7))
  | 0x5C => accept (fldNat w 21 1 == 0 && fldNat w 28 1 == 0) (.tstG (fld w 29 3) (fld w 27 1) (fld w 22 5) (fld w 16 5) (fld w 9 7))
  | 0x5D => decodeShp w
  | 0x60 => accept (fldNat w 9 7 == 0 && fldNat w 30 1 == 0) (.mma (fld w 31 1) (fld w 23 7) (fld w 16 7))
  | 0x61 => accept (fldNat w 9 9 == 0 && fldNat w 30 1 == 0) (.mmaG (fld w 31 1) (fld w 23 7) (fld w 18 5))
  | 0x62 => accept (fldNat w 9 7 == 0 && fldNat w 30 1 == 0) (.mmas (fld w 31 1) (fld w 23 7) (fld w 16 7))
  | 0x63 => accept (fldNat w 9 22 == 0) (.accClr (fld w 31 1))
  | 0x64 => accept (fldNat w 25 6 == 0) (.accAnch (fld w 31 1) (fld w 9 16))
  | 0x65 => accept (fldNat w 16 15 == 0) (.accDrn (fld w 31 1) (fld w 9 7))
  | 0x66 => accept (fldNat w 19 12 == 0) (.accSend (fld w 31 1) (fld w 14 5) (fld w 9 5))
  | 0x67 => accept (fldNat w 14 17 == 0) (.accLd (fld w 31 1) (fld w 9 5))
  | 0x68 => accept (fldNat w 14 17 == 0) (.accSt (fld w 31 1) (fld w 9 5))
  | 0x70 => decodeEng w
  | 0x71 => decodeCirc w
  | 0x72 => decodeMsg w
  | 0x73 => decodeTask w
  | 0x74 => decodeBar w
  | 0x78 => decodeSys w
  | 0x79 => accept (fldNat w 14 3 == 0) (.csrr (fld w 29 3) (fld w 17 12) (fld w 9 5))
  | 0x7A => accept (fldNat w 14 3 == 0) (.csrw (fld w 29 3) (fld w 17 12) (fld w 9 5))
  | _ => .error .opcode

/-- As `accept`, for a 16-bit form (item 1 of R237). -/
def accept16 (clear : Bool) (i : Instr) : Except Illegal Instr :=
  if clear && wf i then .ok i else .error .compactForm

/-- A 16-bit word, by L and CO (R234). -/
def decode16 (w : Nat) : Except Illegal Instr :=
  match fldNat w 0 5 with
  | 0x04 => accept16 (fldNat w 5 1 == 0) (.cMov (fld w 11 5) (fld w 6 5))
  | 0x08 => accept16 (true) (.cAddi (fld w 11 5) (fld w 5 6))
  | 0x0C => accept16 (fldNat w 5 1 == 0) (.cAdd (fld w 11 5) (fld w 6 5))
  | 0x10 => accept16 (fldNat w 5 1 == 0) (.cSub (fld w 11 5) (fld w 6 5))
  | 0x14 => accept16 (true) (.cLdd (fld w 11 5) (fld w 5 6))
  | 0x18 => accept16 (true) (.cStd (fld w 11 5) (fld w 5 6))
  | 0x1C => accept16 (true) (.cB (fld w 5 11))
  | 0x01 => accept16 (true) (.cBp (fld w 13 3) (fld w 12 1) (fld w 5 7))
  | 0x05 => accept16 (fldNat w 5 11 == 0) (.cNop)
  | 0x09 => accept16 (fldNat w 5 11 == 0) (.cRet)
  | 0x0D => accept16 (fldNat w 5 11 == 0) (.cMuster)
  | 0x11 => accept16 (fldNat w 5 11 == 0) (.cDone)
  | 0x15 => accept16 (fldNat w 5 11 == 0) (.cStray)
  | _ => .error .compactForm

/-- The outcome of a word's decoding, with the word's length. -/
def asDecoded (len : Nat) : Except Illegal Instr → Decoded
  | .ok i => .instr i len
  | .error e => .illegal e len

/-- Little-endian value of two bytes. -/
def half (b0 b1 : Byte) : Nat := b0.toNat + 256 * b1.toNat

/-- Little-endian value of four bytes (R216). -/
def word32 (b0 b1 b2 b3 : Byte) : Nat := half b0 b1 + 65536 * half b2 b3

/-- The instruction at the head of a run of bytes (R216, R217). -/
def decode : List Byte → Decoded
  | b0 :: b1 :: rest =>
    if half b0 b1 % 4 = 3 then
      match rest with
      | b2 :: b3 :: _ => asDecoded 4 (decode32 (word32 b0 b1 b2 b3))
      | _ => .short
    else asDecoded 2 (decode16 (half b0 b1))
  | _ => .short

/-! ## The encoder -/

/-- Little-endian bytes of a 32-bit word. -/
def bytes32 (n : Nat) : List Byte :=
  [BitVec.ofNat 8 n, BitVec.ofNat 8 (n / 256), BitVec.ofNat 8 (n / 65536), BitVec.ofNat 8 (n / 16777216)]

/-- Little-endian bytes of a 16-bit word. -/
def bytes16 (n : Nat) : List Byte := [BitVec.ofNat 8 n, BitVec.ofNat 8 (n / 256)]

/-- The bytes of an instruction word (R220, R234, R236); an event has none. -/
def encode : Instr → List Byte
  | .add g c b a => bytes32 (7 + g.toNat * 536870912 + c.toNat * 524288 + b.toNat * 16384 + a.toNat * 512)
  | .sub g c b a => bytes32 (16777223 + g.toNat * 536870912 + c.toNat * 524288 + b.toNat * 16384 + a.toNat * 512)
  | .mul g c b a => bytes32 (33554439 + g.toNat * 536870912 + c.toNat * 524288 + b.toNat * 16384 + a.toNat * 512)
  | .mulh g c b a => bytes32 (50331655 + g.toNat * 536870912 + c.toNat * 524288 + b.toNat * 16384 + a.toNat * 512)
  | .mulhU g c b a => bytes32 (67108871 + g.toNat * 536870912 + c.toNat * 524288 + b.toNat * 16384 + a.toNat * 512)
  | .div g c b a => bytes32 (83886087 + g.toNat * 536870912 + c.toNat * 524288 + b.toNat * 16384 + a.toNat * 512)
  | .divU g c b a => bytes32 (100663303 + g.toNat * 536870912 + c.toNat * 524288 + b.toNat * 16384 + a.toNat * 512)
  | .rem g c b a => bytes32 (117440519 + g.toNat * 536870912 + c.toNat * 524288 + b.toNat * 16384 + a.toNat * 512)
  | .remU g c b a => bytes32 (134217735 + g.toNat * 536870912 + c.toNat * 524288 + b.toNat * 16384 + a.toNat * 512)
  | .and g c b a => bytes32 (150994951 + g.toNat * 536870912 + c.toNat * 524288 + b.toNat * 16384 + a.toNat * 512)
  | .or g c b a => bytes32 (167772167 + g.toNat * 536870912 + c.toNat * 524288 + b.toNat * 16384 + a.toNat * 512)
  | .xor g c b a => bytes32 (184549383 + g.toNat * 536870912 + c.toNat * 524288 + b.toNat * 16384 + a.toNat * 512)
  | .shl g c b a => bytes32 (201326599 + g.toNat * 536870912 + c.toNat * 524288 + b.toNat * 16384 + a.toNat * 512)
  | .shr g c b a => bytes32 (218103815 + g.toNat * 536870912 + c.toNat * 524288 + b.toNat * 16384 + a.toNat * 512)
  | .sra g c b a => bytes32 (234881031 + g.toNat * 536870912 + c.toNat * 524288 + b.toNat * 16384 + a.toNat * 512)
  | .min g c b a => bytes32 (251658247 + g.toNat * 536870912 + c.toNat * 524288 + b.toNat * 16384 + a.toNat * 512)
  | .minU g c b a => bytes32 (268435463 + g.toNat * 536870912 + c.toNat * 524288 + b.toNat * 16384 + a.toNat * 512)
  | .max g c b a => bytes32 (285212679 + g.toNat * 536870912 + c.toNat * 524288 + b.toNat * 16384 + a.toNat * 512)
  | .maxU g c b a => bytes32 (301989895 + g.toNat * 536870912 + c.toNat * 524288 + b.toNat * 16384 + a.toNat * 512)
  | .clz g b a => bytes32 (318767111 + g.toNat * 536870912 + b.toNat * 16384 + a.toNat * 512)
  | .popc g b a => bytes32 (335544327 + g.toNat * 536870912 + b.toNat * 16384 + a.toNat * 512)
  | .mov g b a => bytes32 (352321543 + g.toNat * 536870912 + b.toNat * 16384 + a.toNat * 512)
  | .sel q c b a => bytes32 (369098759 + q.toNat * 536870912 + c.toNat * 524288 + b.toNat * 16384 + a.toNat * 512)
  | .addi g i b a => bytes32 (11 + g.toNat * 536870912 + i.toNat * 524288 + b.toNat * 16384 + a.toNat * 512)
  | .andi g i b a => bytes32 (15 + g.toNat * 536870912 + i.toNat * 524288 + b.toNat * 16384 + a.toNat * 512)
  | .ori g i b a => bytes32 (19 + g.toNat * 536870912 + i.toNat * 524288 + b.toNat * 16384 + a.toNat * 512)
  | .xori g i b a => bytes32 (23 + g.toNat * 536870912 + i.toNat * 524288 + b.toNat * 16384 + a.toNat * 512)
  | .shli g i b a => bytes32 (27 + g.toNat * 536870912 + i.toNat * 524288 + b.toNat * 16384 + a.toNat * 512)
  | .shri g i b a => bytes32 (31 + g.toNat * 536870912 + i.toNat * 524288 + b.toNat * 16384 + a.toNat * 512)
  | .srai g i b a => bytes32 (35 + g.toNat * 536870912 + i.toNat * 524288 + b.toNat * 16384 + a.toNat * 512)
  | .movi h i a => bytes32 (39 + h.toNat * 1073741824 + i.toNat * 16384 + a.toNat * 512)
  | .lui h i a => bytes32 (43 + h.toNat * 1073741824 + i.toNat * 16384 + a.toNat * 512)
  | .ext g b e => bytes32 (47 + g.toNat * 536870912 + b.toNat * 16384 + e.toNat * 512)
  | .extRead g e a => bytes32 (16777263 + g.toNat * 536870912 + e.toNat * 16384 + a.toNat * 512)
  | .exti h i e => bytes32 (51 + h.toNat * 1073741824 + i.toNat * 16384 + e.toNat * 512)
  | .cmp g n c b d => bytes32 (55 + g.toNat * 536870912 + n.toNat * 16777216 + c.toNat * 524288 + b.toNat * 16384 + d.toNat * 512)
  | .cmpi g i n b d => bytes32 (59 + g.toNat * 536870912 + i.toNat * 8388608 + n.toNat * 524288 + b.toNat * 16384 + d.toNat * 512)
  | .wid g i a => bytes32 (63 + g.toNat * 536870912 + i.toNat * 524288 + a.toNat * 512)
  | .b o => bytes32 (67 + o.toNat * 512)
  | .bl o => bytes32 (71 + o.toNat * 512)
  | .bp p n o => bytes32 (75 + p.toNat * 536870912 + n.toNat * 268435456 + o.toNat * 512)
  | .jr g b => bytes32 (79 + g.toNat * 536870912 + b.toNat * 16384)
  | .ret g => bytes32 (16777295 + g.toNat * 536870912)
  | .stray => bytes32 (33554511)
  | .muster => bytes32 (50331727)
  | .done => bytes32 (67108943)
  | .pand g q p d => bytes32 (83 + g.toNat * 536870912 + q.toNat * 524288 + p.toNat * 16384 + d.toNat * 512)
  | .por g q p d => bytes32 (16777299 + g.toNat * 536870912 + q.toNat * 524288 + p.toNat * 16384 + d.toNat * 512)
  | .pnot g p d => bytes32 (33554515 + g.toNat * 536870912 + p.toNat * 16384 + d.toNat * 512)
  | .rep n l s => bytes32 (87 + n.toNat * 131072 + l.toNat * 8192 + s.toNat * 512)
  | .repReg a l s => bytes32 (91 + a.toNat * 131072 + l.toNat * 8192 + s.toNat * 512)
  | .ld g s i w b a => bytes32 (99 + g.toNat * 536870912 + s.toNat * 268435456 + i.toNat * 2097152 + w.toNat * 524288 + b.toNat * 16384 + a.toNat * 512)
  | .lds g s i w b a => bytes32 (103 + g.toNat * 536870912 + s.toNat * 268435456 + i.toNat * 2097152 + w.toNat * 524288 + b.toNat * 16384 + a.toNat * 512)
  | .st g s i w b a => bytes32 (107 + g.toNat * 536870912 + s.toNat * 268435456 + i.toNat * 2097152 + w.toNat * 524288 + b.toNat * 16384 + a.toNat * 512)
  | .lda g s i w b a => bytes32 (111 + g.toNat * 536870912 + s.toNat * 268435456 + i.toNat * 2097152 + w.toNat * 524288 + b.toNat * 16384 + a.toNat * 512)
  | .stl g s i w b a => bytes32 (115 + g.toNat * 536870912 + s.toNat * 268435456 + i.toNat * 2097152 + w.toNat * 524288 + b.toNat * 16384 + a.toNat * 512)
  | .ldf g b a => bytes32 (119 + g.toNat * 536870912 + b.toNat * 16384 + a.toNat * 512)
  | .ldfn g p b a => bytes32 (16777335 + g.toNat * 536870912 + p.toNat * 524288 + b.toNat * 16384 + a.toNat * 512)
  | .ste g b a => bytes32 (33554551 + g.toNat * 536870912 + b.toNat * 16384 + a.toNat * 512)
  | .sten g p b a => bytes32 (50331767 + g.toNat * 536870912 + p.toNat * 524288 + b.toNat * 16384 + a.toNat * 512)
  | .tagset g b => bytes32 (67108983 + g.toNat * 536870912 + b.toNat * 16384)
  | .tagclr g b => bytes32 (83886199 + g.toNat * 536870912 + b.toNat * 16384)
  | .amo g w o c b a => bytes32 (123 + g.toNat * 536870912 + w.toNat * 268435456 + o.toNat * 16777216 + c.toNat * 524288 + b.toNat * 16384 + a.toNat * 512)
  | .cas g w c b a => bytes32 (127 + g.toNat * 536870912 + w.toNat * 268435456 + c.toNat * 524288 + b.toNat * 16384 + a.toNat * 512)
  | .red g w o c b => bytes32 (131 + g.toNat * 536870912 + w.toNat * 268435456 + o.toNat * 16777216 + c.toNat * 524288 + b.toNat * 16384)
  | .redf g t c b a => bytes32 (135 + g.toNat * 536870912 + t.toNat * 16777216 + c.toNat * 524288 + b.toNat * 16384 + a.toNat * 512)
  | .redfU g t c b => bytes32 (139 + g.toNat * 536870912 + t.toNat * 16777216 + c.toNat * 524288 + b.toNat * 16384)
  | .fence g s => bytes32 (143 + g.toNat * 536870912 + s.toNat * 512)
  | .fenceX g y x s => bytes32 (16777359 + g.toNat * 536870912 + y.toNat * 524288 + x.toNat * 16384 + s.toNat * 512)
  | .qtryRd g p q a => bytes32 (458899 + g.toNat * 536870912 + p.toNat * 524288 + q.toNat * 16384 + a.toNat * 512)
  | .qtryWr g p q a => bytes32 (17236115 + g.toNat * 536870912 + p.toNat * 524288 + q.toNat * 16384 + a.toNat * 512)
  | .fadd g r t c b a => bytes32 (163 + g.toNat * 536870912 + r.toNat * 67108864 + t.toNat * 16777216 + c.toNat * 524288 + b.toNat * 16384 + a.toNat * 512)
  | .fsub g r t c b a => bytes32 (167 + g.toNat * 536870912 + r.toNat * 67108864 + t.toNat * 16777216 + c.toNat * 524288 + b.toNat * 16384 + a.toNat * 512)
  | .fmul g r t c b a => bytes32 (171 + g.toNat * 536870912 + r.toNat * 67108864 + t.toNat * 16777216 + c.toNat * 524288 + b.toNat * 16384 + a.toNat * 512)
  | .ffma g r t c b a => bytes32 (175 + g.toNat * 536870912 + r.toNat * 67108864 + t.toNat * 16777216 + c.toNat * 524288 + b.toNat * 16384 + a.toNat * 512)
  | .fdiv g r t c b a => bytes32 (179 + g.toNat * 536870912 + r.toNat * 67108864 + t.toNat * 16777216 + c.toNat * 524288 + b.toNat * 16384 + a.toNat * 512)
  | .fsqrt g r t b a => bytes32 (183 + g.toNat * 536870912 + r.toNat * 67108864 + t.toNat * 16777216 + b.toNat * 16384 + a.toNat * 512)
  | .fmin g t c b a => bytes32 (187 + g.toNat * 536870912 + t.toNat * 16777216 + c.toNat * 524288 + b.toNat * 16384 + a.toNat * 512)
  | .fmax g t c b a => bytes32 (191 + g.toNat * 536870912 + t.toNat * 16777216 + c.toNat * 524288 + b.toNat * 16384 + a.toNat * 512)
  | .fcmp g r t c b d => bytes32 (195 + g.toNat * 536870912 + r.toNat * 67108864 + t.toNat * 16777216 + c.toNat * 524288 + b.toNat * 16384 + d.toNat * 512)
  | .fcvt g r k j b a => bytes32 (199 + g.toNat * 536870912 + r.toNat * 67108864 + k.toNat * 8388608 + j.toNat * 524288 + b.toNat * 16384 + a.toNat * 512)
  | .tadd m p b a d => bytes32 (259 + m.toNat * 536870912 + p.toNat * 268435456 + b.toNat * 8388608 + a.toNat * 65536 + d.toNat * 512)
  | .tsub m p b a d => bytes32 (263 + m.toNat * 536870912 + p.toNat * 268435456 + b.toNat * 8388608 + a.toNat * 65536 + d.toNat * 512)
  | .tmul m p b a d => bytes32 (267 + m.toNat * 536870912 + p.toNat * 268435456 + b.toNat * 8388608 + a.toNat * 65536 + d.toNat * 512)
  | .tfma m p b a d => bytes32 (271 + m.toNat * 536870912 + p.toNat * 268435456 + b.toNat * 8388608 + a.toNat * 65536 + d.toNat * 512)
  | .tmax m p b a d => bytes32 (275 + m.toNat * 536870912 + p.toNat * 268435456 + b.toNat * 8388608 + a.toNat * 65536 + d.toNat * 512)
  | .tmin m p b a d => bytes32 (279 + m.toNat * 536870912 + p.toNat * 268435456 + b.toNat * 8388608 + a.toNat * 65536 + d.toNat * 512)
  | .texp m p a d => bytes32 (283 + m.toNat * 536870912 + p.toNat * 268435456 + a.toNat * 65536 + d.toNat * 512)
  | .trcp m p a d => bytes32 (287 + m.toNat * 536870912 + p.toNat * 268435456 + a.toNat * 65536 + d.toNat * 512)
  | .trsq m p a d => bytes32 (291 + m.toNat * 536870912 + p.toNat * 268435456 + a.toNat * 65536 + d.toNat * 512)
  | .tlog m p a d => bytes32 (295 + m.toNat * 536870912 + p.toNat * 268435456 + a.toNat * 65536 + d.toNat * 512)
  | .tcvt m p a d => bytes32 (299 + m.toNat * 536870912 + p.toNat * 268435456 + a.toNat * 65536 + d.toNat * 512)
  | .tred m p x o a d => bytes32 (303 + m.toNat * 536870912 + p.toNat * 268435456 + x.toNat * 33554432 + o.toNat * 8388608 + a.toNat * 65536 + d.toNat * 512)
  | .tbcast m p x a d => bytes32 (307 + m.toNat * 536870912 + p.toNat * 268435456 + x.toNat * 8388608 + a.toNat * 65536 + d.toNat * 512)
  | .ttrans m p a d => bytes32 (311 + m.toNat * 536870912 + p.toNat * 268435456 + a.toNat * 65536 + d.toNat * 512)
  | .tcmpEq m p b a d => bytes32 (315 + m.toNat * 536870912 + p.toNat * 268435456 + b.toNat * 8388608 + a.toNat * 65536 + d.toNat * 512)
  | .tcmpNe m p b a d => bytes32 (319 + m.toNat * 536870912 + p.toNat * 268435456 + b.toNat * 8388608 + a.toNat * 65536 + d.toNat * 512)
  | .tcmpLt m p b a d => bytes32 (323 + m.toNat * 536870912 + p.toNat * 268435456 + b.toNat * 8388608 + a.toNat * 65536 + d.toNat * 512)
  | .tcmpLe m p b a d => bytes32 (327 + m.toNat * 536870912 + p.toNat * 268435456 + b.toNat * 8388608 + a.toNat * 65536 + d.toNat * 512)
  | .tsel m b a d => bytes32 (331 + m.toNat * 536870912 + b.toNat * 8388608 + a.toNat * 65536 + d.toNat * 512)
  | .tsqz m s a d => bytes32 (335 + m.toNat * 536870912 + s.toNat * 8388608 + a.toNat * 65536 + d.toNat * 512)
  | .txpd m p a d => bytes32 (339 + m.toNat * 536870912 + p.toNat * 268435456 + a.toNat * 65536 + d.toNat * 512)
  | .trand m p d => bytes32 (343 + m.toNat * 536870912 + p.toNat * 268435456 + d.toNat * 512)
  | .tmov m p a d => bytes32 (347 + m.toNat * 536870912 + p.toNat * 268435456 + a.toNat * 65536 + d.toNat * 512)
  | .tzero m p d => bytes32 (351 + m.toNat * 536870912 + p.toNat * 268435456 + d.toNat * 512)
  | .tfill m p s d => bytes32 (355 + m.toNat * 536870912 + p.toNat * 268435456 + s.toNat * 65536 + d.toNat * 512)
  | .tld m p s a d => bytes32 (359 + m.toNat * 536870912 + p.toNat * 268435456 + s.toNat * 134217728 + a.toNat * 65536 + d.toNat * 512)
  | .tst m s a d => bytes32 (363 + m.toNat * 536870912 + s.toNat * 134217728 + a.toNat * 65536 + d.toNat * 512)
  | .tldG m p s i a d => bytes32 (367 + m.toNat * 536870912 + p.toNat * 268435456 + s.toNat * 134217728 + i.toNat * 4194304 + a.toNat * 65536 + d.toNat * 512)
  | .tstG m s i a d => bytes32 (371 + m.toNat * 536870912 + s.toNat * 134217728 + i.toNat * 4194304 + a.toNat * 65536 + d.toNat * 512)
  | .shpSet g b k => bytes32 (375 + g.toNat * 536870912 + b.toNat * 16384 + k.toNat * 512)
  | .shpGet g k a => bytes32 (16777591 + g.toNat * 536870912 + k.toNat * 16384 + a.toNat * 512)
  | .mma c b a => bytes32 (387 + c.toNat * 2147483648 + b.toNat * 8388608 + a.toNat * 65536)
  | .mmaG c b i => bytes32 (391 + c.toNat * 2147483648 + b.toNat * 8388608 + i.toNat * 262144)
  | .mmas c b a => bytes32 (395 + c.toNat * 2147483648 + b.toNat * 8388608 + a.toNat * 65536)
  | .accClr c => bytes32 (399 + c.toNat * 2147483648)
  | .accAnch c i => bytes32 (403 + c.toNat * 2147483648 + i.toNat * 512)
  | .accDrn c d => bytes32 (407 + c.toNat * 2147483648 + d.toNat * 512)
  | .accSend c b a => bytes32 (411 + c.toNat * 2147483648 + b.toNat * 16384 + a.toNat * 512)
  | .accLd c a => bytes32 (415 + c.toNat * 2147483648 + a.toNat * 512)
  | .accSt c a => bytes32 (419 + c.toNat * 2147483648 + a.toNat * 512)
  | .cpy g c b a => bytes32 (451 + g.toNat * 536870912 + c.toNat * 524288 + b.toNat * 16384 + a.toNat * 512)
  | .cpyW g b a => bytes32 (16777667 + g.toNat * 536870912 + b.toNat * 16384 + a.toNat * 512)
  | .cpyWPoll g p b a => bytes32 (16777667 + g.toNat * 536870912 + p.toNat * 524288 + b.toNat * 16384 + a.toNat * 512)
  | .cpyT g c b a => bytes32 (33554883 + g.toNat * 536870912 + c.toNat * 524288 + b.toNat * 16384 + a.toNat * 512)
  | .cpyDig g c b a => bytes32 (50332099 + g.toNat * 536870912 + c.toNat * 524288 + b.toNat * 16384 + a.toNat * 512)
  | .deal g c b a => bytes32 (67109315 + g.toNat * 536870912 + c.toNat * 524288 + b.toNat * 16384 + a.toNat * 512)
  | .put g c b a => bytes32 (83886531 + g.toNat * 536870912 + c.toNat * 524288 + b.toNat * 16384 + a.toNat * 512)
  | .circOpen g b a => bytes32 (455 + g.toNat * 536870912 + b.toNat * 16384 + a.toNat * 512)
  | .circWiden g b a => bytes32 (16777671 + g.toNat * 536870912 + b.toNat * 16384 + a.toNat * 512)
  | .circClose g c b a => bytes32 (33554887 + g.toNat * 536870912 + c.toNat * 524288 + b.toNat * 16384 + a.toNat * 512)
  | .circQ g b a => bytes32 (50332103 + g.toNat * 536870912 + b.toNat * 16384 + a.toNat * 512)
  | .send g b a => bytes32 (459 + g.toNat * 536870912 + b.toNat * 16384 + a.toNat * 512)
  | .sendn g p b a => bytes32 (16777675 + g.toNat * 536870912 + p.toNat * 524288 + b.toNat * 16384 + a.toNat * 512)
  | .hret g => bytes32 (33554891 + g.toNat * 536870912)
  | .chanCfg g c b a => bytes32 (50332107 + g.toNat * 536870912 + c.toNat * 524288 + b.toNat * 16384 + a.toNat * 512)
  | .spawn g b a => bytes32 (463 + g.toNat * 536870912 + b.toNat * 16384 + a.toNat * 512)
  | .spawnn g p b a => bytes32 (16777679 + g.toNat * 536870912 + p.toNat * 524288 + b.toNat * 16384 + a.toNat * 512)
  | .join g o a => bytes32 (33554895 + g.toNat * 536870912 + o.toNat * 16384 + a.toNat * 512)
  | .joinn g p o a => bytes32 (50332111 + g.toNat * 536870912 + p.toNat * 524288 + o.toNat * 16384 + a.toNat * 512)
  | .launch g b a => bytes32 (67109327 + g.toNat * 536870912 + b.toNat * 16384 + a.toNat * 512)
  | .launchn g c b d => bytes32 (83886543 + g.toNat * 536870912 + c.toNat * 524288 + b.toNat * 16384 + d.toNat * 512)
  | .barInit g b a => bytes32 (467 + g.toNat * 536870912 + b.toNat * 16384 + a.toNat * 512)
  | .barArr g b a => bytes32 (16777683 + g.toNat * 536870912 + b.toNat * 16384 + a.toNat * 512)
  | .barWait g b a => bytes32 (33554899 + g.toNat * 536870912 + b.toNat * 16384 + a.toNat * 512)
  | .barTest g c b d => bytes32 (50332115 + g.toNat * 536870912 + c.toNat * 524288 + b.toNat * 16384 + d.toNat * 512)
  | .trap g k => bytes32 (483 + g.toNat * 536870912 + k.toNat * 16384)
  | .eret g b a => bytes32 (16777699 + g.toNat * 536870912 + b.toNat * 16384 + a.toNat * 512)
  | .brk g => bytes32 (33554915 + g.toNat * 536870912)
  | .nop g => bytes32 (50332131 + g.toNat * 536870912)
  | .idemBegin g => bytes32 (67109347 + g.toNat * 536870912)
  | .idemEnd g => bytes32 (83886563 + g.toNat * 536870912)
  | .tlbiR g c b a => bytes32 (100663779 + g.toNat * 536870912 + c.toNat * 524288 + b.toNat * 16384 + a.toNat * 512)
  | .ctxLive g a => bytes32 (117440995 + g.toNat * 536870912 + a.toNat * 512)
  | .ctxSave g a => bytes32 (134218211 + g.toNat * 536870912 + a.toNat * 512)
  | .ctxRst g b a => bytes32 (150995427 + g.toNat * 536870912 + b.toNat * 16384 + a.toNat * 512)
  | .csrr g r a => bytes32 (487 + g.toNat * 536870912 + r.toNat * 131072 + a.toNat * 512)
  | .csrw g r a => bytes32 (491 + g.toNat * 536870912 + r.toNat * 131072 + a.toNat * 512)
  | .cMov d a => bytes16 (4 + d.toNat * 2048 + a.toNat * 64)
  | .cAddi d i => bytes16 (8 + d.toNat * 2048 + i.toNat * 32)
  | .cAdd d a => bytes16 (12 + d.toNat * 2048 + a.toNat * 64)
  | .cSub d a => bytes16 (16 + d.toNat * 2048 + a.toNat * 64)
  | .cLdd d i => bytes16 (20 + d.toNat * 2048 + i.toNat * 32)
  | .cStd a i => bytes16 (24 + a.toNat * 2048 + i.toNat * 32)
  | .cB o => bytes16 (28 + o.toNat * 32)
  | .cBp p n o => bytes16 (1 + p.toNat * 8192 + n.toNat * 4096 + o.toNat * 32)
  | .cNop => bytes16 (5)
  | .cRet => bytes16 (9)
  | .cMuster => bytes16 (13)
  | .cDone => bytes16 (17)
  | .cStray => bytes16 (21)
  | .asidInstall _ => []
  | .asidLoad _ => []
  | .exportHandle _ => []
  | .revoke _ => []
  | .handleRead _ => []
  | .revokeNotice _ _ => []
  | .revokeAck _ _ => []
  | .revokeTimeout _ _ => []
  | .fillRequest _ _ _ _ _ => []
  | .tlbiBroadcast _ => []
  | .holderAck _ _ => []
  | .peerAccess _ _ => []
  | .accessResponse _ _ _ => []
  | .timeExchange _ => []
  | .timeAlign _ => []
  | .slotForward _ _ _ => []
  | .circuitRequest _ => []
  | .circuitResearch _ _ => []
  | .circuitDeadline _ _ => []
  | .circAcceptance _ _ => []
  | .exchangeRequest _ => []
  | .configurationFlit _ => []
  | .chainClear _ _ => []
  | .linkFailure _ _ => []
  | .replay _ _ => []
  | .laneRepair _ => []
  | .laneShed _ => []
  | .linkWake _ => []
  | .tokenRefill _ _ => []
  | .hbmAccess _ _ _ => []
  | .stopNotice _ _ _ _ => []
  | .demandBeacon _ _ _ _ => []
  | .goNotice _ _ _ _ => []
  | .peerForward _ _ => []
  | .relayForward _ _ => []
  | .vaultAccess _ _ => []
  | .reductionApply _ _ => []
  | .install _ => []
  | .remove _ => []
  | .regionRead _ => []
  | .dealBlock _ _ _ _ => []
  | .engineExecute _ _ _ _ => []
  | .payloadArrival _ _ => []
  | .commandComplete _ _ _ => []
  | .flogClear _ _ _ => []
  | .raceSweep _ _ _ => []
  | .dispatchRound _ => []
  | .stealRequest _ _ => []
  | .stealReply _ _ => []
  | .taskRecordArrival _ _ => []
  | .taskStart _ _ => []
  | .joinWordWrite _ _ => []
  | .messageArrival _ _ => []
  | .messageAck _ _ => []
  | .messageResend _ _ => []
  | .handlerStart _ _ _ => []
  | .batch _ _ => []
  | .barrierArrival _ _ => []
  | .barrierQuery _ _ => []
  | .barrierReply _ _ => []
  | .doorbell _ _ _ _ => []
  | .lqConfigWrite _ _ _ _ => []
  | .launchIntake _ => []
  | .coreTimeRefill _ => []
  | .completionRecord _ _ => []
  | .trapRecord _ _ => []
  | .trapRecordRetry _ _ => []
  | .tscrWrite _ _ _ => []
  | .terminate _ _ _ => []
  | .preemptionRequest _ _ => []
  | .release _ _ => []
  | .preemptBroadcast _ _ => []
  | .fallback _ _ => []
  | .drainEnd _ _ => []
  | .imagesWritten _ _ => []
  | .preemptionResponse _ => []
  | .restoreComplete _ _ => []
  | .checkpointComplete _ _ => []
  | .create _ _ => []
  | .destroy _ _ => []
  | .paddockRead _ _ => []
  | .usageRecord _ _ => []
  | .studBookIndex _ _ _ => []
  | .version _ => []
  | .capabilities _ => []
  | .algorithms _ => []
  | .digests _ => []
  | .certificate _ _ _ _ => []
  | .challenge _ _ _ => []
  | .measurements _ _ _ => []
  | .keyExchange _ _ => []
  | .finish _ _ _ => []
  | .endSession _ _ => []
  | .bind _ _ _ _ _ _ => []
  | .unbind _ _ _ _ => []
  | .ideKm _ _ _ _ => []
  | .lockInterface _ _ => []
  | .stopInterface _ _ => []
  | .domainMembership _ _ _ => []
  | .packageLinkCheck _ _ _ _ _ => []
  | .powerOn => []
  | .counterClear _ _ _ => []
  | .arbiterPeriod => []
  | .guardStepChange => []
  | .frequencyRaise => []
  | .coreStop _ _ => []
  | .coreRestart _ _ => []
  | .capMessage _ _ => []
  | .leaseExpiry => []
  | .thresholdWrite _ _ => []
  | .thermalEvaluation => []
  | .registerWrite _ _ _ _ => []
  | .memoryRequest _ _ _ _ _ _ _ _ => []
  | .startInterface _ _ => []
  | .linkReturn _ => []
  | .supervisorResume _ _ _ _ => []

/-- The length in bytes of an instruction word; 0 for an event. -/
def instrLen (i : Instr) : Nat := (encode i).length

/-- The instruction the decoder reads from an instruction whose bits are w, bit 0 the least significant bit of the first
word; bits above nbits are zero. -/
def decodeTableWord (_nbits w : Nat) : Option Instr :=
  match decode (bytes32 w) with
  | .instr i _ => some i
  | _ => none

end Sys2Proof
end

