-- ==== Sys2Proof/Config.lean ====
section
/-!
DEFINITION. Sys2Proof/Config.lean: what the spec leaves to one implementation, and the free values. Each is an
uninterpreted constant: nothing can be proved of which value it takes, so a claim about it holds for every value.
-/

namespace Sys2Proof.Config

/-- A free word, drawn with the counter State.fresh where the spec leaves a result open. -/
opaque freeWord : Nat → Word

/-- Where a record that is handled from the lean-to shows in the local store (R201), in units of 16 B: by the message, its sender,
number and window, so that it does not depend on what else the package does (R8). -/
opaque leanOffset : (sender : Nat) → (seq win : Nat) → Nat

/-- The 16 bytes that a memory unit written under one key reads as under another (R21, R399): key serial of the writer and
of the reader, unit number, the bytes written. -/
opaque crossKey : Nat → Nat → Nat → BitVec 128 → BitVec 128

/-- The configuration tree (R52): the depth of a link (by link key) that is a tree link, outbound direction. The spec gives
the tree's root and its greatest depth, which `treeDepth` of Machine/Paths.lean holds it to, not its links. -/
opaque treeDepth : Nat → Option Nat

/-- The way through the link die from one of its links to another, as link keys of its mesh, X then Y or Y then X, and the reverse
of a link of that mesh (R55). Links of the link die: 8 * die + j to a compute die, 32 + n to the torus (R45). The spec gives the link die's
routers a number, not their places. -/
opaque ldPath : (yFirst : Bool) → (fromLink toLink : Nat) → List Nat
opaque ldReverse : Nat → Nat

/-- Router of the link die at which one of its links stands (R47). -/
opaque ldRouter : Nat → Nat

/-- The link die's router has a mesh link at a port (R47). -/
opaque ldPort : (router port : Nat) → Bool

/-- The coordinates that a package number of the scale-up domain has (R410), x, y and z in nibbles from bit 0 on. -/
opaque coordsOf : (number : Nat) → BitVec 12

/-- The tenant for which a handle of another package counts there (R75): package, die, handle, generation. -/
opaque farTenant : (pkg die hnd gen : Nat) → Nat

/-- Packages along a dimension of the torus (R410). -/
opaque torusSize : Nat → Nat

/-- Memory keys and stream keys are made by the tack room (R400, R405): the key a session derives for a stream. -/
opaque streamKey : (session : BitVec 256) → (stream : BitVec 32) → BitVec 256

/-- The key a session derives from a key exchange (R405): connection, session number, the requester's share. -/
opaque sessionKey : Nat → Nat → List Byte → BitVec 256

/-- Whether FINISH verifies for a session (R405). -/
opaque finishOk : BitVec 256 → List Byte → Bool

/-- The 512-bit seed fused into the device, and the Ed448 identity key derived from it (R400). -/
opaque fusedSeed : List Byte
opaque identityKey : (seed : List Byte) → List Byte

/-- The bytes of the certificate chain under the identity key for the alias or usage key that it certifies (R400, R405). -/
opaque certChain : (identity leaf : List Byte) → List Byte

/-- The digest of a certificate chain that DIGESTS answers (R405). -/
opaque certDigest : (chain : List Byte) → List Byte

/-- The Ed448 signature of a message under a key (R400, R402): 114 bytes. -/
opaque ed448Sign : (key message : List Byte) → List Byte

/-- Device serial number in the certificate (R402). -/
opaque serial : Word

/-- The images of a version of the firmware (R404): 1 tack-room firmware, 2 yardmaster microcode, 3 manger firmware, 4 link-die
firmware. -/
opaque firmware : (version image : Nat) → List Byte

/-- Energy of one HBM or vault access, the fused figure of the part (R404), in nJ. -/
opaque accessEnergy : (vault : Bool) → Nat

/-- The answers of VERSION, CAPABILITIES and ALGORITHMS as SPDM 1.3 lays them out, and the responder's share and random
values (R405). -/
opaque spdmFixed : Nat → List Byte
opaque spdmRandom : Nat → List Byte

end Sys2Proof.Config
end

