-- ==== Sys2Proof/Machine/Sparse.lean ====
section
/-!
DEFINITION. Sys2Proof/Machine/Sparse.lean: sparse data by key, held as a list of key and value pairs with strictly
rising keys. The tables, the register spaces and the per-unit records of State are kept in this form, so that equal
tables written in the same order are equal data and every table can be printed.
-/

namespace Sys2Proof.Machine

/-- Key and value pairs with strictly rising keys (the operations below keep the keys rising). -/
abbrev SMap (α : Type) := List (Nat × α)

/-- The value held under a key, if any. -/
def SMap.find? {α : Type} : SMap α → Nat → Option α
  | [], _ => none
  | (j, v) :: m, k => if j = k then some v else SMap.find? m k

/-- The value held under a key, or the given default. -/
def SMap.getD {α : Type} (m : SMap α) (k : Nat) (d : α) : α := (m.find? k).getD d

/-- The map without a key. -/
def SMap.erase {α : Type} : SMap α → Nat → SMap α
  | [], _ => []
  | (j, v) :: m, k => if j = k then SMap.erase m k else (j, v) :: SMap.erase m k

/-- The pair placed before the first larger key. -/
def SMap.place {α : Type} : SMap α → Nat → α → SMap α
  | [], k, x => [(k, x)]
  | (j, v) :: m, k, x => if k < j then (k, x) :: (j, v) :: m else (j, v) :: SMap.place m k x

/-- The map with the value stored under the key. -/
def SMap.set {α : Type} (m : SMap α) (k : Nat) (x : α) : SMap α := SMap.place (SMap.erase m k) k x

/-- The map with the value under a key changed by a function (starting from the default where none is held). -/
def SMap.modify {α : Type} (m : SMap α) (k : Nat) (d : α) (f : α → α) : SMap α := m.set k (f (m.getD k d))

/-- The values, in ascending key order. -/
def SMap.values {α : Type} (m : SMap α) : List α := m.map (·.2)

/-- The keys, in ascending order. -/
def SMap.keys {α : Type} (m : SMap α) : List Nat := m.map (·.1)

/-- Every pair changed by a function of its key and value. -/
def SMap.mapValues {α β : Type} (m : SMap α) (f : Nat → α → β) : SMap β := m.map fun p => (p.1, f p.1 p.2)

/-- Keys strictly rising. -/
def risingFrom : Option Nat → List Nat → Bool
  | _, [] => true
  | none, k :: ks => risingFrom (some k) ks
  | some j, k :: ks => decide (j < k) && risingFrom (some k) ks

/-- A sorted list of distinct numbers with one number put in. -/
def insertNat : List Nat → Nat → List Nat
  | [], k => [k]
  | j :: l, k => if k < j then k :: j :: l else if k = j then j :: l else j :: insertNat l k

/-- A list with one number taken out. -/
def removeNat (l : List Nat) (k : Nat) : List Nat := l.filter (· != k)

/-- The entry at a position of a list replaced. -/
def setAt {α : Type} (l : List α) (i : Nat) (x : α) : List α := l.set i x

/-- A list without the entry at a position. -/
def dropAt {α : Type} (l : List α) (i : Nat) : List α := l.eraseIdx i

/-- Insertion sort by a strict order given as a test. -/
def insertBy {α : Type} (lt : α → α → Bool) (x : α) : List α → List α
  | [] => [x]
  | y :: l => if lt x y then x :: y :: l else y :: insertBy lt x l

/-- A list sorted by a strict order given as a test; equal entries keep their order. -/
def sortBy {α : Type} (lt : α → α → Bool) (l : List α) : List α :=
  l.foldl (fun acc x => insertBy lt x acc) []

end Sys2Proof.Machine
end

