-- ==== Sys2Proof/Machine/State.lean ====
section
/-!
DEFINITION. Sys2Proof/Machine/State.lean: the state of one Diara 48 package as plain data, and the state after reset.
Every table, register, queue and unit that the spec gives the package stands here under the rule that names it.
Units are kept in sparse maps by number: a context by (die * 2048 + core) * 4 + context code, a core by
die * 2048 + core, a string by die * 256 + string, a port group by die * 16 + port group, a vault by die * 64 + vault,
with core = row * 64 + column (R3). A unit that no map lists is in its reset value. What CTX.SAVE has saved of a core stands under
die + 4, as the image slot of that core (R364, R384).
-/

namespace Sys2Proof.Machine

/-! ## Contexts -/

/-- One context of one core, and which of its two streams (R132, R175): the party that a step acts for. -/
structure Agent where
  die : Nat := 0
  /-- physical core number row * 64 + column -/
  core : Nat := 0
  /-- context code of R132: 0 task, 1 handler 0, 2 handler 1; 3 names no context, and an agent of another package shows as
  4 * (package + 1) + its code -/
  ctx : Nat := 0
  /-- true: the repeat stream of the context (R175) -/
  rep : Bool := false
deriving DecidableEq, Repr, Inhabited

/-- What a context is doing (R185, R200). A task that waits is `running` with its instruction not retired. -/
inductive RunState where
  | dormant | running | parked | saved | ended | terminated
deriving DecidableEq, Repr, Inhabited

/-- The launch a context, a record or a command belongs to: the fields of the launch header (R157) that bind its
contexts, its launch index (R210), its ASID and its paddock. -/
structure LaunchInfo where
  /-- serial number of the launch on its die, distinct for every launch -/
  uid : Nat := 0
  lid : BitVec 12 := 0
  asid : BitVec 11 := 0
  pad : BitVec 4 := 0
  /-- launched from a queue of the physical function (R407) -/
  pf : Bool := false
  ten : BitVec 8 := 0
  nbv : BitVec 8 := 2
  ordered : Bool := false
  prio : BitVec 2 := 0
  /-- widths of the work-identifier fields, field 0 first (R160) -/
  widths : List Nat := []
  limits : List Nat := []
  /-- number of work identifiers -/
  nw : Nat := 0
  cscope : BitVec 4 := 6
  /-- race barrier: present, hosting logical core, number (R157, R158) -/
  rbv : Bool := false
  rbcore : BitVec 11 := 0
  rbnum : BitVec 9 := 0
  args : Word := 0
  compl : Word := 0
  ctbud : BitVec 32 := 0
  key : BitVec 256 := 0
deriving DecidableEq, Repr, Inhabited

/-- The registers of one context that an image or a checkpoint keeps (R384). -/
structure Regs where
  /-- S0 to S27; the accessor makes S0 read zero (R223) -/
  s : Vector Word 28 := Vector.replicate 28 0
  /-- P1 to P7 in bits 7:1; the accessor makes P0 read true (R225) -/
  p : BitVec 8 := 0
  e : Vector Word 8 := Vector.replicate 8 0
  h : Vector Word 8 := Vector.replicate 8 0
  /-- Q0 to Q3, oldest value first, at most 8 each (R178) -/
  q : Vector (List Word) 4 := Vector.replicate 4 []
  /-- address of the next main-stream instruction -/
  pc : Word := 0
  /-- the context's own system registers by number of R231; an unlisted one holds zero -/
  csr : SMap Word := []
  /-- the repetition buffer: the captured words (R175) -/
  repBuf : List Word32 := []
  /-- address of the first captured word (for the trap address of R369) -/
  repBase : Word := 0
  /-- the live-tile mask (R365) -/
  live : BitVec 32 := 0xFFFFFFFF
deriving DecidableEq, Repr, Inhabited

/-- Who a task is: work identifier, fork path and word 7 of its record (R160, R187, R188). -/
structure TaskId where
  wid : Word := 0
  path : BitVec 128 := 0
  pagent : BitVec 13 := 0
  joff : BitVec 17 := 0
  jv : Bool := false
deriving DecidableEq, Repr, Inhabited

/-- An entry of a context's fault log (R103). -/
structure FlogEntry where
  va : Word := 0
  opnd : Word := 0
  wt : Word := 0
  info : Word := 0
deriving DecidableEq, Repr, Inhabited

/-- A store as its instruction issued it: what an entry of a fault log reports of it (R103, R288). -/
structure StoreRec where
  va : Word := 0
  size : Nat := 0
  opnd : Word := 0
  opField : BitVec 8 := 0
deriving DecidableEq, Repr, Inhabited

/-- A line of an idempotent region's store buffer: virtual line address, bytes, byte mask (R390), and the stores merged in it. -/
structure BufLine where
  va : Word := 0
  data : BitVec 512 := 0
  mask : BitVec 64 := 0
  stores : List StoreRec := []
deriving DecidableEq, Repr, Inhabited

/-- A tile register: 2,048 B data plane and 512 B scale plane (R5, R183). -/
structure Tile where
  data : BitVec 16384 := 0
  scale : BitVec 4096 := 0
deriving DecidableEq, Repr, Inhabited

/-- An accumulator element: value V and class K (R119). -/
structure AccElem where
  v : BitVec 128 := 0
  k : BitVec 2 := 0
deriving DecidableEq, Repr, Inhabited

/-- An accumulator: its status register and its elements by 32 * row + column; an unlisted element is V = 0, K = 00. -/
structure Acc where
  st : Word := 0
  elems : SMap AccElem := []
deriving DecidableEq, Repr, Inhabited

/-- What IDEM.BEGIN keeps for a discard (R389, R391). -/
structure Checkpoint where
  regs : Regs := {}
  tiles : SMap Tile := []
  acc0 : Acc := {}
  acc1 : Acc := {}
  /-- CHCFG, CHHND and CHPTR (R355) -/
  chans : SMap Word := []
  /-- position in the attached stream (R267) -/
  wpos : Nat := 0
deriving DecidableEq, Repr, Inhabited

/-- An open idempotent region (R389, R390). -/
structure Region where
  /-- address of its IDEM.BEGIN -/
  begin : Word := 0
  /-- the checkpoint is complete and nothing has ended discardability -/
  disc : Bool := false
  /-- the checkpoint has completed -/
  ckDone : Bool := false
  /-- an event of R389 has ended discardability for the rest of the region -/
  broken : Bool := false
  /-- an overflow has ended buffering: later stores are performed directly -/
  direct : Bool := false
  /-- buffered lines, in the order of their first store -/
  buf : List BufLine := []
  ck : Checkpoint := {}
  /-- channels that CHAN.CFG has written in the region (R355) -/
  chanCfg : List Nat := []
  /-- instructions retired from its IDEM.BEGIN on (for C7) -/
  retired : Nat := 0
deriving DecidableEq, Repr, Inhabited

/-- How an access ended: its data, or the fault it met with the values of FLTVA and of the detail register. -/
inductive Reply where
  | data (bytes : List Byte)
  | word (w : Word)
  | xlat (va info : Word)
  | mem (va info : Word)
  | race (va info : Word)
deriving DecidableEq, Repr, Inhabited

/-- The one outstanding request of a context's waiting instruction. -/
inductive Wait where
  /-- nothing outstanding -/
  | idle
  /-- a request has been sent -/
  | sent
  /-- the request has been performed and its reply is on the way (R34) -/
  | performed (r : Reply)
  /-- the reply has reached the core; the instruction takes it when it executes again -/
  | answered (r : Reply)
deriving DecidableEq, Repr, Inhabited

/-- A running or parked handler run (R200, R201). -/
structure HandlerRun where
  chan : BitVec 3 := 0
  /-- offset of the record from the queue's BASE; meaningless when `lean` -/
  off : Nat := 0
  /-- the record handled lies in the lean-to: the run finds its bytes in the local store from an offset on, where they hide what
  the store holds (R8, R201) -/
  lean : Bool := false
  shown : List Byte := []
  shownAt : Nat := 0
  sender : BitVec 13 := 0
  seq : Word := 0
  win : BitVec 32 := 0
deriving DecidableEq, Repr, Inhabited

/-- The status of a finished engine command, with the fault values CPY.W delivers (R349, R350). -/
structure CmdStatus where
  ticket : BitVec 16 := 0
  status : Word := 0
  va : Word := 0
  info : Word := 0
deriving DecidableEq, Repr, Inhabited

/-- A tile memory instruction under way (R295, R316): the row it has reached, and the data planes of its mask and index
registers as they were read when it was issued. -/
structure TileProg where
  row : Nat := 0
  mask : BitVec 16384 := 0
  index : BitVec 16384 := 0
deriving DecidableEq, Repr, Inhabited

/-- One context of a core (R132, R185, R200, R384). -/
structure Ctx where
  st : RunState := .dormant
  regs : Regs := {}
  id : TaskId := {}
  launch : LaunchInfo := {}
  /-- fault log, oldest first, and the count of faults lost (R103) -/
  flog : List FlogEntry := []
  flogLost : BitVec 16 := 0
  region : Option Region := none
  /-- the outstanding request of the main stream, and of the repeat stream -/
  wait : Wait := .idle
  waitRep : Wait := .idle
  /-- the tile memory instruction that each stream has under way -/
  prog : Option TileProg := none
  progRep : Option TileProg := none
  /-- a floating-point event of the main or of the repeat stream, or a fault-log overflow halt, waits for the next boundary
  (R371) -/
  pendFp : Bool := false
  pendFpRep : Bool := false
  pendOvf : Bool := false
  /-- messages sent whose acceptance has not been acknowledged (R199) -/
  unacked : Nat := 0
  /-- number of the next engine command (R342) -/
  ticket : BitVec 16 := 0
  /-- statuses of the last 32 commands, newest first (R342) -/
  statuses : List CmdStatus := []
  /-- member of its string's gang; its number in the gang (R166) -/
  member : Bool := false
  gangPos : Nat := 0
  /-- attached to the string's stream, and how many instructions of it the member has issued (R168) -/
  att : Bool := false
  wpos : Nat := 0
  /-- waits at the pending muster (R172) -/
  arrived : Bool := false
  /-- its task has ended and it has halted until its fault log is emptied (R105) -/
  halted : Bool := false
  /-- a save commits the buffered stores of its region and the outstanding request is that commit's (`some true`), or has ended doing so
  (`some false`) (R383) -/
  saving : Option Bool := none
  /-- the handler run in progress -/
  run : Option HandlerRun := none
  /-- tenant counters C0 to C7 (R392) -/
  cnt : Vector Word 8 := Vector.replicate 8 0
  /-- wheel time charged to the tenant for this context and not yet rounded to a core-µs (R212) -/
  charge : Nat := 0
deriving DecidableEq, Repr, Inhabited

/-! ## Cores -/

/-- A barrier hosted by a core (R206). -/
structure Bar where
  count : BitVec 12 := 0
  arrived : BitVec 12 := 0
  phase : BitVec 16 := 0
deriving DecidableEq, Repr, Inhabited

/-- A task record (R187), with the launch its LID names. -/
structure TaskRec where
  stamp : BitVec 16 := 0
  entry : Word := 0
  args : List Word := []
  id : TaskId := {}
  launch : LaunchInfo := {}
deriving DecidableEq, Repr, Inhabited

/-- A message, notice or task record under way, in a queue or in a lean-to (R196, R197, R204). -/
structure Msg where
  kind : BitVec 2 := 0
  sender : BitVec 13 := 0
  /-- sending context -/
  src : Agent := {}
  /-- target core -/
  core : Nat := 0
  chan : BitVec 3 := 0
  payload : List Byte := []
  seq : Word := 0
  win : Nat := 0
  /-- handler address of a notice (R201) -/
  haddr : Word := 0
  launch : LaunchInfo := {}
  /-- the task record of a KIND 11 message -/
  task : TaskRec := {}
  /-- string whose relay holds it -/
  relay : Nat := 0
  /-- WTIME at which the target refused it (R199) -/
  refused : Option Word := none
deriving DecidableEq, Repr, Inhabited

/-- A record of a channel queue: where it lies and the message it was written for. -/
structure QRec where
  chan : BitVec 3 := 0
  off : Nat := 0
  msg : Msg := {}
deriving DecidableEq, Repr, Inhabited

/-- A barrier message: an arrival, a query or its reply (R206, R207, R362). -/
structure BMsg where
  agent : Agent := {}
  core : Nat := 0
  num : BitVec 9 := 0
  /-- 0 arrival, 1 BAR.WAIT query, 2 BAR.TEST query, 3 BARDAT read -/
  kind : BitVec 2 := 0
  phase : BitVec 16 := 0
  reply : Option Word := none
  /-- WTIME at which a full lean-to refused it (R199) -/
  refused : Option Word := none
deriving DecidableEq, Repr, Inhabited

/-- A translation held by a holder (R25). For a peer entry `peer` is set, `page` is the peer index and `w0`, `w1`
are the peer entry's words (R28). -/
structure TlbEntry where
  asid : BitVec 11 := 0
  /-- base-2 logarithm of the page size: 12, 16, 21 or 30 (39 for a peer entry) -/
  size : Nat := 12
  page : Nat := 0
  pa : Nat := 0
  kind : BitVec 2 := 0
  key : BitVec 12 := 0
  x : Bool := false
  w : Bool := false
  rd : Bool := false
  /-- the leaf entry as read (for its level in a PERM report) -/
  level : BitVec 4 := 0
  peer : Bool := false
  w0 : Word := 0
  w1 : Word := 0
  /-- marked unusable by an invalidation broadcast and not yet removed (R33) -/
  dead : Bool := false
deriving DecidableEq, Repr, Inhabited

/-- A table entry of level 0 to 2 on the path of a recent walk, held by a port group's walk cache (R25): the part of the address
above the entry's span, and the entry as read. -/
structure WalkEntry where
  asid : BitVec 11 := 0
  level : Nat := 0
  page : Nat := 0
  e : Word := 0
  dead : Bool := false
deriving DecidableEq, Repr, Inhabited

/-- One core (R3). -/
structure Core where
  /-- power switch (R414) -/
  on : Bool := false
  /-- clock divider 1 to 4; 0 stopped (R412, R413) -/
  div : Nat := 0
  /-- WTIME since which the core has had no live context (R413) -/
  idleSince : Word := 0
  /-- registers of the core by number of R231: BFMT, CHCFG, CHHND, CHPTR, STEALCTL, TSCR; unlisted ones hold zero -/
  csr : SMap Word := [(0x015, 6)]
  /-- T0 to T31; an unlisted tile is zero -/
  tiles : SMap Tile := []
  acc0 : Acc := {}
  acc1 : Acc := {}
  bars : SMap Bar := []
  /-- hardware deque and spill area, newest record first (R190) -/
  deque : List TaskRec := []
  spill : List TaskRec := []
  /-- diverted messages, in arrival order (R198, R199) -/
  lean : List Msg := []
  /-- barrier arrivals that wait in the lean-to for a held host (R199, R215) -/
  leanBars : List BMsg := []
  /-- the records that lie in the channel queues, in order of placement -/
  recs : List QRec := []
  /-- ordered mode: the batch in progress and the last window for which one was formed (R205) -/
  batch : List Msg := []
  batchWin : Nat := 0
  utlb : List TlbEntry := []
  /-- the manger has granted it a record of its own deque (R211) -/
  granted : Bool := false
  /-- the launch whose first task last reset this core (R81) -/
  last : Option LaunchInfo := none
  /-- steal search: victims already asked, revolution of the last request, request outstanding (R191) -/
  stealPos : Nat := 0
  stealRev : Nat := 0
  /-- words of the tile registers (320 * tile + word, the scale plane's from 256 on) and accumulators that hold an uncorrectable error
  (R100, R101) -/
  badTiles : List Nat := []
  badAccs : List Nat := []
  /-- and those that hold a correctable one -/
  softTiles : List Nat := []
  softAccs : List Nat := []
deriving DecidableEq, Repr, Inhabited

/-! ## Strings -/

/-- A line of a string's instruction cache (R25). -/
structure ILine where
  asid : BitVec 11 := 0
  va : Word := 0
  /-- base-2 logarithm of the size of the page it was fetched from -/
  size : Nat := 12
  data : BitVec 512 := 0
  dead : Bool := false
deriving DecidableEq, Repr, Inhabited

/-- Where a peer access goes: what its peer entry names (R28, R30). -/
structure PeerTo where
  pkg : BitVec 12 := 0
  die : Nat := 0
  hnd : BitVec 12 := 0
  gen : BitVec 16 := 0
deriving DecidableEq, Repr, Inhabited

/-- What the memory is that an access reaches, by the translation at its issue (R139). -/
structure Aim where
  vaults : List Nat := []
  hbm : Bool := false
  tos : List PeerTo := []
  /-- its translation has failed: it counts as within every scope from 1 up -/
  failed : Bool := false
deriving DecidableEq, Repr, Inhabited

/-- The kinds of engine commands (R342). -/
inductive CmdKind where
  | cpy | cpyT | cpyDig | deal | put | accSend
deriving DecidableEq, Repr, Inhabited

/-- A part of an access within one 64 B line of one home. -/
structure Piece where
  vault : Bool := false
  /-- port group or vault number -/
  unit : Nat := 0
  va : Word := 0
  /-- physical address, and length -/
  pa : Nat := 0
  n : Nat := 0
  /-- serial of the leaf's key -/
  key : Nat := 0
deriving DecidableEq, Repr, Inhabited

/-- A portion of a side of a command within one row and one 4 KiB page, under the translation that serves all of it (R35, R39, R425):
its place in linear order, its address, its lines, and for the peer window what the peer entry names. -/
structure EngPart where
  pos : Nat := 0
  va : Word := 0
  n : Nat := 0
  pieces : List Piece := []
  /-- by the page's number -/
  tos : SMap PeerTo := []
deriving DecidableEq, Repr, Inhabited

/-- A read that a command has asked for (R426): its place in linear order, its address and length, what it aims at, and its
answer. -/
structure EngRead where
  pos : Nat := 0
  va : Word := 0
  n : Nat := 0
  aim : Aim := {}
  wait : Wait := .idle
deriving DecidableEq, Repr, Inhabited

/-- A command in a string's copy-engine queue (R342 to R348). -/
structure Cmd where
  kind : CmdKind := .cpy
  agent : Agent := {}
  /-- the core that issued it, whose local store it reads, and the agent's identity (R132) -/
  core : Nat := 0
  ident : BitVec 13 := 0
  ticket : BitVec 16 := 0
  launch : LaunchInfo := {}
  src : Word := 0
  dst : Word := 0
  e0 : Word := 0
  e1 : Word := 0
  e2 : Word := 0
  e3 : Word := 0
  /-- bytes read at issue (PUT, ACC.SEND) or held in the staging buffer -/
  data : List Byte := []
  stamp : BitVec 16 := 0
  seq : Word := 0
  win : Nat := 0
  /-- next byte of the command in linear order -/
  pos : Nat := 0
  /-- the checks made once before the first byte have passed -/
  started : Bool := false
  /-- BFMT0 to BFMT7 of its source core, then of its destination core, as they were at issue (R79, R80) -/
  fmts : List Word := []
  /-- source and destination of the circuit that it names, as they were at issue (R343) -/
  ends : BitVec 32 × BitVec 32 := (0, 0)
  /-- the present portions of the source and of the destination -/
  srcPart : Option EngPart := none
  dstPart : Option EngPart := none
  /-- the reads that it has asked for and not yet taken, in linear order -/
  reads : List EngRead := []
  /-- length of a read made again because an error or a race cut it short; 0 a whole unit -/
  short : Nat := 0
  /-- the end: engine status code, address and details (R349, R350) -/
  fin : Option (BitVec 8 × Word × Word) := none
  /-- bytes that stand (status DONE) -/
  done : Nat := 0
  /-- its write to global memory under way -/
  wait : Wait := .idle
  /-- payloads sent and not yet arrived -/
  out : Nat := 0
  /-- byte masks of the local-store words written so far, by global word number (for FULL, R82) -/
  got : SMap (BitVec 8) := []
  /-- the notice has been raised -/
  noted : Bool := false
deriving DecidableEq, Repr, Inhabited

/-- Memory operations of the CORE path (R135). -/
inductive MemOp where
  | read (n : Nat)
  | write (bytes : List Byte)
  | amo (op : BitVec 4) (wide : Bool) (opnd : Word)
  | cas (wide : Bool) (expect new : Word)
deriving DecidableEq, Repr, Inhabited

/-- A request held at a network port or queued at a port group (R70, R71, R30). -/
structure Req where
  agent : Agent := {}
  launch : LaunchInfo := {}
  ten : BitVec 8 := 0
  pg : Nat := 0
  va : Word := 0
  /-- the address ranges the access covers, in order -/
  runs : List (Nat × Nat) := []
  op : MemOp := .read 8
  plain : Bool := true
  /-- operation field of a fault-log entry (R288) -/
  opField : BitVec 8 := 0
  /-- the stores of a buffered line -/
  stores : List StoreRec := []
  stamp : BitVec 16 := 0
  /-- its places, as its holder and its port groups translated it when it was sent (R26, R292) -/
  pieces : List Piece := []
  /-- peer access: what the peer entry of each range names (R30) -/
  peer : Bool := false
  tos : List PeerTo := []
  /-- importer identity carried by the access: package, die, ASID -/
  ipkg : BitVec 12 := 0
  idie : Nat := 0
  /-- identity of the agent as it was when it made the access (R132) -/
  ident : BitVec 13 := 0
  /-- string and queue slot of the engine command that waits for it, for an access of a copy engine, with the command's ticket and the
  access's place in linear order -/
  slot : Option (Nat × Nat) := none
  ticket : BitVec 16 := 0
  pos : Nat := 0
  /-- the circuit that it rides itself, and the one that its answer rides (R343); 0 none -/
  up : Nat := 0
  via : Nat := 0
deriving DecidableEq, Repr, Inhabited

/-- A trap record on its way to the supervisor's ring (R375), with its paddock. -/
structure TrapRec where
  pad : BitVec 4 := 0
  words : List Word := []
  /-- it has been offered and is held; revolution of the last offer (R372) -/
  held : Bool := false
  rev : Nat := 0
deriving DecidableEq, Repr, Inhabited

/-- The choice a string makes for a pre-emption request (R381). -/
inductive PreChoice where
  | idle | drain | discard | save
deriving DecidableEq, Repr, Inhabited

/-- A string's part in pre-emption (R379 to R387). -/
structure PreState where
  /-- a request names the string and the broadcast has not yet arrived -/
  named : Bool := false
  choice : Option PreChoice := none
  /-- WTIME at which the broadcast arrived -/
  arrival : Word := 0
  /-- remaining time D in wt at that instant -/
  d : Nat := 0
  /-- the contexts have stopped and images are being written -/
  writing : Bool := false
  /-- images complete: the string is free and held -/
  held : Bool := false
  /-- a release asks for the restore -/
  releasing : Bool := false
  /-- its contexts are restored and wait for their dispatch (R387) -/
  restored : Bool := false
deriving DecidableEq, Repr, Inhabited

/-- A core's image in its vault's image slot: its header (R385) and the key under which it is encrypted (R397). The parts that the save
keeps stay in the units that they restore, as nothing else runs on the core until then; where they stand in the slot Machine/Image.lean
says. -/
structure Image where
  form : BitVec 2 := 0
  /-- barriers written; fault logs, context blocks, tiles, accumulators and 1 KiB segments of the local store written, by number -/
  barp : Bool := false
  flogp : BitVec 3 := 0
  ctxp : BitVec 3 := 0
  tmask : BitVec 32 := 0
  amask : BitVec 2 := 0
  lsmask : BitVec 128 := 0
  /-- serial of the key of KEYB -/
  key : Option Nat := none
  wt : Word := 0
  req : BitVec 16 := 0
  /-- an uncorrectable error has made it unreadable (R101) -/
  lost : Bool := false
deriving DecidableEq, Repr, Inhabited

/-- The gang a string runs (R166, R167). -/
structure Gang where
  uid : Nat := 0
  size : Nat := 0
deriving DecidableEq, Repr, Inhabited

/-- One string: front end, instruction cache, copy engine, relay, network port (R3, R168, R342, R63, R71). -/
structure Str where
  gang : Option Gang := none
  /-- the pending muster's address (R172) -/
  muster : Option Word := none
  /-- length of the pending muster's word -/
  musterLen : Nat := 4
  /-- where the leader's branches went, by position in the attached stream (R169) -/
  brLog : SMap Word := []
  /-- the decoded window (R168): instructions of the attached stream, by position, that one attached member has had decoded and
  another has still to issue, each with its address and its halfwords -/
  window : SMap (Word × Nat) := []
  icache : List ILine := []
  etlb : List TlbEntry := []
  /-- command queue, 16 entries by slot number, and the tasks that wait for an entry, in order of
  arrival, with their launch and the address of the instruction that waits (R342) -/
  queue : SMap Cmd := []
  waiters : List (Agent × Nat × Word) := []
  /-- (tenant * 16 + port group) pairs whose stop notice the port has received (R71) -/
  stops : List Nat := []
  /-- the same for peer accesses (R75): (die * 256 + exporter tenant) * 16 + port group, and for exporters on other packages
  ((package * 4 + die) * 4096 + handle) * 16 + port group -/
  peerStops : List Nat := []
  farStops : List Nat := []
  held : List Req := []
  /-- read requests that the copy engine has sent to a port group in the revolution given, by port group (R426) -/
  asks : SMap (Nat × Nat) := []
  /-- position of the core whose held request was released last (R77), and the revolution of the last demand beacon for each stop
  (R71) -/
  lastPos : Nat := 7
  beacons : SMap Nat := []
  traps : List TrapRec := []
  pre : PreState := {}
deriving DecidableEq, Repr, Inhabited

/-! ## Port groups and vaults -/

/-- A write to an 8 B word that a read of another class need not see (R136): the word as it was before, who wrote it, its class,
the classes for which a fence of its own agent has ordered it, and the agents and classes of other fences. -/
structure OldWord where
  val : Word := 0
  agent : Agent := {}
  /-- serial number of its launch on its agent's die -/
  uid : Nat := 0
  cls : Nat := 0
  /-- ticket of the engine command that wrote it into a local store; the write has set the word's tag full, and nothing has emptied
  it since (R82, R141) -/
  ticket : BitVec 16 := 0
  filled : Bool := false
  fenced : List Nat := []
  seen : List (Agent × List Nat) := []
deriving DecidableEq, Repr, Inhabited

/-- A tenant's bucket at a serving point (R70 to R73, R212). -/
structure Bucket where
  b : Int := 0
  deficit : Nat := 0
  /-- tokens borrowed this period -/
  borrowed : Nat := 0
  /-- pending demand now, and in the period just ended -/
  demand : Bool := false
  wasDemand : Bool := false
deriving DecidableEq, Repr, Inhabited

/-- The buckets of one serving point, by tenant; the debts by 256 * borrower + lender; the unowned pool; one more than the number
of the last period refilled, 0 before the refill at wheel time 0 (R73). -/
structure Tokens where
  buckets : SMap Bucket := []
  /-- the tenants' shares as the last refill found them (R73) -/
  shares : SMap Nat := []
  debts : SMap Nat := []
  pool : Int := 0
  period : Nat := 0
deriving DecidableEq, Repr, Inhabited

/-- A race record (R145) with its line. -/
structure RaceRec where
  lid : BitVec 12 := 0
  line : Nat := 0
  phase : BitVec 16 := 0
  wag : BitVec 13 := 0
  wv : Bool := false
  rst : BitVec 2 := 0
  rag : BitVec 13 := 0
deriving DecidableEq, Repr, Inhabited

/-- Race detection of one memory: records by 8 * set + way, and N by launch index (R145). -/
structure Races where
  recs : SMap RaceRec := []
  newest : SMap (BitVec 16) := []
deriving DecidableEq, Repr, Inhabited

/-- A posted reduction (R88, R90, R92). -/
structure Posted where
  agent : Agent := {}
  launch : LaunchInfo := {}
  va : Word := 0
  /-- 0 RED, 1 REDF, 2 REDF.U -/
  form : BitVec 2 := 0
  /-- RED: operation and width; REDF, REDF.U: type -/
  op : BitVec 4 := 0
  wide : Bool := false
  opnd : Word := 0
  contrib : Word := 0
  /-- the operation field of the issuing instruction (R103) -/
  opField : BitVec 8 := 0
  /-- performed at a vault (then its number) -/
  vault : Option Nat := none
  /-- its place, as the core's micro-TLB (a vault) or the port group (HBM) translated it when it was posted (R26, R292) -/
  piece : Option Piece := none
  /-- what it aims at, as that micro-TLB gave it (R139) -/
  aim : Aim := {}
  /-- identity of the agent as it was when it posted the reduction (R132) -/
  ident : BitVec 13 := 0
  /-- on its way to an exporter: what the peer entry names, and the offset within the handle (R30) -/
  peer : Bool := false
  exporter : PeerTo := {}
  off : Nat := 0
  /-- importer package and die -/
  ipkg : BitVec 12 := 0
  idie : Nat := 0
deriving DecidableEq, Repr, Inhabited

/-- What waits at a forwarding point of the peer path (R452): an access, or a posted reduction. -/
inductive PeerWord where
  | access (r : Req)
  | reduction (p : Posted)
deriving DecidableEq, Repr, Inhabited

/-- One port group (R86). -/
structure PortGroup where
  tlb : List TlbEntry := []
  walks : List WalkEntry := []
  tokens : Tokens := {}
  queue : List Req := []
  posted : List Posted := []
  races : Races := {}
  /-- tenants to which a stop notice has been sent and no go notice since (R71) -/
  stopped : List Nat := []
  /-- peer words waiting at this forwarding point, with the tenant last served (R452) -/
  peerQ : List PeerWord := []
  lastTen : Nat := 0
  /-- peer accesses arrived from an importer (R30) -/
  peerIn : List Req := []
deriving DecidableEq, Repr, Inhabited

/-- One vault (R83 to R85, R145). -/
structure Vault where
  races : Races := {}
  posted : List Posted := []
deriving DecidableEq, Repr, Inhabited

/-! ## The wheel and the yardmasters -/

/-- A word on a link, waiting in the router it has reached (R48): the link it arrived by is named by the input code
IN. Its data are carried by the access it belongs to. -/
structure Flit where
  /-- 0 to 3 compute dies, 4 to 7 vault dies, 8 the link die -/
  unit : Nat := 0
  row : Nat := 0
  col : Nat := 0
  inp : BitVec 3 := 0
  /-- owner die and circuit number, 0 for a standing circuit, and its sequence number (R51) -/
  die : Nat := 0
  cid : Nat := 0
  seq : BitVec 16 := 0
  /-- WTIME of its slot at this router -/
  wt : Word := 0
  /-- it still waits at its source for its start slot (R48) -/
  src : Bool := false
  /-- a word of the circuit's response chain (R431) -/
  back : Bool := false
deriving DecidableEq, Repr, Inhabited

/-- An engine write on its way to a local store (R82). -/
structure Payload where
  /-- string and queue slot of the command -/
  str : Nat := 0
  slot : Nat := 0
  agent : Agent := {}
  uid : Nat := 0
  core : Nat := 0
  off : Nat := 0
  bytes : List Byte := []
  full : Bool := false
  cls : BitVec 3 := 1
  ident : BitVec 13 := 0
  /-- bytes of the command that stand if it is lost -/
  lin : Nat := 0
deriving DecidableEq, Repr, Inhabited

/-- What a word of a requested circuit carries: an access to its destination, the answer of one (the last of its words, the earlier
ones being parts of it), or bytes for a local store. -/
inductive Load where
  | access (r : Req)
  | part
  | reply (r : Req) (x : Reply)
  | payload (p : Payload)
deriving DecidableEq, Repr, Inhabited

/-- A word that the source of a circuit has injected and retains (R65), with the wheel time of its injection. -/
structure CircWord where
  seq : BitVec 16 := 0
  at_ : Nat := 0
  load : Load := .access {}
deriving DecidableEq, Repr, Inhabited

/-- The words of a circuit's response chain (R51, R65, R431): as those of its chains. -/
structure Lane where
  tx : BitVec 16 := 0
  rx : BitVec 16 := 0
  words : List CircWord := []
  last : Nat := 0
deriving DecidableEq, Repr, Inhabited

/-- A chain of a circuit (R49, R57). -/
structure Chain where
  num : Nat := 0
  start : Nat := 0
  /-- the source may inject on it, from the given wheel time on (R57) -/
  live : Bool := false
  since : Nat := 0
  /-- a narrowing or a close removes it -/
  going : Bool := false
deriving DecidableEq, Repr, Inhabited

/-- How far a circuit has come. -/
inductive CircState where
  | pending | open | closing | refused | failed
deriving DecidableEq, Repr, Inhabited

/-- A slot-table write on its way in a configuration flit (R52): link key, slot, entry. -/
structure CfgWrite where
  link : Nat := 0
  slot : Nat := 0
  entry : BitVec 32 := 0
  /-- the circuit that it belongs to: owner die and number -/
  die : Nat := 0
  cid : Nat := 0
  /-- 0 an entry, 1 the last entry of one die's part of a grant, 2 the clearing of a removed chain's source entry, 3 the last entry
  of a grant, 4 the last entry that one die clears of a removed chain -/
  kind : BitVec 3 := 0
  chain : Nat := 0
  /-- the request on its circuit that it serves -/
  num : Nat := 0
deriving DecidableEq, Repr, Inhabited

/-- The part in this package of a circuit that comes from another one (R50, R53): the neighbour's number for it, the package link by
which it enters, its slots there, and the slot in which the word of its response chain leaves by that link. -/
structure Segment where
  id : Nat := 0
  link : Nat := 0
  slots : List Nat := []
  resp : Option Nat := none
  /-- the sequence number that this package expects next by that link (R65) -/
  rx : BitVec 16 := 0
deriving DecidableEq, Repr, Inhabited

/-- Kinds of circuit requests. -/
inductive CircOp where
  | openC | widen | close | query
deriving DecidableEq, Repr, Inhabited

/-- A request at a yardmaster (R54, R55, R57), with the operands of its instruction (R351). -/
structure CircReq where
  op : CircOp := .openC
  agent : Agent := {}
  pad : BitVec 4 := 0
  asid : BitVec 11 := 0
  b : Word := 0
  c : Word := 0
  e0 : Word := 0
  e1 : Word := 0
  cid : Nat := 0
  /-- number of chains asked for, and of the request on its circuit -/
  n : Nat := 0
  num : Nat := 0
  /-- WTIME of its arrival and of its deadline -/
  arrival : Word := 0
  deadline : Nat := 0
  /-- links whose freed slots wake it (R55); the change that woke it has been seen -/
  cand : List Nat := []
  woken : Bool := false
  /-- made by a neighbour package for the part of a circuit in this one (R53), with the package of the destination -/
  seg : Option Segment := none
  xpkg : BitVec 12 := 0
deriving DecidableEq, Repr, Inhabited

/-- A requested circuit of a die (R49, R54, R58), or a standing or peer circuit (R61, R452). Links are named by the link key
of `linkKey`. -/
structure Circuit where
  cid : Nat := 0
  pad : BitVec 4 := 0
  src : BitVec 32 := 0
  dst : BitVec 32 := 0
  /-- package of the destination -/
  xpkg : BitVec 12 := 0
  path : List Nat := []
  offs : List Nat := []
  /-- total delay o_n -/
  delay : Nat := 0
  chains : List Chain := []
  /-- path and start slot of the response chain (R431) -/
  resp : Option (List Nat × Nat) := none
  st : CircState := .pending
  status : Word := 0
  /-- number of the latest request on it -/
  latest : Nat := 0
  /-- what the yardmasters still write of it, by die, the part under way first; 5 stands for the next package (R53, R56) -/
  plan : List (Nat × List CfgWrite) := []
  /-- narrowings and closes accepted and not begun: their number and the chains they remove (R57, R68) -/
  ends : List (Nat × List Nat) := []
  /-- it comes from another package -/
  seg : Option Segment := none
  /-- a link of its path failed and its words are not injected (R66) -/
  suspended : Bool := false
  /-- next sequence number sent, and expected by the receiver (R51, R65) -/
  tx : BitVec 16 := 0
  rx : BitVec 16 := 0
  /-- the words its source retains (R65), oldest first, and the wheel time of the slot taken last -/
  words : List CircWord := []
  last : Nat := 0
  /-- the same of its response chain (R431) -/
  back : Lane := {}
  /-- slots of a package link that the next package has refused, with the blocking hop there; slot 256 stands for the whole link
  (R53, R55) -/
  farBad : List (Nat × Nat × Nat) := []
  /-- the requests whose grants are being written -/
  asked : List CircReq := []
  /-- WTIME up to which its chains have been charged (R402) -/
  since : Word := 0
deriving DecidableEq, Repr, Inhabited

/-- Remaining entries of a removed chain, cleared after o_n + 256 wt (R57): link key and slot; 255 is a response chain, 256 what a
reroute leaves of all of them. -/
structure Clear where
  cid : Nat := 0
  num : Nat := 0
  chain : Nat := 0
  links : List (Nat × Nat) := []
  due : Nat := 0
  /-- the dies whose yardmasters have still to write their part, once it has begun -/
  left : Option Nat := none
deriving DecidableEq, Repr, Inhabited

/-- What the link die asks of a neighbour package's (R53): to place, or to remove, chains of a circuit, or the whole of it. -/
structure FarReq where
  die : Nat := 0
  cid : Nat := 0
  num : Nat := 0
  remove : Bool := false
  /-- the chains by number, the package link, and the slots in which their words cross it -/
  chains : List Nat := []
  link : Nat := 0
  slots : List Nat := []
  resp : Option Nat := none
  dst : BitVec 32 := 0
  xpkg : BitVec 12 := 0
deriving DecidableEq, Repr, Inhabited

/-- A link's condition (R43, R64, R69). Links not listed are in service at full width. -/
structure LinkState where
  failed : Bool := false
  half : Bool := false
  /-- lanes replaced by spares -/
  repairs : Nat := 0
  /-- WTIME since which it has held no circuit slot -/
  idle : Word := 0
  /-- WTIME at which a wake began -/
  waking : Option Word := none
  /-- a package link not yet brought into service (R410) -/
  out : Bool := false
  /-- D_link of a package link (R43) -/
  delay : Nat := 0
deriving DecidableEq, Repr, Inhabited

/-- One yardmaster: of a compute die, or of the link die (R52, R53). -/
structure Yard where
  reqs : List CircReq := []
  waiting : List CircReq := []
  /-- parts of grants that other yardmasters ask it to write, in exchange slots (R53) -/
  exch : List (List CfgWrite) := []
  cfg : List CfgWrite := []
  /-- the writes of the flit under way, which take effect at the next revolution, and one more than the revolution in which it was
  sent (R52) -/
  flying : List CfgWrite := []
  flitRev : Nat := 0
  clears : List Clear := []
  circuits : SMap Circuit := []
  /-- local circuit numbers held for circuits of other dies (R49): owner die * 4096 + cid -/
  locals : SMap Nat := []
  /-- acceptances on their way to the requesting contexts (R351) -/
  accepts : List (Agent × Word) := []
  /-- of the link die: requests to neighbour packages; answers to theirs by the neighbour's number, with the slots refused; and what it
  has refused, with the links that it would have taken (R53) -/
  farOut : List FarReq := []
  farAns : List (Nat × Word × List Nat) := []
  denied : List (Nat × List Nat) := []
deriving DecidableEq, Repr, Inhabited

/-! ## Dies -/

/-- An invalidation request (R33) and, once broadcast, the holders that have not acknowledged. -/
structure Tlbi where
  agent : Agent := {}
  /-- made by the hardware itself: a revocation (R31) or DESTROY (R399) -/
  hw : Bool := false
  asid : BitVec 11 := 0
  start : Nat := 0
  /-- one past the last byte; the whole ASID when `all` -/
  stop : Nat := 0
  all : Bool := false
  active : Bool := false
  holders : List Nat := []
deriving DecidableEq, Repr, Inhabited

/-- A command for one of the die's tables (R14, R29, R89), as a context or the host (no agent) gave it. -/
structure TableCmd where
  /-- 0 ASID table, 1 handle table, 2 region table -/
  table : BitVec 2 := 0
  cmd : Nat := 0
  sel : Nat := 0
  words : List Word := []
  agent : Option Agent := none
  /-- made with the rights of the physical function -/
  pf : Bool := false
  pad : BitVec 4 := 0
deriving DecidableEq, Repr, Inhabited

/-- A launch in the pending-launch store (R210), with its dealing under R166 and what its completion record reports. -/
structure Launch where
  info : LaunchInfo := {}
  hdr : Word := 0
  tag : Word := 0
  /-- a reserved word of its record was not zero, or the record address was bad (R209) -/
  bad : Bool := false
  order : Nat := 0
  /-- the header has been read and checked -/
  checked : Bool := false
  /-- the status of a failed check (R159) -/
  failed : Option (BitVec 8) := none
  places : List Nat := []
  /-- address of the first instruction of its tasks -/
  entry : Word := 0
  /-- dealing: next WID in enumeration order, cursors by unit, gang being formed, gangs formed and not yet taken -/
  next : Nat := 0
  cursors : SMap Nat := []
  forming : List Nat := []
  formStr : Nat := 0
  formed : List (Nat × List Nat) := []
  /-- rounds the formed gangs have been passed over, by string (R214) -/
  passed : SMap Nat := []
  /-- tasks created and not yet ended -/
  live : Nat := 0
  fatal : Bool := false
  trapped : Bool := false
  aborted : Bool := false
  rinc : Bool := false
  rfirst : BitVec 16 := 0
  olate : Bool := false
  raceCnt : BitVec 32 := 0
  faults : List FlogEntry := []
  fltCnt : BitVec 32 := 0
  tstart : Word := 0
  /-- wheel time charged to the launch's contexts -/
  charge : Nat := 0
deriving DecidableEq, Repr, Inhabited

/-- A launch queue (R208). -/
structure LQueue where
  cfg : Word := 0
  base : Word := 0
  tail : BitVec 16 := 0
  head : BitVec 16 := 0
deriving DecidableEq, Repr, Inhabited

/-- A bound confidential stream (R405). -/
structure Stream where
  id : BitVec 32 := 0
  asid : BitVec 11 := 0
  pad : BitVec 4 := 0
  /-- die of the SPDM connection in whose session it was bound, and the session's number -/
  conn : Nat := 0
  session : Nat := 0
  key : BitVec 256 := 0
  last : Word := 0
deriving DecidableEq, Repr, Inhabited

/-- TDISP states (R409). -/
inductive Tdisp where
  | unlocked | locked | run | error
deriving DecidableEq, Repr, Inhabited

/-- One PCIe function of a die: the physical function is 0, the virtual function of paddock n is n + 1 (R406). -/
structure Func where
  /-- memory space enabled -/
  enabled : Bool := false
  tdisp : Tdisp := .unlocked
  lqs : SMap LQueue := []
  /-- selector of the tenant counters (R408) -/
  ctrSel : Word := 0
  /-- index of the stud-book window (R403) -/
  studIdx : Word := 0
  /-- BAR settings as the host wrote them -/
  bar : Word := 0
deriving DecidableEq, Repr, Inhabited

/-- What the stud book has gathered of a paddock in the period under way (R402). -/
structure Usage where
  seq : Nat := 0
  tbeg : Word := 0
  /-- wheel time charged to the paddock's contexts -/
  charge : Nat := 0
  /-- energy, in nJ (R404) -/
  energy : Nat := 0
  hbm : Nat := 0
  slotWt : Nat := 0
  launches : Nat := 0
  preempts : Nat := 0
  gsteps : Nat := 0
  flags : BitVec 32 := 0
  /-- the emitted records, oldest first, at most 256 (R403) -/
  ring : List (List Byte) := []
  unread : Bool := false
  /-- period number of the last periodic record -/
  period : Nat := 0
deriving DecidableEq, Repr, Inhabited

/-- A live paddock (R394, R396). -/
structure Paddock where
  /-- the descriptor's eight words -/
  desc : List Word := []
  /-- delivery window in revolutions, as raised at CREATE (R204) -/
  dw : Nat := 16
  /-- stream floor (R405) -/
  floor : BitVec 32 := 0
  usage : Usage := {}
  /-- totals TOT0 to TOT7 (R408) -/
  tot : Vector Word 8 := Vector.replicate 8 0
  /-- standing circuits (R61) -/
  standing : List Circuit := []
  /-- 0 in use; DESTROY has 1 stopped its strings, 2 revoked its handles (R399) -/
  phase : Nat := 0
  /-- launches admitted in the millisecond under way, and its number (R398) -/
  admitted : Nat := 0
  admitMs : Nat := 0
deriving DecidableEq, Repr, Inhabited

/-- The pre-emption controller of a die (R379). -/
structure PreCtl where
  /-- requests accepted or waiting: their six words -/
  queue : List (List Word) := []
  cur : Option (List Word) := none
  acceptedAt : Word := 0
  response : List Word := []
  /-- ID of the request that the response answers -/
  respId : BitVec 16 := 0
deriving DecidableEq, Repr, Inhabited

/-- A revocation notice under way (R31): exporter die, handle, generation, importer ASID and die. -/
structure Notice where
  xdie : Nat := 0
  hnd : BitVec 12 := 0
  gen : BitVec 16 := 0
  ipkg : BitVec 12 := 0
  idie : Nat := 0
  iasid : BitVec 11 := 0
  /-- exporter package -/
  xpkg : BitVec 12 := 0
  /-- the importer has marked its peer entries and asked for the invalidation -/
  marked : Bool := false
  /-- the importer has acknowledged -/
  acked : Bool := false
  sentAt : Word := 0
deriving DecidableEq, Repr, Inhabited

/-- One compute die with its vault die, its port groups and its tables. -/
structure Die where
  /-- ASID table: words 0 and 1 (R13) -/
  asids : SMap (Word × Word) := []
  /-- handle table: words 0 to 3 (R29) -/
  handles : SMap (List Word) := []
  /-- reduction-region table: words 0 to 2 (R89) -/
  regions : SMap (List Word) := []
  /-- key table: key identifier to key serial number (R21, R400) -/
  keys : SMap Nat := []
  /-- management-window registers by system-register number (R408) -/
  win : SMap Word := []
  /-- commands for the ASID, handle and region tables, in order of arrival (R408) -/
  cmds : List TableCmd := []
  /-- the commands whose revocations are under way (R31) -/
  revoking : List TableCmd := []
  tlbis : List Tlbi := []
  msgs : List Msg := []
  /-- acceptances under way to sending contexts (R199) -/
  acks : List Agent := []
  payloads : List Payload := []
  /-- join-word writes under way (R193) -/
  joins : List Payload := []
  bmsgs : List BMsg := []
  /-- steal requests under way: thief core and victim core, and the answer (R191) -/
  steals : List (Nat × Nat) := []
  launches : SMap Launch := []
  launchSerial : Nat := 1
  /-- next queue for intake, in round-robin order (R210) -/
  intake : Nat := 0
  coreTime : Tokens := {}
  lastTenant : Nat := 255
  round : Nat := 0
  funcs : SMap Func := []
  /-- paddock table as written through BAR0, 8 words per slot (R394) -/
  pdTable : SMap (List Word) := []
  pdcmd : Word := 0
  pads : SMap Paddock := []
  pre : PreCtl := {}
  /-- device status block (R408) -/
  fstep : BitVec 8 := 0
  state : BitVec 8 := 0
  misroute : Word := 0
  lostCompl : Word := 0
  eccCor : Word := 0
  eccUnc : Word := 0
  linkFail : Word := 0
  /-- exporter-side faults of peer accesses (R30) -/
  xFaults : Word := 0
  /-- supervisor-fault report: last trap record by paddock (R377) -/
  supFault : SMap (List Word) := []
  streams : List Stream := []
  /-- cap mailbox words 0 and 1 and result (R420) -/
  cap0 : Word := 0
  cap1 : Word := 0
  capRes : BitVec 2 := 0
  /-- answers to host reads through the functions, newest last (R406, R409) -/
  hostOut : List (List Byte) := []
  /-- fused harvest map GOOD by string (R162); an unlisted string has all eight cores good -/
  harvest : SMap (BitVec 8) := []
  notices : List Notice := []
  /-- peer accesses and reductions of this die under way to other packages (R452) -/
  peerOut : List Req := []
  peerPosted : List Posted := []
deriving DecidableEq, Repr, Inhabited

/-! ## The package -/

/-- States of a row's thermal machine (R422). -/
inductive Thermal where
  | normal | throttled | trip
deriving DecidableEq, Repr, Inhabited

/-- One voltage row (R412, R413, R416, R422). -/
structure Row where
  /-- operating point of single-tenant operation: 0 = 2.1 GHz down to 7 = 1.05 GHz -/
  point : Nat := 4
  /-- the point to which it is to rise, and the WTIME from which that, its voltage having been raised, may take effect (R413) -/
  raise : Option (Nat × Nat) := none
  /-- the point to which it falls when the next revolution begins (R413) -/
  lower : Option Nat := none
  /-- power of the period just ended, in mW, and temperature in °C, as measured (inputs) -/
  power : Nat := 0
  temp : Int := 25
  /-- marked over its budget -/
  excess : Bool := false
  therm : Thermal := .normal
  /-- WTIME at which the thermal state was entered -/
  since : Word := 0
  /-- wheel time for which contexts of each paddock have run on its cores since its energy was last metered, and when that was
  (R404) -/
  used : SMap Nat := []
  metered : Word := 0
deriving DecidableEq, Repr, Inhabited

/-- An SPDM connection of a die's physical function (R405). -/
structure Spdm where
  /-- 0 nothing, 1 VERSION, 2 CAPABILITIES, 3 ALGORITHMS answered -/
  stage : Nat := 0
  /-- sessions: number, finished, key -/
  sessions : SMap (Bool × BitVec 256) := []
  nextSession : Nat := 1
  /-- the last answer -/
  resp : List Byte := []
deriving DecidableEq, Repr, Inhabited

/-- The trust die's signing keys (R400); none before the boot derives them. -/
structure TrustKeys where
  identity : List Byte := []
  alias_ : List Byte := []
  usage : List Byte := []
deriving DecidableEq, Repr, Inhabited

/-- A decided guard-step change (R418). -/
structure StepChange where
  goal : Nat := 0
  /-- WTIME at which it takes effect (a step up: at which the voltage is raised) -/
  due : Nat := 0
  /-- a step up waits for its frequency raise -/
  up : Bool := false
  volt : Bool := false
deriving DecidableEq, Repr, Inhabited

/-- What the package holds once: arbiter, thermal control, membership, trust die (R400 to R422). -/
structure Pkg where
  /-- boot steps completed (R411) -/
  boot : Nat := 0
  /-- steps whose checks fail, as the silicon and firmware present make them -/
  bootFail : List Nat := []
  /-- the trust die asserts its fault pin (R411) -/
  faultPin : Bool := false
  /-- version of the firmware present; the four measurements and the keys that the last boot made of it (R400, R404) -/
  firmware : Nat := 0
  measured : List (List Byte) := []
  trust : TrustKeys := {}
  /-- measured power of the package in the period just ended, in mW (an input) -/
  power : Nat := 0
  /-- power arbiter -/
  allow : Nat := 1000
  step : Nat := 0
  change : Option StepChange := none
  /-- consecutive periods with A = 1000 -/
  calm : Nat := 0
  capSeq : Word := 0
  capW : Nat := 0
  capPending : Option Nat := none
  lease : Option Nat := none
  budget : Nat := 1800
  mt : Bool := false
  /-- the guard step to which the rows move before a CREATE makes the package multi-tenant (R415), and the cap under which the present
  step was taken -/
  entering : Option Nat := none
  stepCap : Nat := 0
  period : Nat := 0
  gcnt : Word := 0
  gwt : Word := 0
  /-- SEQ of the last cap message applied (R419) -/
  cseq : Word := 0
  pendSeq : Word := 0
  rows : SMap Row := []
  threshold : BitVec 8 := 95
  tripped : Bool := false
  thermTick : Nat := 0
  /-- scale-up membership (R410): written, domain identifier, package number, coordinates -/
  member : Bool := false
  domain : Word := 0
  number : BitVec 12 := 0
  coords : BitVec 12 := 0
  aligned : Bool := false
  /-- peer circuits; the peer words that wait at the link die, and the tenant last served there (R452) -/
  peers : List Circuit := []
  ldQ : List PeerWord := []
  ldLast : Nat := 0
  /-- last measured offset from the time master (R43) -/
  offset : Int := 0
  spdm : SMap Spdm := []
  /-- IDE streams keyed: stream number to key (R409) -/
  ide : SMap (BitVec 256) := []
  /-- keys generated so far by the tack room's generator (R400) -/
  keySerial : Nat := 0
  /-- records of destroyed paddocks stay readable (R403): die * 16 + slot -/
  oldRings : SMap (List (List Byte)) := []
deriving DecidableEq, Repr, Inhabited

/-- What comes to the package from outside it, between its own steps. -/
inductive Input where
  /-- an uncorrectable, or a correctable, error arises in a memory word (global word number) -/
  | eccBad (word : Nat)
  | eccSoft (word : Nat)
  /-- an uncorrectable error arises in a word of a tile register (320 * tile + word), or in an accumulator, of a core -/
  | tileBad (die core n : Nat)
  | accBad (die core n : Nat)
  /-- the same, correctable -/
  | tileSoft (die core n : Nat)
  | accSoft (die core n : Nat)
  /-- a holder lets go of a translation, or an instruction cache of a line (capacity, parity) -/
  | dropCore (die core i : Nat)
  | dropEngine (die str i : Nat)
  | dropPg (die pg i : Nat)
  | dropWalk (die pg i : Nat)
  | dropLine (die str i : Nat)
  /-- a fence over classes, or the completion of a launch, retires in another package: scope, agent or die and serial number of the
  launch, and tenant (R136, R139, R154) -/
  | peerFences (pkg : Nat) (a : Agent) (classes : List Nat) (scope ten : Nat)
  | peerCompletes (pkg die uid scope ten : Nat)
  /-- measured power of the package and of a voltage row, in mW, and temperature of a row -/
  | packagePower (mw : Nat)
  | rowPower (row mw : Nat)
  | rowTemp (row : Nat) (t : Int)
  /-- a check fails from now on: a boot step 1, 2 or 4, the memory of die n as 5 + n (R411), or the tack room's installation of
  keys as 9 (R395) -/
  | bootFault (step : Nat)
  /-- energy metered of a voltage row since it was last metered, in mJ (R404) -/
  | energy (row mj : Nat)
  /-- another version of the firmware is put in place (R400) -/
  | flash (version : Nat)
  /-- a peer access, or a reduction, of another package arrives at the link die -/
  | peerArrives (r : Req)
  | reductionArrives (p : Posted)
  /-- the answer of another package to a peer access sent to it -/
  | peerAnswers (die i : Nat) (r : Reply)
  /-- another package has merged a narrow store with a word in error: the bytes at these addresses are not applied, and the
  store is logged (R274) -/
  | peerStoreLost (die i : Nat) (lost : List Nat)
  /-- a stop, or a go, notice of another package reaches a string's port: exporter package, die, handle and port group (R75) -/
  | peerStop (die str : Nat) (pkg die2 hnd pg : Nat) (stop : Bool)
  /-- the outcome of another package for a reduction sent to it: 0 applied, or the code to be logged -/
  | peerReduced (die i code : Nat)
  /-- the acknowledgement of another package to a revocation notice -/
  | noticeAcked (die i : Nat)
  /-- a revocation notice arrives from another package -/
  | noticeArrives (die : Nat) (n : Notice)
  /-- a neighbour package answers a request of the link die (R53): its code, the router, port, link and slot of the blocking hop, and
  the slots of the package link for which it has no room -/
  | farAnswers (i code row col port link slot : Nat) (refused : List Nat)
  /-- a neighbour package has freed slots, so that what it has refused by a package link may be asked again (R55) -/
  | farFrees (link : Nat)
  /-- a neighbour package asks for the part of a circuit in this package, or for more chains of it, or removes chains of it by their
  slots on the package link, all of them where none is named -/
  | segmentArrives (sg : Segment) (dst : BitVec 32) (xpkg : BitVec 12) (deadline : Nat)
  | segmentCloses (id : Nat) (slots : List Nat)
  /-- a word of a circuit from another package arrives by its package link (R65) -/
  | segmentWord (id : Nat) (seq : BitVec 16) (l : Load)
  /-- an uncorrectable error in a core's image (R101) -/
  | imageBad (die core : Nat)
  /-- the host changes the BAR of a function, in its configuration space (R409) -/
  | barChange (die fn : Nat) (v : Word)
deriving DecidableEq, Repr, Inhabited

/-- One entry of the agenda: what the next step is. -/
inductive Pick where
  /-- the next instruction of an agent -/
  | run (a : Agent)
  /-- an event of the opcode table -/
  | event (e : Instr)
  /-- wheel time passes -/
  | pass (ticks : Nat)
  | input (i : Input)
deriving DecidableEq, Repr, Inhabited

/-- The state of one package. -/
structure State where
  /-- wheel time (R42) -/
  wt : Word := 0
  /-- what the coming steps are, first one first; when it is empty the step is the next instruction of `cur` -/
  agenda : List Pick := []
  /-- the agent that the present step acts for -/
  cur : Agent := {}
  /-- counter of free values drawn (the model's own field) -/
  fresh : Nat := 0
  ctxs : SMap Ctx := []
  cores : SMap Core := []
  strs : SMap Str := []
  pgs : SMap PortGroup := []
  vaults : SMap Vault := []
  dies : SMap Die := []
  yards : SMap Yard := []
  /-- slot tables: by link key, then by slot (R47) -/
  slots : SMap (SMap (BitVec 32)) := []
  links : SMap LinkState := []
  flits : List Flit := []
  pkg : Pkg := {}
  /-- the bytes of every memory, by global byte address (see `hbmBase`, `vaultBase`, `lsBase`); an unlisted byte reads zero -/
  mem : List Host.Cell := []
  /-- key serial number under which each 16 B unit of HBM or vault was last written, by unit number; unlisted: none (R401) -/
  memKey : SMap Nat := []
  /-- local-store words whose tag is full, by global word number, ascending (R82) -/
  full : List Nat := []
  /-- writes by global word number, newest first, that some class need not see yet (R136) -/
  older : SMap (List OldWord) := []
  /-- memory words that hold an uncorrectable, or a correctable, error (R100) -/
  bad : List Nat := []
  soft : List Nat := []
  /-- core images (R384) by die * 2048 + core -/
  images : SMap Image := []
deriving DecidableEq, Repr, Inhabited

/-- Faults end a run. -/
inductive Fault where
  /-- Raised by `step` when the agenda names an instruction word as an event: an instruction is executed only by
  fetching it (R216), so such an agenda describes no behaviour of the hardware. Safe: nothing is claimed of it. -/
  | notAnEvent
deriving DecidableEq, Repr, Inhabited

/-- Refusals end a run. -/
inductive Refusal where
  /-- Answered by an arm of `exec` that has no meaning yet. Safe: nothing is claimed of the instruction. -/
  | notModelled (mnemonic : String)
deriving DecidableEq, Repr, Inhabited

/-- The package right after reset (R13, R42, R119, R161, R411, R416, R422): no die has left reset, every table is
clear, no paddock lives, WTIME is 0, A is 1,000, the budget 1,800 W, the thermal threshold 95. -/
def State.reset : State := {}

end Sys2Proof.Machine
end

