-- ==== Sys2Proof/Machine/Ops.lean ====
section
/-!
DEFINITION. Sys2Proof/Machine/Ops.lean: the named operations over the state: units, registers, memory bytes, the numbering
of cores, retirement, taking a trap (R372) and returning from one (R364).
-/

namespace Sys2Proof.Machine

/-! ## Bit fields -/

/-- The value of bits hi:lo of a word. -/
def bits {n : Nat} (w : BitVec n) (hi lo : Nat) : Nat := w.toNat / 2 ^ lo % 2 ^ (hi + 1 - lo)

/-- One bit of a word. -/
def bit {n : Nat} (w : BitVec n) (i : Nat) : Bool := w.getLsbD i

/-- A number shifted to a field's place. -/
def field (v lo : Nat) : Nat := v * 2 ^ lo

/-- A word with bits hi:lo replaced. -/
def setBits {n : Nat} (w : BitVec n) (hi lo : Nat) (v : Nat) : BitVec n :=
  BitVec.ofNat n (w.toNat - bits w hi lo * 2 ^ lo + v % 2 ^ (hi + 1 - lo) * 2 ^ lo)

/-- A word from a number. -/
def word (v : Nat) : Word := BitVec.ofNat 64 v

/-- 1 or 0. -/
def bnat (b : Bool) : Nat := if b then 1 else 0

/-- Little-endian value of bytes. -/
def bytesNat : List Byte → Nat
  | [] => 0
  | b :: l => b.toNat + 256 * bytesNat l

/-- The n little-endian bytes of a number. -/
def natBytes : Nat → Nat → List Byte
  | 0, _ => []
  | n + 1, v => BitVec.ofNat 8 v :: natBytes n (v / 256)

/-- Sign extension of the low n bits of a number, as an integer. -/
def sext (n : Nat) (v : Nat) : Int :=
  let m := v % 2 ^ n
  if m < 2 ^ (n - 1) then (m : Int) else (m : Int) - (2 ^ n : Nat)

/-- An integer as a 64-bit word. -/
def iword (v : Int) : Word := BitVec.ofInt 64 v

/-! ## Units -/

/-- Key of a context: (die * 2048 + core) * 4 + context code. -/
def ctxKey (die core ctx : Nat) : Nat := (die * 2048 + core) * 4 + ctx

/-- Key of a core. -/
def coreKey (die core : Nat) : Nat := die * 2048 + core

/-- The string of a core: row * 8 + column / 8 (R3). -/
def strOf (core : Nat) : Nat := core / 64 * 8 + core % 64 / 8

/-- The position of a core in its string. -/
def posOf (core : Nat) : Nat := core % 8

/-- The core at a position of a string. -/
def coreAt (str pos : Nat) : Nat := str / 8 * 64 + str % 8 * 8 + pos

/-- The vault beneath a string (R83). -/
def vaultOf (str : Nat) : Nat := str / 8 / 4 * 8 + str % 8

/-- The voltage row of a core: row * 4 + column / 16 (R3). -/
def vrowOf (core : Nat) : Nat := core / 64 * 4 + core % 64 / 16

/-- The number under which the image slots of a die's cores hold what CTX.SAVE has saved of them (R364, R384). -/
def slotDie (die : Nat) : Nat := die + 4

/-- The die that a unit, or its image slot, belongs to. -/
def homeDie (die : Nat) : Nat := die % 4

/-- A context is live: it runs, or it is parked with its work unfinished. -/
def Ctx.live (c : Ctx) : Bool := c.st == .running || c.st == .parked

def State.ctxOf (s : State) (k : Nat) : Ctx := s.ctxs.getD k {}
def State.setCtxOf (s : State) (k : Nat) (c : Ctx) : State := { s with ctxs := s.ctxs.set k c }
def State.modCtx (s : State) (k : Nat) (f : Ctx → Ctx) : State := s.setCtxOf k (f (s.ctxOf k))
def State.coreOf (s : State) (k : Nat) : Core := s.cores.getD k {}
def State.setCoreOf (s : State) (k : Nat) (c : Core) : State := { s with cores := s.cores.set k c }
def State.modCore (s : State) (k : Nat) (f : Core → Core) : State := s.setCoreOf k (f (s.coreOf k))
def State.strAt (s : State) (die str : Nat) : Str := s.strs.getD (die * 256 + str) {}
def State.setStr (s : State) (die str : Nat) (x : Str) : State := { s with strs := s.strs.set (die * 256 + str) x }
def State.modStr (s : State) (die str : Nat) (f : Str → Str) : State := s.setStr die str (f (s.strAt die str))
def State.pgAt (s : State) (die pg : Nat) : PortGroup := s.pgs.getD (die * 16 + pg) {}
def State.setPg (s : State) (die pg : Nat) (x : PortGroup) : State := { s with pgs := s.pgs.set (die * 16 + pg) x }
def State.modPg (s : State) (die pg : Nat) (f : PortGroup → PortGroup) : State := s.setPg die pg (f (s.pgAt die pg))
def State.vaultAt (s : State) (die v : Nat) : Vault := s.vaults.getD (die * 64 + v) {}
def State.setVault (s : State) (die v : Nat) (x : Vault) : State := { s with vaults := s.vaults.set (die * 64 + v) x }
def State.dieAt (s : State) (d : Nat) : Die := s.dies.getD d {}
def State.setDie (s : State) (d : Nat) (x : Die) : State := { s with dies := s.dies.set d x }
def State.modDie (s : State) (d : Nat) (f : Die → Die) : State := s.setDie d (f (s.dieAt d))
def State.yardAt (s : State) (y : Nat) : Yard := s.yards.getD y {}
def State.setYard (s : State) (y : Nat) (x : Yard) : State := { s with yards := s.yards.set y x }
def State.modYard (s : State) (y : Nat) (f : Yard → Yard) : State := s.setYard y (f (s.yardAt y))

/-- Key of the present agent's context. -/
def State.key (s : State) : Nat := ctxKey s.cur.die s.cur.core s.cur.ctx

/-- The present agent's context. -/
def State.me (s : State) : Ctx := s.ctxOf s.key

/-- The state with the present agent's context replaced. -/
def State.setMe (s : State) (c : Ctx) : State := s.setCtxOf s.key c
def State.modMe (s : State) (f : Ctx → Ctx) : State := s.setMe (f s.me)
def State.modRegs (s : State) (f : Regs → Regs) : State := s.modMe fun c => { c with regs := f c.regs }

/-- Key of the present agent's core. -/
def State.ckey (s : State) : Nat := coreKey s.cur.die s.cur.core

/-- The present agent's core. -/
def State.myCore (s : State) : Core := s.coreOf s.ckey
def State.modMyCore (s : State) (f : Core → Core) : State := s.modCore s.ckey f

/-- The present agent's string. -/
def State.strNo (s : State) : Nat := strOf s.cur.core
def State.myStr (s : State) : Str := s.strAt s.cur.die s.strNo
def State.modMyStr (s : State) (f : Str → Str) : State := s.modStr s.cur.die s.strNo f
def State.myDie (s : State) : Die := s.dieAt s.cur.die
def State.modMyDie (s : State) (f : Die → Die) : State := s.modDie s.cur.die f

/-- The present agent is a handler context (R132). -/
def State.inHandler (s : State) : Bool := s.cur.ctx != 0

/-- The state with the present agent changed to another, for work an event does on its behalf. -/
def State.as (s : State) (a : Agent) : State := { s with cur := a }

/-- Work done on behalf of another agent, after which the present agent is as before. -/
def State.onBehalf (s : State) (a : Agent) (f : State → State) : State := (f (s.as a)).as s.cur

/-! ## Registers -/

/-- A general register: S0 reads zero (R223). -/
def Regs.getS (r : Regs) (n : Nat) : Word := if n = 0 then 0 else r.s[n]?.getD 0

/-- A write to S0 is discarded (R223). -/
def Regs.setS (r : Regs) (n : Nat) (v : Word) : Regs := if n = 0 then r else { r with s := r.s.setIfInBounds n v }

/-- A predicate: P0 reads true (R225). -/
def Regs.getP (r : Regs) (n : Nat) : Bool := n == 0 || bit r.p n

/-- A predicate written; P0 is never a destination (R225, R237). -/
def Regs.setP (r : Regs) (n : Nat) (b : Bool) : Regs := if n = 0 then r else { r with p := setBits r.p n n (bnat b) }

def Regs.getE (r : Regs) (n : Nat) : Word := r.e[n]?.getD 0
def Regs.setE (r : Regs) (n : Nat) (v : Word) : Regs := { r with e := r.e.setIfInBounds n v }
def Regs.getH (r : Regs) (n : Nat) : Word := r.h[n]?.getD 0
def Regs.setH (r : Regs) (n : Nat) (v : Word) : Regs := { r with h := r.h.setIfInBounds n v }
def Regs.getQ (r : Regs) (n : Nat) : List Word := r.q[n]?.getD []
def Regs.setQ (r : Regs) (n : Nat) (l : List Word) : Regs := { r with q := r.q.setIfInBounds n l }
def Regs.getCsr (r : Regs) (n : Nat) : Word := r.csr.getD n 0
def Regs.setCsr (r : Regs) (n : Nat) (v : Word) : Regs := { r with csr := r.csr.set n v }

def State.readS (s : State) (r : BitVec 5) : Word := s.me.regs.getS r.toNat
def State.writeS (s : State) (r : BitVec 5) (v : Word) : State := s.modRegs (·.setS r.toNat v)
def State.readP (s : State) (p : BitVec 3) : Bool := s.me.regs.getP p.toNat
def State.writeP (s : State) (p : BitVec 3) (b : Bool) : State := s.modRegs (·.setP p.toNat b)
def State.readE (s : State) (n : Nat) : Word := s.me.regs.getE n
def State.readH (s : State) (n : Nat) : Word := s.me.regs.getH n
def State.csr (s : State) (n : Nat) : Word := s.me.regs.getCsr n
def State.setCsr (s : State) (n : Nat) (v : Word) : State := s.modRegs (·.setCsr n v)
def State.coreCsr (s : State) (n : Nat) : Word := s.myCore.csr.getD n 0
def State.setCoreCsr (s : State) (n : Nat) (v : Word) : State := s.modMyCore fun c => { c with csr := c.csr.set n v }

/-! Numbers of the system registers (R231). -/
namespace Csr
def wtime := 0x000
def corid := 0x001
def hvsel := 0x002
def hvdat := 0x003
def lcsel := 0x004
def lcdat := 0x005
def fflags := 0x010
def fenab := 0x011
def rngctr := 0x012
def rphase := 0x013
def taskj := 0x014
def stealctl := 0x015
def msgseq := 0x016
def tilepos := 0x017
def reppos := 0x018
def accst0 := 0x019
def accst1 := 0x01A
def bfmt := 0x020
def chcfg := 0x030
def chhnd := 0x038
def chptr := 0x040
def fltva := 0x050
def fltinfo := 0x051
def merrinfo := 0x052
def raceinfo := 0x053
def flogsel := 0x054
def flogdat := 0x055
def flogcnt := 0x059
def tcause := 0x060
def tepc := 0x061
def tstat := 0x062
def tscr := 0x063
def barsel := 0x070
def bardat := 0x071
def asidsel := 0x100
def asiddat0 := 0x101
def asiddat1 := 0x102
def asidcmd := 0x103
def hndsel := 0x110
def hnddat := 0x111
def hndcmd := 0x115
def rrsel := 0x120
def rrdat := 0x121
def rrcmd := 0x125
def slotsel := 0x130
def slotdat := 0x131
end Csr

/-! ## Memory bytes -/

/-- First global byte address of a die's HBM (256 GiB each, R20). -/
def hbmBase (die : Nat) : Nat := die * 2 ^ 38

/-- First global byte address of a die's vault space (2 GiB each, R20). -/
def vaultBase (die : Nat) : Nat := 2 ^ 40 + die * 2 ^ 31

/-- First global byte address of a core's local store (128 KiB each, R78). -/
def lsBase (die core : Nat) : Nat := 2 ^ 41 + coreKey die core * 2 ^ 17

/-- The byte at an address; an unlisted byte is zero. -/
def Mem.get : List Host.Cell → Nat → Byte
  | [], _ => 0
  | (j, v) :: m, a => if j = a then v else Mem.get m a

/-- The memory without an address. -/
def Mem.erase : List Host.Cell → Nat → List Host.Cell
  | [], _ => []
  | (j, v) :: m, a => if j = a then m else if a < j then (j, v) :: m else (j, v) :: Mem.erase m a

/-- The memory with a byte that is not zero put in its place. -/
def Mem.insert : List Host.Cell → Nat → Byte → List Host.Cell
  | [], a, b => [(a, b)]
  | (j, v) :: m, a, b =>
    if a < j then (a, b) :: (j, v) :: m else if a = j then (a, b) :: m else (j, v) :: Mem.insert m a b

/-- A byte written: zero removes the entry. -/
def Mem.set (m : List Host.Cell) (a : Nat) (b : Byte) : List Host.Cell :=
  if b = 0 then Mem.erase m a else Mem.insert m a b

/-- Addresses strictly rising from a bound and no zero byte listed. -/
def Mem.wfFrom : Option Nat → List Host.Cell → Bool
  | _, [] => true
  | none, (a, b) :: m => b != 0 && Mem.wfFrom (some a) m
  | some lo, (a, b) :: m => decide (lo < a) && b != 0 && Mem.wfFrom (some a) m

/-- The canonical form of memory: addresses strictly rising, no entry equal to what an unlisted address reads as. -/
def Memory.wf (m : List Host.Cell) : Bool := Mem.wfFrom none m

/-- The byte of a global address. -/
def State.byte (s : State) (a : Nat) : Byte := Mem.get s.mem a

/-- n bytes from a global address. -/
def State.bytesAt (s : State) (a : Nat) : Nat → List Byte
  | 0 => []
  | n + 1 => s.byte a :: State.bytesAt s (a + 1) n

/-- Bytes put from an address on. -/
def Mem.setList : List Host.Cell → Nat → List Byte → List Host.Cell
  | m, _, [] => m
  | m, a, b :: l => Mem.setList (Mem.set m a b) (a + 1) l

def State.putBytes (s : State) (a : Nat) (l : List Byte) : State := { s with mem := Mem.setList s.mem a l }

/-- The global word numbers that n bytes from an address touch. -/
def wordsOf (a n : Nat) : List Nat :=
  if n = 0 then [] else (List.range ((a + n - 1) / 8 - a / 8 + 1)).map (a / 8 + ·)

/-- Some word of the range holds an uncorrectable error (R100). -/
def State.eccHit (s : State) (a n : Nat) : Bool := s.bad.any fun w => (wordsOf a n).contains w

/-- The words that a write covers whole take fresh check bits (R100). -/
def State.eccFresh (s : State) (a n : Nat) : State :=
  { s with
    bad := s.bad.filter fun w => !(decide (a ≤ 8 * w) && decide (8 * w + 8 ≤ a + n))
    soft := s.soft.filter fun w => !(decide (a ≤ 8 * w) && decide (8 * w + 8 ≤ a + n)) }

/-- Correctable errors met by a read are corrected and counted (R100). -/
def State.eccCorrect (s : State) (die a n : Nat) : State :=
  let hits := s.soft.filter fun w => (wordsOf a n).contains w
  if hits.isEmpty then s
  else
    let s := { s with soft := s.soft.filter fun w => !(hits.contains w) }
    s.modDie die fun d => { d with eccCor := word (min (2 ^ 64 - 1) (d.eccCor.toNat + hits.length)) }

/-- An uncorrectable error has been met by an access (R408). -/
def State.eccCount (s : State) (die : Nat) : State :=
  s.modDie die fun d => { d with eccUnc := word (min (2 ^ 64 - 1) (d.eccUnc.toNat + 1)) }

/-! Writes that a read of another class need not see (R95, R136). State.older keeps, for each word, the writes that some class
may still read past. -/

/-- A write of n bytes from an address is noted: `old` gives the words as they are before it. -/
def State.noteWrite (s : State) (a n : Nat) (who : Agent) (uid cls : Nat) (old : Nat → Word) : State :=
  { s with older := (wordsOf a n).foldl (fun m w =>
      m.set w ({ val := old w, agent := { who with rep := false }, uid := uid, cls := cls } :: m.getD w [])) s.older }

/-- Every read sees what the words of a range now hold. -/
def State.settle (s : State) (a n : Nat) : State := { s with older := s.older.filter fun p => !(wordsOf a n).contains p.1 }

/-- An agent's reads of a class see what the words of a range now hold (R141). -/
def State.seeFor (s : State) (who : Agent) (cls a n : Nat) : State :=
  { s with older := s.older.map fun p =>
      if (wordsOf a n).contains p.1 then (p.1, p.2.map fun o => { o with seen := o.seen ++ [({ who with rep := false }, [cls])] }) else p }

/-- Two writes are parts of one engine command (R141). -/
def OldWord.mate (o x : OldWord) : Bool := o.agent == x.agent && o.uid == x.uid && o.cls == x.cls && o.ticket == x.ticket

/-- The writes of an engine command to n bytes from an address are known by its ticket; those that set FULL, by that (R82, R141). -/
def State.nameWrite (s : State) (a n : Nat) (ticket : BitVec 16) : State :=
  { s with older := s.older.map fun p =>
      if (wordsOf a n).contains p.1 then
        (p.1, match p.2 with
          | o :: l => { o with ticket := ticket } :: l
          | [] => [])
      else p }

/-- The write that a word now holds has set its tag full. -/
def State.fill (s : State) (w : Nat) : State :=
  { s with older := s.older.map fun p =>
      if p.1 = w then
        (w, match p.2 with
          | o :: l => { o with filled := true } :: l.map fun x => { x with filled := false }
          | [] => [])
      else p }

/-- The engine write whose FULL a word shows, if one has set it. -/
def State.filler (s : State) (w : Nat) : Option OldWord := (s.older.getD w []).find? (·.filled)

/-- An agent has observed a word full in a class: all that the engine write that filled it has written is ordered before the agent's
later reads of that class (R82, R141). -/
def State.seeMates (s : State) (who : Agent) (cls w : Nat) : State :=
  match s.filler w with
  | none => s
  | some x => { s with older := s.older.map fun p => (p.1, p.2.map fun o =>
      if o.mate x then { o with seen := o.seen ++ [({ who with rep := false }, [cls])] } else o) }

/-- A read by an agent in a class must see a write: it is of the same class, or a fence has ordered it (R95, R136). -/
def OldWord.binds (o : OldWord) (who : Agent) (cls : Nat) : Bool :=
  o.cls == cls || o.fenced.contains cls || o.seen.any fun x => x.1 == { who with rep := false } && x.2.contains cls

/-- The earlier values that a read may return beside the present one (R136). -/
def olderVals (who : Agent) (cls : Nat) : List OldWord → List Word
  | [] => []
  | o :: l => if o.binds who cls then [] else o.val :: olderVals who cls l

/-- One word as a read returns it: free among the present value and the earlier ones that the read may return (R136). -/
def State.viewWord (s : State) (who : Agent) (cls w : Nat) : Option Word × State :=
  match olderVals who cls (s.older.getD w []) with
  | [] => (none, s)
  | l => (if (Config.freeWord s.fresh).toNat % (l.length + 1) = 0 then none
      else l[(Config.freeWord s.fresh).toNat % (l.length + 1) - 1]?, { s with fresh := s.fresh + 1 })

/-- Bytes from an address as a read returns them, each word chosen for itself; `l` holds the latest values (R136). -/
def State.viewWords (s : State) (who : Agent) (cls a : Nat) : List Nat → List Byte → List Byte × State
  | [], l => (l, s)
  | w :: ws, l =>
    match s.viewWord who cls w with
    | (none, s) => State.viewWords s who cls a ws l
    | (some v, s) => State.viewWords s who cls a ws ((List.range l.length).map fun j =>
        if (a + j) / 8 = w then BitVec.ofNat 8 (v.toNat / 2 ^ (8 * ((a + j) % 8))) else l.getD j 0)

/-- The bytes that a read of a class returns (R136): the latest, where nothing may be read past. -/
def State.view (s : State) (who : Agent) (cls a : Nat) (l : List Byte) : List Byte × State :=
  if s.older.isEmpty then (l, s) else s.viewWords who cls a (wordsOf a l.length) l

/-! Local store (R78, R82). -/

/-- Bytes of the present core's local store. -/
def State.lsRead (s : State) (off n : Nat) : List Byte := s.bytesAt (lsBase s.cur.die s.cur.core + off) n

/-- The 1 KiB segments that n bytes from an offset on touch. -/
def segmentMask (off n : Nat) : BitVec 128 :=
  BitVec.ofNat 128 (if n = 0 then 0 else 2 ^ ((off + n - 1) / 1024 + 1) - 2 ^ (off / 1024))

/-- The images with a change to that of a core, if it has one. -/
def State.imagesWith (s : State) (die core : Nat) (f : Image → Image) : SMap Image :=
  match s.images.find? (coreKey die core) with
  | some i => s.images.set (coreKey die core) (f i)
  | none => s.images

/-- The images after a write into the local store of a core: where the core is saved, the segments written enter its LSMASK (R385). -/
def State.imagesAfter (s : State) (die core off n : Nat) : SMap Image :=
  s.imagesWith die core fun i => { i with lsmask := i.lsmask ||| segmentMask off n }

/-- Bytes of a core's local store written by an agent in a class, with fresh check bits for the words covered whole. -/
def State.lsPutFor (s : State) (who : Agent) (uid cls die core off : Nat) (l : List Byte) : State :=
  let a := lsBase die core + off
  { ((s.noteWrite a l.length who uid cls fun w => word (bytesNat (s.bytesAt (8 * w) 8))).putBytes a l).eccFresh a l.length with
    images := s.imagesAfter die core off l.length }

/-! A record handled from the lean-to shows at its offset to its handler run alone (R8, R201). -/

/-- The place in the record of a byte that it shows. -/
def HandlerRun.place (r : HandlerRun) (off : Nat) : Option Nat :=
  if r.shownAt ≤ off ∧ off < r.shownAt + r.shown.length then some (off - r.shownAt) else none

/-- Bytes of the local store from an offset on as the run finds them. -/
def HandlerRun.see (r : HandlerRun) (off : Nat) (l : List Byte) : List Byte :=
  if r.shown.isEmpty then l
  else (List.range l.length).map fun j =>
    match r.place (off + j) with
    | some i => r.shown.getD i 0
    | none => l.getD j 0

/-- The record after the run has written bytes from an offset on. -/
def HandlerRun.write (r : HandlerRun) (off : Nat) (l : List Byte) : HandlerRun :=
  { r with shown := (List.range r.shown.length).map fun i =>
      if off ≤ r.shownAt + i then (l[r.shownAt + i - off]?).getD (r.shown.getD i 0) else r.shown.getD i 0 }

/-- The handler run of an agent: only a handler context has one (R192). -/
def State.runOf (s : State) (a : Agent) : Option HandlerRun :=
  if a.ctx = 0 then none else (s.ctxOf (ctxKey a.die a.core a.ctx)).run

/-- Bytes of a core's local store from an offset on as a context of it finds them. -/
def State.seen (s : State) (a : Agent) (off : Nat) (l : List Byte) : List Byte :=
  match s.runOf a with
  | some r => r.see off l
  | none => l

/-- A write of the present agent's core, class CORE (R94); what it writes of a record that shows there stays with the record. -/
def State.lsPut (s : State) (die core off : Nat) (l : List Byte) : State :=
  match s.runOf s.cur with
  | none => s.lsPutFor s.cur s.me.launch.uid 0 die core off l
  | some r =>
    if r.shown.isEmpty then s.lsPutFor s.cur s.me.launch.uid 0 die core off l
    else
      let l' := (List.range l.length).map fun j =>
        if (r.place (off + j)).isSome then s.byte (lsBase die core + off + j) else l.getD j 0
      (s.lsPutFor s.cur s.me.launch.uid 0 die core off l').modMe fun c => { c with run := some (r.write off l) }

/-- A write of the hardware whose reader is started or released after it, so that every read sees it (R99, R141). -/
def State.lsPutSeen (s : State) (die core off : Nat) (l : List Byte) : State :=
  let a := lsBase die core + off
  { ((s.putBytes a l).eccFresh a l.length).settle a l.length with images := s.imagesAfter die core off l.length }

/-- Global word number of a local-store offset. -/
def lsWord (die core off : Nat) : Nat := (lsBase die core + off) / 8

/-- The tag of a local-store word is full. -/
def State.tag (s : State) (w : Nat) : Bool := s.full.contains w

/-- The tag of a local-store word set full or empty; an emptied one shows no write's FULL any more. -/
def State.setTag (s : State) (w : Nat) (f : Bool) : State :=
  if f then { s with full := insertNat s.full w }
  else
    { s with
      full := removeNat s.full w
      older := s.older.map fun p => if p.1 = w then (w, p.2.map fun x => { x with filled := false }) else p }

/-! Keys (R21, R401): each 16 B unit of HBM or vault remembers the key it was last written under. -/

/-- The serial of the key installed under an identifier on a die. -/
def State.keyOf (s : State) (die : Nat) (k : BitVec 12) : Option Nat := (s.dieAt die).keys.find? k.toNat

/-- The 16 bytes of a unit as they read under a key serial. -/
def State.unitAs (s : State) (key u : Nat) : List Byte :=
  let raw := s.bytesAt (16 * u) 16
  match s.memKey.find? u with
  | none => raw
  | some k => if k = key then raw else natBytes 16 (Config.crossKey k key u (BitVec.ofNat 128 (bytesNat raw))).toNat

/-- One byte as it reads under a key serial. -/
def State.byteAs (s : State) (key a : Nat) : Byte :=
  match s.memKey.find? (a / 16) with
  | none => s.byte a
  | some k => if k = key then s.byte a else (s.unitAs key (a / 16))[a % 16]?.getD 0

/-- n bytes as they read under a key serial. -/
def State.readAs (s : State) (key a : Nat) : Nat → List Byte
  | 0 => []
  | n + 1 => s.byteAs key a :: State.readAs s key (a + 1) n

/-- A unit brought under a key serial before a write into it: its other bytes become what they read as under that key. -/
def State.rekey (s : State) (key u : Nat) : State :=
  if s.memKey.find? u = some key then s
  else
    let s' := s.putBytes (16 * u) (s.unitAs key u)
    { s' with memKey := s'.memKey.set u key }

/-- The unit numbers that n bytes from an address touch. -/
def unitsOf (a n : Nat) : List Nat :=
  if n = 0 then [] else (List.range ((a + n - 1) / 16 - a / 16 + 1)).map (a / 16 + ·)

/-- Bytes written under a key serial by an agent in a class, and noted (R136, R401). -/
def State.writeFor (s : State) (who : Agent) (uid cls key a : Nat) (l : List Byte) : State :=
  let t := s.noteWrite a l.length who uid cls fun w => word (bytesNat (s.readAs key (8 * w) 8))
  (((unitsOf a l.length).foldl (fun s u => s.rekey key u) t).putBytes a l).eccFresh a l.length

/-- Bytes written under a key serial (R401) by the hardware itself; every read sees them. -/
def State.writeAs (s : State) (key a : Nat) (l : List Byte) : State :=
  ((((unitsOf a l.length).foldl (fun s u => s.rekey key u) s).putBytes a l).eccFresh a l.length).settle a l.length

/-! ## Paddocks and logical cores (R162, R163) -/

/-- A failure of the boot holds the die in reset (R411; log 151). -/
def Die.held (d : Die) : Bool := d.fstep != 0

/-- A live paddock of a die. -/
def State.pad? (s : State) (die pad : Nat) : Option Paddock := (s.dieAt die).pads.find? pad

def Paddock.word (p : Paddock) (i : Nat) : Word := p.desc.getD i 0
def Paddock.vreg (p : Paddock) : Word := p.word 0
def Paddock.asidB (p : Paddock) : Nat := bits (p.word 1) 63 53
def Paddock.asidN (p : Paddock) : Nat := bits (p.word 1) 52 41
def Paddock.keyB (p : Paddock) : Nat := bits (p.word 1) 40 29
def Paddock.keyN (p : Paddock) : Nat := bits (p.word 1) 28 17
def Paddock.ten (p : Paddock) : Nat := bits (p.word 1) 11 4
def Paddock.hsh (p : Paddock) : Nat := bits (p.word 2) 63 51
def Paddock.cts (p : Paddock) : Nat := bits (p.word 2) 50 32
def Paddock.supv (p : Paddock) : Nat := bits (p.word 2) 20 10
def Paddock.hbmB (p : Paddock) : Nat := bits (p.word 3) 63 56
def Paddock.hbmN (p : Paddock) : Nat := bits (p.word 3) 55 48 + 1
def Paddock.slotq (p : Paddock) : Nat := bits (p.word 3) 47 32
def Paddock.lrate (p : Paddock) : Nat := bits (p.word 3) 31 16
def Paddock.eq (p : Paddock) : Nat := bits (p.word 4) 63 32
def Paddock.studp (p : Paddock) : Nat := if bits (p.word 4) 31 12 = 0 then 60 else bits (p.word 4) 31 12

/-- GOOD of a string (R162). -/
def Die.good (d : Die) (str : Nat) : BitVec 8 := d.harvest.getD str 0xFF

/-- The strings of a set of vault regions, in ascending number (R163). -/
def regionStrs (vreg : Word) : List Nat := (List.range 256).filter fun k => bit vreg (vaultOf k)

/-- The good cores of a string, in ascending position. -/
def Die.goodCores (d : Die) (str : Nat) : List Nat :=
  ((List.range 8).filter fun j => bit (d.good str) j).map (coreAt str)

/-- The good cores of a paddock in the order of their logical indices (R163). -/
def Die.logical (d : Die) (vreg : Word) : List Nat := (regionStrs vreg).flatMap d.goodCores

/-- Position of an element in a list. -/
def indexOf? (x : Nat) : List Nat → Option Nat
  | [] => none
  | y :: l => if x = y then some 0 else (indexOf? x l).map (· + 1)

/-- The good cores of a live paddock; none when it is not live. -/
def State.lcores (s : State) (die pad : Nat) : List Nat :=
  match s.pad? die pad with
  | some p => (s.dieAt die).logical p.vreg
  | none => []

/-- The physical core of a logical index. -/
def State.physOf (s : State) (die pad lidx : Nat) : Option Nat := (s.lcores die pad)[lidx]?

/-- The logical index of a physical core in a paddock; 0 where it has none. -/
def State.lidxOf (s : State) (die pad core : Nat) : Nat := (indexOf? core (s.lcores die pad)).getD 0

/-- Agent identity in a paddock (R132): logical core in bits 12:2, context code in bits 1:0. -/
def State.agentIn (s : State) (a : Agent) (pad : Nat) : BitVec 13 := BitVec.ofNat 13 (s.lidxOf a.die pad a.core * 4 + a.ctx)

/-- Agent identity of a context by the launch it is in. -/
def State.agentId (s : State) (a : Agent) : BitVec 13 :=
  s.agentIn a (s.ctxOf (ctxKey a.die a.core a.ctx)).launch.pad.toNat

/-- The agent that an identity names in a paddock of a die. -/
def State.agentOf (s : State) (die pad : Nat) (id : BitVec 13) : Option Agent :=
  if id.toNat % 4 = 3 then none
  else (s.physOf die pad (id.toNat / 4)).map fun c => { die := die, core := c, ctx := id.toNat % 4 }

/-- The paddock that a core belongs to. -/
def State.padOfCore (s : State) (die core : Nat) : Option Nat :=
  ((s.dieAt die).pads.filter fun p => bit p.2.vreg (vaultOf (strOf core))).head?.map (·.1)

/-- The core of a paddock's supervisor context (R374, R394). -/
def State.supvCore (s : State) (die pad : Nat) : Option Nat :=
  (s.pad? die pad).bind fun p => s.physOf die pad p.supv

/-- The agent is its paddock's supervisor context: a task context on the SUPV core (R374). -/
def State.isSupv (s : State) (a : Agent) : Bool :=
  a.ctx == 0 && s.supvCore a.die (s.ctxOf (ctxKey a.die a.core 0)).launch.pad.toNat == some a.core

/-- The present agent is the supervisor context. -/
def State.meSupv (s : State) : Bool := s.isSupv s.cur

/-- The present agent's launch is one of the physical function (R407). -/
def State.mePf (s : State) : Bool := s.me.launch.pf

/-- The operator paddock: live, tenant index 0, lowest slot (R407). -/
def Die.operator (d : Die) : Option Nat := (d.pads.filter fun p => p.2.ten == 0).head?.map (·.1)

/-! ## Wheel time -/

/-- The revolution of the wheel (R42). -/
def State.rev (s : State) : Nat := s.wt.toNat / 256

/-- The delivery window of a paddock at the present time (R204). -/
def State.window (s : State) (die pad : Nat) : Nat :=
  s.rev / max 1 (((s.pad? die pad).map (·.dw)).getD 16)

/-! ## Retirement and traps -/

/-- The outstanding request of the present stream. -/
def State.waiting (s : State) : Wait := if s.cur.rep then s.me.waitRep else s.me.wait
def State.setWait (s : State) (w : Wait) : State :=
  s.modMe fun c => if s.cur.rep then { c with waitRep := w } else { c with wait := w }

/-- The tile memory instruction that the present stream has under way. -/
def State.prog (s : State) : Option TileProg := if s.cur.rep then s.me.progRep else s.me.prog
def State.setProg (s : State) (p : Option TileProg) : State :=
  s.modMe fun c => if s.cur.rep then { c with progRep := p } else { c with prog := p }

/-- A counter of the present context advanced, and its paddock's total (R392, R408). -/
def State.count (s : State) (n k : Nat) : State :=
  let s := s.modMe fun c => { c with cnt := c.cnt.setIfInBounds n (c.cnt[n]?.getD 0 + word k) }
  if (s.dieAt s.cur.die).pads.find? s.me.launch.pad.toNat |>.isNone then s
  else s.modMyDie fun d =>
    { d with pads := d.pads.modify s.me.launch.pad.toNat {} fun p =>
        { p with tot := p.tot.setIfInBounds n (word (min (2 ^ 64 - 1) ((p.tot[n]?.getD 0).toNat + k))) } }

/-- REPPOS after the present buffer instruction has retired (R175, R180): the next position, the next iteration, or zero
when the last iteration retires (R269). -/
def nextReppos (r : Word) : Word :=
  let pos := bits r 51 48
  if pos < bits r 55 52 then setBits r 51 48 (pos + 1)
  else if bits r 47 32 + 1 < bits r 31 16 then setBits (setBits r 51 48 0) 47 32 (bits r 47 32 + 1)
  else 0

/-- The registers when an instruction of the given length retires: the stream's place advances and TILEPOS.V clears
(R180, R184). -/
def Regs.advance (r : Regs) (rep : Bool) (len : Nat) : Regs :=
  let r := r.setCsr Csr.tilepos (setBits (r.getCsr Csr.tilepos) 15 15 0)
  if rep then r.setCsr Csr.reppos (nextReppos (r.getCsr Csr.reppos)) else { r with pc := r.pc + word len }

/-- An instruction of the given length retires (R168, R184, R392). -/
def State.retire (s : State) (len : Nat) : State :=
  let s := s.modMe fun c =>
    { c with
      regs := c.regs.advance s.cur.rep len
      wait := if s.cur.rep then c.wait else .idle
      waitRep := if s.cur.rep then .idle else c.waitRep
      wpos := if c.att && !s.cur.rep then c.wpos + 1 else c.wpos
      region := c.region.map fun r => { r with retired := r.retired + 1 } }
  s.count 1 1

/-- The detail word of a cause (R369). -/
def State.detail (s : State) (cause : Nat) : Word :=
  match cause with
  | 0x07 => s.csr Csr.fltinfo
  | 0x08 => s.csr Csr.merrinfo
  | 0x09 => s.csr Csr.raceinfo
  | 0x0B => s.csr Csr.rngctr
  | 0x0C => s.csr Csr.taskj
  | 0x0D => (s.myStr.muster).getD 0
  | 0x0F => word (s.me.flog.length + field s.me.flogLost.toNat 16)
  | 0x10 => s.csr Csr.fflags &&& s.csr Csr.fenab &&& 31
  | _ => 0

/-- The address of the present instruction: the main stream's next address, or the captured word's (R217, R180). -/
def State.here (s : State) : Word :=
  if s.cur.rep then s.me.regs.repBase + word (4 * bits (s.csr Csr.reppos) 51 48) else s.me.regs.pc

/-- An access has ended in a fault that its instruction has not taken yet: its trap waits (R371). -/
def Wait.faulted : Wait → Bool
  | .answered (.xlat _ _) => true
  | .answered (.mem _ _) => true
  | .answered (.race _ _) => true
  | _ => false

/-- A pre-emption stop waits for the present context (R371). -/
def State.stopPending (s : State) : Bool :=
  match s.myStr.pre.choice with
  | some .discard => true
  | some .save => true
  | _ => false

/-- TCAUSE of the present context for a cause and a software code (R370). -/
def State.tcause (s : State) (cause code : Nat) : Word :=
  word (field s.me.launch.lid.toNat 52 + field (code % 1024) 42 + field (bnat s.cur.rep) 41 +
    field (s.agentId s.cur).toNat 28 + cause)

/-- TSTAT of the present context as it is before the trap (R370). -/
def State.tstat (s : State) : Word :=
  word (field (bnat s.me.region.isSome) 7 + field (bnat ((s.me.region.map (·.disc)).getD false)) 6 +
    field (bnat s.me.att) 5 + field (bnat s.myStr.muster.isSome) 4 +
    field (bnat (s.me.pendFp || s.me.pendFpRep || s.me.pendOvf || s.stopPending ||
      (if s.cur.rep then s.me.wait else s.me.waitRep).faulted)) 3)

/-- The record of the present context's trap (R375). -/
def State.trapWords (s : State) (cause : Nat) : List Word :=
  [s.csr Csr.tcause, s.csr Csr.tepc, s.csr Csr.tstat, s.csr Csr.fltva, s.detail cause, s.csr Csr.reppos,
    s.csr Csr.tilepos, s.wt]

/-- The record of a trap goes to the relay of the trapping string, or, for the supervisor context itself, to the physical
function's supervisor-fault report (R372, R377). -/
def State.sendTrap (s : State) (ws : List Word) : State :=
  let pad := s.me.launch.pad
  if s.meSupv then s.modMyDie fun d => { d with supFault := d.supFault.set pad.toNat ws }
  else s.modMyStr fun x => { x with traps := x.traps ++ [{ pad := pad, words := ws }] }

/-- A launch's entry in the pending-launch store changed, if the launch still holds it. -/
def State.modLaunch (s : State) (die : Nat) (l : LaunchInfo) (f : Launch → Launch) : State :=
  match (s.dieAt die).launches.find? l.lid.toNat with
  | some x => if x.info.uid = l.uid then s.modDie die fun d => { d with launches := d.launches.set l.lid.toNat (f x) } else s
  | none => s

/-- TRAP ENTRY (R372): the context detaches and parks with TCAUSE, TEPC and TSTAT written, and its record is sent. The
detail register already holds its value; the trap address is given. What the other stream waits for still comes to it; where its own
trap waits, its instruction executes again after ERET (R371). -/
def State.enterTrap (s : State) (cause code : Nat) (addr : Word) : State :=
  let cw := s.tcause cause code
  let st := s.tstat
  let s := s.modMe fun c =>
    { c with
      regs := ((c.regs.setCsr Csr.tcause cw).setCsr Csr.tepc addr).setCsr Csr.tstat st
      st := .parked
      att := false
      arrived := false
      prog := if s.cur.rep then c.prog else none
      progRep := if s.cur.rep then none else c.progRep
      wait := if !s.cur.rep || c.wait.faulted then .idle else c.wait
      waitRep := if s.cur.rep || c.waitRep.faulted then .idle else c.waitRep }
  let s := if cause = 0x09 then s.modLaunch s.cur.die s.me.launch fun l => { l with raceCnt := l.raceCnt + 1 } else s
  s.sendTrap (s.trapWords cause)

/-- A trap of the present instruction, at its own address. -/
def State.trap (s : State) (cause : Nat) : State := s.enterTrap cause 0 s.here

/-- A trap with FLTVA written (causes 0x04, 0x05). -/
def State.trapAt (s : State) (cause : Nat) (va : Word) : State := (s.setCsr Csr.fltva va).trap cause

/-- The trap of an access that ended in a fault: FLTVA and the detail register are written (R37, R102, R148). -/
def State.trapReply (s : State) (r : Reply) : State :=
  match r with
  | .xlat va info => ((s.setCsr Csr.fltva va).setCsr Csr.fltinfo info).trap 0x07
  | .mem va info => ((s.setCsr Csr.fltva va).setCsr Csr.merrinfo info).trap 0x08
  | .race va info => ((s.setCsr Csr.fltva va).setCsr Csr.raceinfo info).trap 0x09
  | _ => s

/-- RETURN FROM A TRAP (R364, R180): the context with the given key runs again at the address given; a trap of its repeat
stream leaves the main stream's place as it was. A context that halted after its task ended (R105) has ended again. -/
def State.leaveTrap (s : State) (k : Nat) (pc : Word) : State :=
  s.modCtx k fun c =>
    { c with
      st := if c.halted then .ended else .running
      halted := false
      regs := if bit (c.regs.getCsr Csr.tcause) 41 then c.regs else { c.regs with pc := pc } }

/-- Trap causes (R369). -/
def causeIllegal := 0x01
def causePrivilege := 0x02
def causeOperand := 0x03
def causeAlign := 0x04
def causeLsRange := 0x05
def causeHandler := 0x06
def causeFormat := 0x0A
def causeRandWrap := 0x0B
def causeFork := 0x0C
def causeMuster := 0x0D
def causeDeadlock := 0x0E
def causeAsync := 0x0F
def causeFp := 0x10
def causeSoft := 0x11
def causeBreak := 0x12

/-- Floating-point exception flags raised by the present instruction, which retires: they are sticky, and an enabled one
leaves an event for the boundary (R125, R126). -/
def State.raise (s : State) (flags : BitVec 5) : State :=
  if flags = 0 then s
  else
    let s := s.setCsr Csr.fflags (s.csr Csr.fflags ||| flags.setWidth 64)
    if flags.setWidth 64 &&& s.csr Csr.fenab = 0 then s
    else s.modMe fun c => if s.cur.rep then { c with pendFpRep := true } else { c with pendFp := true }

end Sys2Proof.Machine
end

