-- ==== Sys2Proof/Machine/Flags.lean ====
section
/-!
DEFINITION. Sys2Proof/Machine/Flags.lean: IEEE 754 arithmetic of FP32 and BF16 on exact values, with the exception flags
and the five rounding modes (R107, R113, R116, R124, R125, R254 to R257).
-/

namespace Sys2Proof.Machine

/-! Flags of R124: NX, UF, OF, DZ, NV in bits 0 to 4. -/
def flNX : BitVec 5 := 1
def flUF : BitVec 5 := 2
def flOF : BitVec 5 := 4
def flDZ : BitVec 5 := 8
def flNV : BitVec 5 := 16

/-- A finite real number (-1)^neg * mag * 2^exp; with `sticky`, a number between that and the next magnitude
mag + 1, ends excluded. Zero keeps its sign. -/
structure Dy where
  neg : Bool := false
  mag : Nat := 0
  exp : Int := 0
  sticky : Bool := false
deriving DecidableEq, Repr, Inhabited

/-- An extended value: NaN (signalling or not), an infinity, or a finite number. -/
inductive Val where
  | nan (sig : Bool)
  | inf (neg : Bool)
  | fin (d : Dy)
deriving DecidableEq, Repr, Inhabited

/-- The two IEEE formats: fraction bits 23 (FP32) or 7 (BF16), both with 8 exponent bits (R107). -/
inductive Fmt where
  | f32 | bf16
deriving DecidableEq, Repr, Inhabited

def Fmt.frac : Fmt → Nat
  | .f32 => 23
  | .bf16 => 7

def Fmt.width : Fmt → Nat
  | .f32 => 32
  | .bf16 => 16

/-- The canonical NaN (R116). -/
def Fmt.nan : Fmt → Nat
  | .f32 => 0x7FC00000
  | .bf16 => 0x7FC0

/-- The infinity of a sign. -/
def Fmt.inf (f : Fmt) (neg : Bool) : Nat := 255 * 2 ^ f.frac + bnat neg * 2 ^ (f.width - 1)

/-- The exact value of an encoding. -/
def Fmt.value (f : Fmt) (b : Nat) : Val :=
  let frac := b % 2 ^ f.frac
  let e := b / 2 ^ f.frac % 256
  let neg := b / 2 ^ (f.width - 1) % 2 == 1
  if e = 255 then (if frac = 0 then .inf neg else .nan (decide (frac < 2 ^ (f.frac - 1))))
  else if e = 0 then .fin { neg := neg, mag := frac, exp := -126 - f.frac }
  else .fin { neg := neg, mag := 2 ^ f.frac + frac, exp := (e : Int) - 127 - f.frac }

/-- The number of bits of a magnitude. -/
def bitLen (n : Nat) : Nat := if n = 0 then 0 else Nat.log2 n + 1

/-- Rounding modes of R113. -/
inductive Rm where
  | rne | rtz | rup | rdn | sr
deriving DecidableEq, Repr, Inhabited

def Rm.of (n : Nat) : Rm :=
  match n with
  | 1 => .rtz
  | 2 => .rup
  | 3 => .rdn
  | 4 => .sr
  | _ => .rne

/-- Whether the magnitude n + rem / 2^sh (and a little more when sticky) of a number of the given sign rounds to n + 1
rather than to n; u is the draw of stochastic rounding (R113). -/
def roundsUp (rm : Rm) (u : Nat) (neg : Bool) (n rem sh : Nat) (sticky : Bool) : Bool :=
  let inexact := rem != 0 || sticky
  match rm with
  | .rne => decide (2 ^ sh < 2 * rem) || (2 * rem == 2 ^ sh && sh != 0 && (sticky || n % 2 == 1))
  | .rtz => false
  | .rup => inexact && !neg
  | .rdn => inexact && neg
  | .sr =>
    -- the fraction scaled by 2^32: whole part and whether anything is left
    let f := rem * 2 ^ 32 / 2 ^ sh
    let more := rem * 2 ^ 32 % 2 ^ sh != 0 || sticky
    if !inexact then false
    else if neg then decide (2 ^ 32 ≤ u + f) else (decide (u < f) || (u == f && more))

/-- A finite number brought to the grid of 2^q: the rounded count of units and whether it is inexact. -/
def onGrid (rm : Rm) (u : Nat) (d : Dy) (q : Int) : Nat × Bool :=
  if q ≤ d.exp then (d.mag * 2 ^ (d.exp - q).toNat, d.sticky)
  else
    let sh := (q - d.exp).toNat
    let n := d.mag / 2 ^ sh
    let rem := d.mag % 2 ^ sh
    (n + bnat (roundsUp rm u d.neg n rem sh d.sticky), rem != 0 || d.sticky)

/-- The sign that RNE, and the direction modes, give an overflowing number: infinity or the largest finite value. -/
def Fmt.overflow (f : Fmt) (rm : Rm) (neg : Bool) : Nat :=
  let big := f.inf neg - 1
  match rm with
  | .rtz => big
  | .rup => if neg then big else f.inf neg
  | .rdn => if neg then f.inf neg else big
  | _ => f.inf neg

/-- A finite value rounded once into a format: encoding and flags (R113, R125). A sticky value must carry at least
fraction + 36 significant bits. -/
def Fmt.round (f : Fmt) (rm : Rm) (u : Nat) (d : Dy) : Nat × BitVec 5 :=
  let sgn := bnat d.neg * 2 ^ (f.width - 1)
  if d.mag = 0 then (sgn, 0)
  else
    let e : Int := d.exp + (bitLen d.mag : Int) - 1
    let q : Int := max e (-126) - f.frac
    -- beyond the largest finite value stochastic rounding gives what RNE gives
    let (big, _) := onGrid .rtz 0 { d with sticky := false } (127 - f.frac : Int)
    let above := decide (2 ^ (f.frac + 1) - 1 < big) || (big == 2 ^ (f.frac + 1) - 1 && (onGrid .rtz 0 d (127 - f.frac : Int)).2)
    let rm' := if rm = .sr && above then .rne else rm
    let (n, inexact) := onGrid rm' u d q
    if decide ((127 : Int) < q + (bitLen n : Int) - 1) then (f.overflow rm' d.neg, flOF ||| flNX)
    else
      -- tiny after rounding: rounded as if the exponent were unbounded, below 2^-126
      let tiny := decide (e < -126) &&
        (let (n0, _) := onGrid rm' u d (e - f.frac); !(decide (e = -127) && n0 == 2 ^ (f.frac + 1)))
      let enc := if n < 2 ^ f.frac then n else (q + 126 + f.frac).toNat * 2 ^ f.frac + n
      (sgn + enc, (if inexact then flNX else 0) ||| (if inexact && tiny then flUF else 0))

/-- Any value rounded into a format. -/
def Fmt.pack (f : Fmt) (rm : Rm) (u : Nat) (v : Val) : Nat × BitVec 5 :=
  match v with
  | .nan _ => (f.nan, 0)
  | .inf neg => (f.inf neg, 0)
  | .fin d => f.round rm u d

/-- Zero of a sign. -/
def Dy.zero (neg : Bool) : Dy := { neg := neg }

/-- The exact sum of two finite numbers (no sticky operand); an exact zero of operands with different signs is +0, or -0 in
round-down mode. -/
def Dy.add (rm : Rm) (a b : Dy) : Dy :=
  let e := min a.exp b.exp
  let x : Int := (if a.neg then -1 else 1) * (a.mag * 2 ^ (a.exp - e).toNat : Nat)
  let y : Int := (if b.neg then -1 else 1) * (b.mag * 2 ^ (b.exp - e).toNat : Nat)
  if x + y = 0 then Dy.zero (if a.neg == b.neg && a.mag == 0 && b.mag == 0 then a.neg else decide (rm = .rdn))
  else { neg := decide (x + y < 0), mag := (x + y).natAbs, exp := e }

/-- The exact product. -/
def Dy.mul (a b : Dy) : Dy := { neg := a.neg != b.neg, mag := a.mag * b.mag, exp := a.exp + b.exp }

/-- The quotient to 80 bits and a sticky bit; b is not zero. -/
def Dy.div (a b : Dy) : Dy :=
  let k := 80 + bitLen b.mag - bitLen a.mag
  let n := a.mag * 2 ^ k
  { neg := a.neg != b.neg, mag := n / b.mag, exp := a.exp - b.exp - k, sticky := n % b.mag != 0 }

/-- Integer square root by bits, from a given bit downward. -/
def isqrtFrom : Nat → Nat → Nat → Nat
  | 0, _, r => r
  | k + 1, n, r => let t := r + 2 ^ k; isqrtFrom k n (if t * t ≤ n then t else r)

/-- The integer square root. -/
def isqrt (n : Nat) : Nat := isqrtFrom (bitLen n / 2 + 1) n 0

/-- The square root to at least 80 bits and a sticky bit, of a number that is not negative. -/
def Dy.sqrt (a : Dy) : Dy :=
  let k : Nat := 180 + (if (a.exp - 180) % 2 = 0 then 0 else 1)
  let n := a.mag * 2 ^ k
  let r := isqrt n
  { neg := false, mag := r, exp := (a.exp - k) / 2, sticky := r * r != n }

def Val.isNan : Val → Bool
  | .nan _ => true
  | _ => false

def Val.isSig : Val → Bool
  | .nan s => s
  | _ => false

def Val.isZero : Val → Bool
  | .fin d => d.mag == 0 && !d.sticky
  | _ => false

def Val.negate : Val → Val
  | .nan s => .nan s
  | .inf n => .inf (!n)
  | .fin d => .fin { d with neg := !d.neg }

def Val.neg? : Val → Bool
  | .nan _ => false
  | .inf n => n
  | .fin d => d.neg

/-- NV of a signalling NaN among operands (R116). -/
def sigFlag (vs : List Val) : BitVec 5 := if vs.any Val.isSig then flNV else 0

/-- Sum of two values: exact value and the invalid flag. -/
def Val.add (rm : Rm) (a b : Val) : Val × BitVec 5 :=
  match a, b with
  | .nan _, _ => (.nan false, sigFlag [a, b])
  | _, .nan _ => (.nan false, sigFlag [a, b])
  | .inf x, .inf y => if x = y then (.inf x, 0) else (.nan false, flNV)
  | .inf x, .fin _ => (.inf x, 0)
  | .fin _, .inf y => (.inf y, 0)
  | .fin x, .fin y => (.fin (x.add rm y), 0)

/-- Product of two values. -/
def Val.mul (a b : Val) : Val × BitVec 5 :=
  match a, b with
  | .nan _, _ => (.nan false, sigFlag [a, b])
  | _, .nan _ => (.nan false, sigFlag [a, b])
  | .inf x, .inf y => (.inf (x != y), 0)
  | .inf x, .fin y => if y.mag = 0 then (.nan false, flNV) else (.inf (x != y.neg), 0)
  | .fin x, .inf y => if x.mag = 0 then (.nan false, flNV) else (.inf (x.neg != y), 0)
  | .fin x, .fin y => (.fin (x.mul y), 0)

/-- Quotient of two values (R254). -/
def Val.div (a b : Val) : Val × BitVec 5 :=
  match a, b with
  | .nan _, _ => (.nan false, sigFlag [a, b])
  | _, .nan _ => (.nan false, sigFlag [a, b])
  | .inf _, .inf _ => (.nan false, flNV)
  | .inf x, .fin y => (.inf (x != y.neg), 0)
  | .fin x, .inf y => (.fin (Dy.zero (x.neg != y)), 0)
  | .fin x, .fin y =>
    if y.mag = 0 then (if x.mag = 0 then (.nan false, flNV) else (.inf (x.neg != y.neg), flDZ))
    else if x.mag = 0 then (.fin (Dy.zero (x.neg != y.neg)), 0)
    else (.fin (x.div y), 0)

/-- Square root of a value (R254). -/
def Val.sqrt (a : Val) : Val × BitVec 5 :=
  match a with
  | .nan _ => (.nan false, sigFlag [a])
  | .inf x => if x then (.nan false, flNV) else (.inf false, 0)
  | .fin x => if x.mag = 0 then (.fin x, 0) else if x.neg then (.nan false, flNV) else (.fin x.sqrt, 0)

/-- b * c + a with the product exact; a product 0 * infinity raises NV whatever the addend (R254). -/
def Val.fma (rm : Rm) (b c a : Val) : Val × BitVec 5 :=
  let (p, pf) := b.mul c
  let (r, rf) := p.add rm a
  (r, pf ||| rf ||| sigFlag [a])

/-- The exact value rounded, with the flags of the operation and of the rounding. -/
def Fmt.result (f : Fmt) (rm : Rm) (u : Nat) (x : Val × BitVec 5) : Nat × BitVec 5 :=
  let (b, fl) := f.pack rm u x.1
  (b, x.2 ||| fl)

def Fmt.add (f : Fmt) (rm : Rm) (u a b : Nat) : Nat × BitVec 5 := f.result rm u ((f.value a).add rm (f.value b))
def Fmt.sub (f : Fmt) (rm : Rm) (u a b : Nat) : Nat × BitVec 5 :=
  f.result rm u (((f.value a).add rm (f.value b).negate))
def Fmt.mul (f : Fmt) (rm : Rm) (u a b : Nat) : Nat × BitVec 5 := f.result rm u ((f.value a).mul (f.value b))
def Fmt.div (f : Fmt) (rm : Rm) (u a b : Nat) : Nat × BitVec 5 := f.result rm u ((f.value a).div (f.value b))
def Fmt.sqrt (f : Fmt) (rm : Rm) (u a : Nat) : Nat × BitVec 5 := f.result rm u (f.value a).sqrt
def Fmt.fma (f : Fmt) (rm : Rm) (u b c a : Nat) : Nat × BitVec 5 :=
  f.result rm u (Val.fma rm (f.value b) (f.value c) (f.value a))

/-- Order of two numbers that are not NaN: negative, zero or positive as the first is below, equal to or above the second;
the two zeros are equal. -/
def Dy.cmp (a b : Dy) : Int :=
  let e := min a.exp b.exp
  let x : Int := (if a.neg then -1 else 1) * (a.mag * 2 ^ (a.exp - e).toNat : Nat)
  let y : Int := (if b.neg then -1 else 1) * (b.mag * 2 ^ (b.exp - e).toNat : Nat)
  x - y

def Val.cmp (a b : Val) : Int :=
  match a, b with
  | .inf x, .inf y => if x = y then 0 else if x then -1 else 1
  | .inf x, _ => if x then -1 else 1
  | _, .inf y => if y then 1 else -1
  | .fin x, .fin y => x.cmp y
  | _, _ => 0

/-- FMIN (`big` false) and FMAX of R255: an operand bit for bit, or the canonical NaN; -0 lies below +0. -/
def Fmt.minmax (f : Fmt) (big : Bool) (a b : Nat) : Nat × BitVec 5 :=
  let x := f.value a
  let y := f.value b
  let fl := sigFlag [x, y]
  if x.isNan && y.isNan then (f.nan, fl)
  else if x.isNan then (b, fl)
  else if y.isNan then (a, fl)
  else
    let c := x.cmp y
    let aLess := decide (c < 0) || (c == 0 && x.neg? && !y.neg?)
    (if aLess != big then a else b, fl)

/-- Conditions of FCMP (R256): 0 EQ, 1 LT, 2 LE, 3 UN, 4 NE. -/
def Fmt.compare (f : Fmt) (cond a b : Nat) : Bool × BitVec 5 :=
  let x := f.value a
  let y := f.value b
  let un := x.isNan || y.isNan
  let c := x.cmp y
  match cond with
  | 0 => (!un && c == 0, sigFlag [x, y])
  | 1 => (!un && decide (c < 0), if un then flNV else 0)
  | 2 => (!un && decide (c ≤ 0), if un then flNV else 0)
  | 3 => (un, sigFlag [x, y])
  | _ => (un || c != 0, sigFlag [x, y])

/-- An integer as an exact value. -/
def intVal (v : Int) : Val := .fin { neg := decide (v < 0), mag := v.natAbs }

/-- A value rounded to an integer in the range lo to hi, saturating; NaN gives 0 (R115, R257). -/
def Val.toInt (rm : Rm) (u : Nat) (lo hi : Int) (v : Val) : Int × BitVec 5 :=
  match v with
  | .nan _ => (0, flNV)
  | .inf n => (if n then lo else hi, flNV)
  | .fin d =>
    let (n, inexact) := onGrid rm u d 0
    let r : Int := if d.neg then -(n : Int) else n
    if r < lo then (lo, flNV) else if hi < r then (hi, flNV) else (r, if inexact then flNX else 0)

end Sys2Proof.Machine
end

