-- ==== Sys2Proof/Machine/Translate.lean ====
section
/-!
DEFINITION. Sys2Proof/Machine/Translate.lean: from a virtual address to a page or a peer entry, or a fault (R13 to R31,
R84, R397, R398): the walk, the port-group TLB, and the micro-TLBs of cores and copy engines.
-/

namespace Sys2Proof.Machine

/-- A translation fault: code, level and kind of R24 and R37. -/
structure XFault where
  code : Nat := 0
  level : Nat := 15
  kind : Nat := 3
deriving DecidableEq, Repr, Inhabited

/-- Access codes of FLTINFO.ACC (R37): 0 read, 1 write, 2 read-modify-write, 3 non-returning reduction, 4 execute. -/
abbrev Access := Nat

/-- FLTINFO for a fault of an access (R37). -/
def fltInfo (f : XFault) (cls : Nat) (acc : Access) (asid : Nat) (va : Word) : Word :=
  word ((if f.kind = 2 then field (bits va 46 39) 48 else 0) + field f.code 32 + field f.level 28 + field cls 25 +
    field acc 22 + field f.kind 20 + asid)

/-- ASID table words of an ASID (R13). -/
def Die.asidWords (d : Die) (asid : Nat) : Word × Word := d.asids.getD asid (0, 0)

/-- The paddock whose ranges bind an ASID: its PAD, or for PF = 1 the operator paddock (R398, R407). -/
def Die.ownerOf (d : Die) (asid : Nat) : Option Nat :=
  let w := (d.asidWords asid).1
  if bit w 3 then d.operator else some (bits w 7 4)

/-- Bytes [a, a + n) of HBM lie in the HBM window of the ASID's paddock; a physical-function ASID of a die without an
operator paddock has no window to lie in and passes (R23, R398). -/
def Die.inWindow (d : Die) (asid a n : Nat) : Bool :=
  match (d.ownerOf asid).bind d.pads.find? with
  | some p => decide (p.hbmB * 2 ^ 30 ≤ a) && decide (a + n ≤ (p.hbmB + p.hbmN) * 2 ^ 30)
  | none => bit (d.asidWords asid).1 3 && d.operator.isNone

/-- The key identifier lies in the range of the ASID's owner and is installed (R21, R407). -/
def Die.keyOk (d : Die) (asid k : Nat) : Bool :=
  let inRange :=
    if bit (d.asidWords asid).1 3 then decide (1 ≤ k) && decide (k ≤ 15)
    else match (d.ownerOf asid).bind d.pads.find? with
      | some p => decide (p.keyB ≤ k) && decide (k < p.keyB + p.keyN)
      | none => false
  inRange && (d.keys.find? k).isSome

/-- A vault page lies within tenant data of one vault of the ASID's paddock (R20, R84, R397). -/
def Die.vaultPageOk (d : Die) (asid pa size : Nat) : Bool :=
  match (d.ownerOf asid).bind d.pads.find? with
  | some p => decide (pa + size ≤ 2 ^ 31) && bit p.vreg (pa / 2 ^ 25) && decide (pa % 2 ^ 25 + size ≤ 0xC00000)
  | none => false

/-- An 8 B table entry read under a key identifier; none where a word of it holds an uncorrectable error (R23, R41). -/
def State.readEntry (s : State) (die : Nat) (key : BitVec 12) (pa : Nat) : Option Word :=
  if s.eccHit (hbmBase die + pa) 8 then none
  else some (word (bytesNat (s.readAs ((s.keyOf die key).getD 0) (hbmBase die + pa) 8)))

/-- The index of an address in the table of a level (R16). -/
def levelIndex (level : Nat) (va : Word) : Nat :=
  match level with
  | 0 => bits va 47 39
  | 1 => bits va 38 30
  | 2 => bits va 29 21
  | _ => bits va 20 12

/-- Entry formats that R18 accepts at a level. -/
def entryOk (level : Nat) (e : Word) : Bool :=
  let table := bits e 63 52 == 0 && bits e 11 2 == 0
  let leaf := bits e 11 10 == 0 && decide (bits e 9 8 < 2)
  if bit e 1 then
    match level with
    | 0 => false
    | 1 => leaf && bits e 3 2 == 3 && !bit e 7 && bits e 29 12 == 0
    | 2 => leaf && bits e 3 2 == 2 && !bit e 7 && bits e 20 12 == 0
    | _ => leaf && ((bits e 3 2 == 0 && !bit e 7) || (bits e 3 2 == 1 && bit e 7))
  else decide (level < 3) && table

/-- The sixteen entries of a 64 KiB group agree (R19). -/
def groupAgrees (es : List Word) : Bool :=
  match es with
  | [] => false
  | e0 :: _ =>
    bits e0 15 12 == 0 &&
      (List.range 16).all fun j =>
        let e := es.getD j 0
        bit e 0 && entryOk 3 e && bits e 3 2 == 1 && bit e 7 && bits e 63 52 == bits e0 63 52 &&
          bits e 9 8 == bits e0 9 8 && bits e 6 4 == bits e0 6 4 && bits e 51 12 == bits e0 51 12 + j

/-- The permission that an access needs of a leaf (R22). -/
def permOk (acc : Access) (x w rd : Bool) : Bool :=
  match acc with
  | 0 => rd
  | 1 => w
  | 2 => rd && w
  | 3 => w
  | _ => x

/-- The last checks of the walk at a leaf (R21 to R23): page range, key, permission. -/
def State.leafAt (s : State) (die asid : Nat) (va : Word) (acc : Access) (level : Nat) (e : Word) (base : Nat) :
    Except XFault TlbEntry :=
  let d := s.dieAt die
  let kind := bits e 9 8
  let size := match level with
    | 1 => 30
    | 2 => 21
    | _ => if bit e 7 then 16 else 12
  let fault (c : Nat) : XFault := { code := c, level := level, kind := kind }
  let inRange := if kind = 0 then decide (base + 2 ^ size ≤ 2 ^ 38) && d.inWindow asid base (2 ^ size)
    else d.vaultPageOk asid base (2 ^ size)
  if !inRange then .error (fault 0x06)
  else if !d.keyOk asid (bits e 63 52) then .error (fault 0x07)
  else if !permOk acc (bit e 6) (bit e 5) (bit e 4) then .error (fault 0x08)
  else .ok
    { asid := BitVec.ofNat 11 asid, size := size, page := va.toNat / 2 ^ size, pa := base, kind := BitVec.ofNat 2 kind,
      key := BitVec.ofNat 12 (bits e 63 52), x := bit e 6, w := bit e 5, rd := bit e 4, level := BitVec.ofNat 4 level }

/-- Base-2 logarithm of the span of a table entry of level 0 to 2 (R16). -/
def spanOf (level : Nat) : Nat := 39 - 9 * level

/-- What a walk has used: the table entries on its path, and the address ranges that it read. -/
structure WalkLog where
  path : List WalkEntry := []
  reads : List (Nat × Nat) := []
deriving DecidableEq, Repr, Inhabited

/-- The table entry that a walk cache holds for an address at a level (R25). -/
def walkHeld (cache : List WalkEntry) (asid level : Nat) (va : Word) : Option Word :=
  (cache.find? fun x => !x.dead && x.asid.toNat == asid && x.level == level && x.page == va.toNat / 2 ^ spanOf level).map (·.e)

/-- The walk from a level on, with the table frame found so far (R23). An entry that the walk cache holds is used as held (R25).
All the reads of one walk, the 128 B group of R19 among them, fall in one step, between any two stores of other agents (log 115). -/
def State.walkFrom (s : State) (die asid : Nat) (va : Word) (acc : Access) (tkey : BitVec 12) (cache : List WalkEntry) :
    Nat → Nat → Nat → WalkLog → Except XFault TlbEntry × WalkLog
  | 0, _, _, w => (.error { code := 0x04, level := 3, kind := 0 }, w)
  | fuel + 1, level, frame, w =>
    let at_ := frame * 4096 + levelIndex level va * 8
    let kept := walkHeld cache asid level va
    let w := if kept.isSome then w else { w with reads := w.reads ++ [(at_, 8)] }
    match (match kept with
        | some e => some e
        | none => s.readEntry die tkey at_) with
    | none => (.error { code := 0x09, level := level, kind := 3 }, w)
    | some e =>
      let fault (c : Nat) : XFault := { code := c, level := level, kind := bits e 9 8 }
      if !bit e 0 then (.error (fault 0x03), w)
      else if !entryOk level e then (.error (fault 0x04), w)
      else if !bit e 1 then
        let a := bits e 51 12 * 4096
        if decide (2 ^ 38 < a + 4096) || !(s.dieAt die).inWindow asid a 4096 then (.error (fault 0x06), w)
        else
          let x : WalkEntry := { asid := BitVec.ofNat 11 asid, level := level, page := va.toNat / 2 ^ spanOf level, e := e }
          State.walkFrom s die asid va acc tkey cache fuel (level + 1) (bits e 51 12) { w with path := w.path ++ [x] }
      else if level = 3 ∧ bit e 7 = true then
        let k := levelIndex 3 va / 16 * 16
        let es := (List.range 16).map fun j => s.readEntry die tkey (frame * 4096 + (k + j) * 8)
        let w := { w with reads := w.reads ++ [(frame * 4096 + k * 8, 128)] }
        if es.any (·.isNone) then (.error { code := 0x09, level := 3, kind := 3 }, w)
        else if !groupAgrees (es.map (·.getD 0)) then (.error (fault 0x05), w)
        else (s.leafAt die asid va acc 3 e (bits ((es.headD none).getD 0) 51 12 * 4096), w)
      else (s.leafAt die asid va acc level e (bits e 51 12 * 4096), w)

/-- The walk of a private-half address (R23), after the check of ADDR. -/
def State.walk (s : State) (die asid : Nat) (va : Word) (acc : Access) (cache : List WalkEntry) :
    Except XFault TlbEntry × WalkLog :=
  let d := s.dieAt die
  let w := (d.asidWords asid).1
  if !bit w 0 then (.error { code := 0x02 }, {})
  else if !d.inWindow asid (bits w 51 12 * 4096) 4096 then (.error { code := 0x06, level := 0 }, {})
  else s.walkFrom die asid va acc (BitVec.ofNat 12 (bits w 63 52)) cache 4 0 (bits w 51 12) {}

/-- The peer entry of a peer-window address as the importer's holder reads it (R28, R30): ASID, RANGE, the entry itself.
The checks of the entry are those of `peerCheck`. -/
def State.readPeer (s : State) (die asid : Nat) (va : Word) : Except XFault TlbEntry :=
  let d := s.dieAt die
  let (w0, w1) := d.asidWords asid
  let tkey := BitVec.ofNat 12 (bits w0 63 52)
  let base := bits w1 51 13 * 8192
  let idx := bits va 46 39
  if !bit w0 0 then .error { code := 0x02, kind := 2 }
  else if bit w1 0 && !d.inWindow asid base 8192 then .error { code := 0x06, kind := 2 }
  else if !bit w1 0 then .error { code := 0x0A, kind := 2 }
  else
    match s.readEntry die tkey (base + idx * 32), s.readEntry die tkey (base + idx * 32 + 8),
        s.readEntry die tkey (base + idx * 32 + 16), s.readEntry die tkey (base + idx * 32 + 24) with
    | some p0, some p1, some p2, some p3 =>
      if bits p0 21 7 != 0 || bits p0 3 2 != 0 || bits p1 63 40 != 0 || p2 != 0 || p3 != 0 then
        .error { code := 0x0A, kind := 2 }
      else .ok { asid := BitVec.ofNat 11 asid, size := 39, page := va.toNat / 2 ^ 39, kind := 2, peer := true, w0 := p0, w1 := p1 }
    | _, _, _, _ => .error { code := 0x09, kind := 2 }

/-- The range that the reading of a peer entry touches: none where no entry is read (R28, R30). -/
def State.peerReads (s : State) (die asid : Nat) (va : Word) : WalkLog :=
  let d := s.dieAt die
  let (w0, w1) := d.asidWords asid
  let base := bits w1 51 13 * 8192
  if bit w0 0 && bit w1 0 && d.inWindow asid base 8192 then { reads := [(base + bits va 46 39 * 32, 32)] } else {}

/-- The checks of a peer entry for an access of n bytes (R28, R30): PEERIDX, PEERREVOKED, PEERRIGHTS. -/
def peerCheck (e : TlbEntry) (va : Word) (n : Nat) (acc : Access) : Option XFault :=
  let fault (c : Nat) : Option XFault := some { code := c, kind := 2 }
  if bits e.w0 1 0 == 0 || bits e.w0 1 0 == 3 then fault 0x0A
  else if decide (bits e.w1 39 0 < bits va 38 0 + n) then fault 0x0A
  else if bits e.w0 1 0 == 2 then fault 0x0B
  else
    let a := bit e.w0 6
    let w := bit e.w0 5
    let rd := bit e.w0 4
    let ok := match acc with
      | 0 => rd
      | 1 => w
      | 2 => a && rd && w
      | 3 => a && w
      | _ => false
    if ok then none else fault 0x0C

/-- An entry of a holder that serves an address of an ASID: not marked unusable (R25, R33). -/
def tlbFind (l : List TlbEntry) (asid : Nat) (va : Word) : Option TlbEntry :=
  l.find? fun e => !e.dead && e.asid.toNat == asid && e.page == va.toNat / 2 ^ e.size

/-- An entry put into a holder of the given capacity; the entry held longest goes when it is full. -/
def tlbPut (l : List TlbEntry) (cap : Nat) (e : TlbEntry) : List TlbEntry := (e :: l).take cap

/-- An entry serves an access of n bytes, or lacks what it needs (R22, R30, R37). -/
def entryServes (e : TlbEntry) (va : Word) (n : Nat) (acc : Access) : Except XFault TlbEntry :=
  if e.peer then
    match peerCheck e va n acc with
    | some f => .error f
    | none => .ok e
  else if permOk acc e.x e.w e.rd then .ok e
  else .error { code := 0x08, level := e.level.toNat, kind := e.kind.toNat }

/-- The address checks that come before any translation (R15, R23): bits 63:48, and an access across 2^47 or past 2^48. -/
def addrFault (va : Word) (n : Nat) : Option XFault :=
  if decide (2 ^ 48 < va.toNat + n) || decide (2 ^ 48 ≤ va.toNat) ||
      (decide (va.toNat < 2 ^ 47) && decide (2 ^ 47 < va.toNat + n)) then some { code := 0x01 } else none

/-- The address checks of an access or a tile row whose bytes lie in several ranges (R15): none of them fails, and all lie in one
half. -/
def rangesFault (runs : List (Nat × Nat)) : Option XFault :=
  match runs.findSome? fun r => addrFault (word r.1) r.2 with
  | some f => some f
  | none => if (runs.any fun r => decide (r.1 < 2 ^ 47)) && runs.any fun r => decide (2 ^ 47 ≤ r.1) then some { code := 0x01 } else none

/-- The port group of an address (R20). -/
def pgOf (va : Word) : Nat := bits va 11 8

/-- Correctable errors that a walk has read are corrected and counted (R100). -/
def State.walkCorrect (s : State) (die : Nat) (w : WalkLog) : State :=
  w.reads.foldl (fun s r => s.eccCorrect die (hbmBase die + r.1) r.2) s

/-- A walk cache with the table entries of a walk's path put in, those that it holds already left as they are (R25). -/
def keepPath (cache : List WalkEntry) (path : List WalkEntry) : List WalkEntry :=
  path.foldl (fun l x => if l.contains x then l else x :: l) cache

/-- The port group named by an address answers from its TLB or walks, and holds what a translation that did not fail has found
(R25). -/
def State.pgTranslate (s : State) (die pg asid : Nat) (va : Word) (n : Nat) (acc : Access) : Except XFault TlbEntry × State :=
  match tlbFind (s.pgAt die pg).tlb asid va with
  | some e => (entryServes e va n acc, s)
  | none =>
    match (if bit va 47 then (s.readPeer die asid va, s.peerReads die asid va)
        else s.walk die asid va acc (s.pgAt die pg).walks) with
    | (.error f, w) => (.error f, s.walkCorrect die w)
    | (.ok e, w) =>
      let s := s.walkCorrect die w
      match entryServes e va n acc with
      | .error f => (.error f, s)
      | .ok e => (.ok e, s.modPg die pg fun p => { p with tlb := tlbPut p.tlb 2048 e, walks := keepPath p.walks w.path })

/-- A core's micro-TLB: a held entry, or a fill request to the port group (R25). -/
def State.coreTranslate (s : State) (die core asid : Nat) (va : Word) (n : Nat) (acc : Access) : Except XFault TlbEntry × State :=
  match tlbFind (s.coreOf (coreKey die core)).utlb asid va with
  | some e => (entryServes e va n acc, s)
  | none =>
    match s.pgTranslate die (pgOf va) asid va n acc with
    | (.error f, s) => (.error f, s)
    | (.ok e, s) => (.ok e, s.modCore (coreKey die core) fun c => { c with utlb := tlbPut c.utlb 16 e })

/-- A copy engine's micro-TLB (R25). -/
def State.engTranslate (s : State) (die str asid : Nat) (va : Word) (n : Nat) (acc : Access) : Except XFault TlbEntry × State :=
  match tlbFind (s.strAt die str).etlb asid va with
  | some e => (entryServes e va n acc, s)
  | none =>
    match s.pgTranslate die (pgOf va) asid va n acc with
    | (.error f, s) => (.error f, s)
    | (.ok e, s) => (.ok e, s.modStr die str fun x => { x with etlb := tlbPut x.etlb 32 e })

end Sys2Proof.Machine
end

