-- ==== Sys2Proof/Machine/Home.lean ====
section
/-!
DEFINITION. Sys2Proof/Machine/Home.lean: accesses at their home (R136): tokens (R70 to R75, R212), race records (R143 to
R148), errors (R100, R101), folds (R91), and the performing of a CORE or engine access.
-/

namespace Sys2Proof.Machine

/-! ## Tokens -/

/-- The sum of a share over the live paddocks of a tenant on a die (R70, R212, R394). -/
def Die.share (d : Die) (f : Paddock → Nat) (ten : Nat) : Nat :=
  ((d.pads.filter fun p => p.2.ten == ten).map fun p => f p.2).foldl (· + ·) 0

/-- The tenants present on a die, ascending. -/
def Die.tenants (d : Die) : List Nat := d.pads.foldl (fun l p => insertNat l p.2.ten) []

def Tokens.bucket (t : Tokens) (ten : Nat) : Bucket := t.buckets.getD ten {}
def Tokens.setBucket (t : Tokens) (ten : Nat) (b : Bucket) : Tokens := { t with buckets := t.buckets.set ten b }
def Tokens.debt (t : Tokens) (b l : Nat) : Nat := t.debts.getD (256 * b + l) 0

/-- The lender of R72: the tenant with the largest positive bucket among those without pending demand, ties to the lower
index. -/
def Tokens.lender (t : Tokens) (tens : List Nat) (self : Nat) : Option Nat :=
  tens.foldl (fun best l =>
    let b := t.bucket l
    if l != self && decide (0 < b.b) && !b.demand then
      match best with
      | none => some l
      | some k => if (t.bucket k).b < b.b then some l else best
    else best) none

/-- One token drawn or borrowed for a tenant (R71, R72): the new tokens, and whether one was to be had. -/
def Tokens.take (t : Tokens) (tens : List Nat) (share : Nat → Nat) (ten : Nat) : Tokens × Bool :=
  let b := t.bucket ten
  if 0 < b.b then (t.setBucket ten { b with b := b.b - 1 }, true)
  else if 0 < t.pool then
    ({ t.setBucket ten { b with borrowed := b.borrowed + 1 } with pool := t.pool - 1 }, true)
  else
    match t.lender tens ten with
    | none => (t, false)
    | some l =>
      let t := t.setBucket ten { b with borrowed := b.borrowed + 1 }
      let lb := t.bucket l
      let t := t.setBucket l { lb with b := lb.b - 1 }
      let owed := (tens.map fun x => t.debt x l).foldl (· + ·) 0
      if owed < share l then ({ t with debts := t.debts.set (256 * ten + l) (t.debt ten l + 1) }, true) else (t, true)

/-- A token could be had by a tenant now (R71). -/
def Tokens.canTake (t : Tokens) (tens : List Nat) (ten : Nat) : Bool :=
  decide (0 < (t.bucket ten).b) || decide (0 < t.pool) || (t.lender tens ten).isSome

/-- One lender's collection at a refill (R73). -/
def Tokens.collect (t : Tokens) (tens : List Nat) (l : Nat) : Tokens :=
  let lb := t.bucket l
  if lb.demand || lb.wasDemand then
    tens.foldl (fun t b =>
      let x : Nat := min (t.debt b l) (max (t.bucket b).b 0).toNat
      let t := t.setBucket b { t.bucket b with b := (t.bucket b).b - x }
      let t := t.setBucket l { t.bucket l with b := (t.bucket l).b + x }
      { t with debts := t.debts.erase (256 * b + l) }) t
  else t

/-- A tenant's share as the last refill found it; for a tenant that has become present since, its share now (R73). -/
def Tokens.shareOf (t : Tokens) (live : Nat → Nat) (ten : Nat) : Nat := t.shares.getD ten (live ten)

/-- The refill of R73: buckets to their shares less deficits, the pool, then repayments in ascending lender index. -/
def Tokens.refill (t : Tokens) (tens : List Nat) (share : Nat → Nat) (total : Nat) (period : Nat) : Tokens :=
  let t := tens.foldl (fun t ten =>
    let b := t.bucket ten
    t.setBucket ten { b with b := (share ten : Int) - b.deficit, deficit := 0, borrowed := 0 }) t
  let t := { t with pool := (total : Int) - ((tens.map share).foldl (· + ·) 0 : Nat), period := period
                    shares := tens.map fun ten => (ten, share ten) }
  let t := tens.foldl (fun t l => t.collect tens l) t
  tens.foldl (fun t ten => t.setBucket ten { t.bucket ten with wasDemand := (t.bucket ten).demand }) t

/-- The usage of a paddock advanced (R402). -/
def State.modUsage (s : State) (die pad : Nat) (f : Usage → Usage) : State :=
  match s.pad? die pad with
  | some p => s.modDie die fun d => { d with pads := d.pads.set pad { p with usage := f p.usage } }
  | none => s

/-! Fields of a handle (R29). -/

def Die.handle (d : Die) (h : Nat) : List Word := d.handles.getD h [0, 0, 0, 0]
def handleV (h : List Word) : Bool := bit (h.getD 0 0) 63
def handleRv (h : List Word) : Bool := bit (h.getD 0 0) 62
def handleRights (h : List Word) : Nat := bits (h.getD 0 0) 58 56
def handleGen (h : List Word) : BitVec 16 := BitVec.ofNat 16 (bits (h.getD 0 0) 55 40)
def handleAsid (h : List Word) : Nat := bits (h.getD 0 0) 10 0
def handleBase (h : List Word) : Nat := bits (h.getD 1 0) 47 12 * 4096
def handleLen (h : List Word) : Nat := bits (h.getD 2 0) 39 0

/-- The tenant for which a peer access through a handle counts at its exporter (R75). -/
def Die.handleTen (d : Die) (hnd : BitVec 12) : Nat :=
  (((d.ownerOf (handleAsid (d.handle hnd.toNat))).bind d.pads.find?).map (·.ten)).getD 0

/-- The handle that the first range of a peer access names. -/
def Req.exporter (r : Req) : PeerTo := r.tos.headD {}

/-- The tenant for which a peer access counts at its exporter (R75). -/
def Die.exporterTen (d : Die) (r : Req) : Nat := d.handleTen r.exporter.hnd

/-- A request counts at a port group of a die as a request of a tenant (R70, R75): one of the die's own, or a peer access to it. -/
def State.reqFor (s : State) (die pg ten : Nat) (r : Req) : Bool :=
  r.pg == pg &&
    if r.peer then r.exporter.pkg == s.pkg.number && r.exporter.die == die && (s.dieAt die).exporterTen r == ten
    else r.agent.die == die && r.ten.toNat == ten

/-- A posted reduction counts at its port group as a request of a tenant. -/
def State.postedFor (s : State) (die ten : Nat) (p : Posted) : Bool :=
  if p.peer then (s.dieAt die).handleTen p.exporter.hnd == ten else p.launch.ten.toNat == ten

/-- A tenant has pending demand at a port group: a request held at a network port or queued there (R70, R75). -/
def State.demandAt (s : State) (die pg ten : Nat) : Bool :=
  (s.strs.values.any fun x => x.held.any (s.reqFor die pg ten)) ||
    (s.pgAt die pg).queue.any (fun r => r.ten.toNat == ten) ||
    (s.pgAt die pg).posted.any (s.postedFor die ten) ||
    (s.pgAt die pg).peerIn.any fun r => (s.dieAt die).exporterTen r == ten

/-- The tokens of a port group with its tenants' demand as it stands now. -/
def State.tokensAt (s : State) (die pg : Nat) : Tokens :=
  (s.dieAt die).tenants.foldl (fun t ten =>
    let b := t.bucket ten
    let dem := s.demandAt die pg ten
    t.setBucket ten { b with demand := dem, wasDemand := b.wasDemand || dem }) (s.pgAt die pg).tokens

/-- The port group takes note of its tenants' demand (R70, R73). -/
def State.noteDemand (s : State) (die pg : Nat) : State :=
  s.modPg die pg fun p => { p with tokens := s.tokensAt die pg }

/-- The shares of a port group's tenants that its borrowing and its debts go by (R72, R73). -/
def State.hbmShare (s : State) (die pg : Nat) : Nat → Nat :=
  (s.pgAt die pg).tokens.shareOf ((s.dieAt die).share (·.hsh))

/-- One HBM access of 64 B served for a tenant (R70, R71): its token, or the deficit of a request that arrived before the
stop notice took effect, which is then due. -/
def State.serveHbm (s : State) (die pg ten pad : Nat) : State :=
  let d := s.dieAt die
  let p := { s.pgAt die pg with tokens := s.tokensAt die pg }
  let (t, ok) := p.tokens.take d.tenants (s.hbmShare die pg) ten
  let p := if ok then { p with tokens := t }
    else
      let b := p.tokens.bucket ten
      { p with
        tokens := p.tokens.setBucket ten { b with deficit := b.deficit + 1 }
        stopped := insertNat p.stopped ten }
  (s.setPg die pg p).modUsage die pad fun u => { u with hbm := u.hbm + 64, energy := u.energy + Config.accessEnergy false }

/-- Of two tenants that wait for a borrowed token, the first has the smaller (borrowed + 1) / S, ties to the lower index
(R72). -/
def Tokens.before (t : Tokens) (share : Nat → Nat) (a b : Nat) : Bool :=
  let x := ((t.bucket a).borrowed + 1) * share b
  let y := ((t.bucket b).borrowed + 1) * share a
  decide (x < y) || (x == y && decide (a ≤ b))

/-- A tenant's turn (R71, R72): it has a token of its own, or may borrow and none that waits to borrow goes before it. -/
def Tokens.turn (t : Tokens) (tens : List Nat) (share : Nat → Nat) (ten : Nat) : Bool :=
  decide (0 < (t.bucket ten).b) ||
    (t.canTake tens ten && tens.all fun k =>
      k == ten || decide (0 < (t.bucket k).b) || !(t.bucket k).demand || t.before share ten k)

/-- A port group serves a tenant's request now (R71): the tenant's turn has come; or no token is to be had, and the request has
arrived before the stop notice took effect. -/
def State.mayServe (s : State) (die pg ten : Nat) : Bool :=
  let t := s.tokensAt die pg
  let d := s.dieAt die
  t.turn d.tenants (s.hbmShare die pg) ten || !t.canTake d.tenants ten

/-! ## Race detection -/

/-- Who makes an access and on behalf of which launch: agent identity and phase stamp (R144), class of FLTINFO, and
whether it is a plain access (R134). -/
structure Who where
  agent : Agent := {}
  launch : LaunchInfo := {}
  cls : Nat := 0
  plain : Bool := true
  stamp : BitVec 16 := 0
  /-- operation field of a fault-log entry (R288), or the stores of a buffered line -/
  opField : BitVec 8 := 0
  stores : List StoreRec := []
  /-- identity of the agent (R132) -/
  ident : BitVec 13 := 0
  /-- a peer access at its exporter: the importer's launch, and how far its addresses lie beyond the exporter's (R30, R103) -/
  issuer : Option (LaunchInfo × Word) := none
deriving DecidableEq, Repr, Inhabited

/-- The outcome of checking one line (R146). -/
inductive RaceCheck where
  | clean (r : Races)
  | unchecked (r : Races)
  | conflict (info : Word)
deriving DecidableEq, Repr, Inhabited

/-- The lowest free way of a set: unused, or of a phase neither current (R147). -/
def Races.freeWay (r : Races) (set : Nat) : Option Nat :=
  (List.range 8).find? fun way =>
    match r.recs.find? (set * 8 + way) with
    | none => true
    | some x =>
      let n := r.newest.getD x.lid.toNat 0
      x.phase != n && x.phase != n - 1

/-- The way that holds the record of a line, launch and phase. -/
def Races.wayOf (r : Races) (set : Nat) (lid : BitVec 12) (line : Nat) (q : BitVec 16) : Option Nat :=
  (List.range 8).find? fun way =>
    match r.recs.find? (set * 8 + way) with
    | some x => x.lid == lid && x.line == line && x.phase == q
    | none => false

/-- RACEINFO for a conflict of an access with a record (R148). -/
def raceInfo (x : RaceRec) (g : BitVec 13) (cls : Nat) (writes : Bool) : Word :=
  let ww := writes && x.wv && x.wag != g
  let conf := if !writes then 2 else if ww then 0 else 1
  let many := writes && !ww && x.rst == 2
  let other := if !writes || ww then x.wag.toNat else if many then 0 else x.rag.toNat
  word (field x.phase.toNat 48 + field cls 45 + field conf 43 + field (bnat many) 42 + other)

/-- The stamp of an access received (R145, R147): a newer one becomes N, and records of the launch index that lie 1,024 phases or
more behind N are cleared. -/
def Races.renew (r : Races) (lid : BitVec 12) (q : BitVec 16) : Races :=
  let gap := (q - r.newest.getD lid.toNat 0).toNat
  if decide (1 ≤ gap) && decide (gap ≤ 32767) then
    { newest := r.newest.set lid.toNat q
      recs := r.recs.filter fun p => p.2.lid != lid || decide ((q - p.2.phase).toNat < 1024) }
  else r

/-- The check of one line against its record, the stamp having been received (R146). -/
def Races.check (r : Races) (set : Nat) (lid : BitVec 12) (line : Nat) (q : BitVec 16) (g : BitVec 13) (cls : Nat)
    (writes : Bool) : RaceCheck :=
  let n := r.newest.getD lid.toNat 0
  if q != n && q != n - 1 then .unchecked r
  else
    match (match r.wayOf set lid line q with
        | some w => some w
        | none => r.freeWay set) with
    | none => .unchecked r
    | some way =>
      let x : RaceRec := match r.wayOf set lid line q with
        | some _ => r.recs.getD (set * 8 + way) {}
        | none => { lid := lid, line := line, phase := q }
      let clash := if writes then (x.wv && x.wag != g) || (x.rst == 1 && x.rag != g) || x.rst == 2
        else x.wv && x.wag != g
      if clash then .conflict (raceInfo x g cls writes)
      else
        let x := if writes then { x with wag := g, wv := true }
          else if x.rst == 0 then { x with rst := 1, rag := g }
          else if x.rst == 1 && x.rag != g then { x with rst := 2 } else x
        .clean { r with recs := r.recs.set (set * 8 + way) x }

/-! ## Pieces of an access -/

/-- The global address of a piece. -/
def Piece.at (p : Piece) (die : Nat) : Nat := (if p.vault then vaultBase die else hbmBase die) + p.pa

/-- A piece at the place a translation gives its address. -/
def State.pieceOf (s : State) (die : Nat) (e : TlbEntry) (va : Word) (n : Nat) : Piece :=
  let pa := e.pa + va.toNat % 2 ^ e.size
  { vault := e.kind != 0, unit := if e.kind = 0 then pa / 256 % 16 else pa / 2 ^ 25, va := va, pa := pa, n := n,
    key := (s.keyOf die e.key).getD 0 }

/-- The lengths into which an access of n bytes from an address falls by 64 B lines; fuel bounds the number of lines. -/
def lineParts : Nat → Nat → Nat → List (Nat × Nat)
  | 0, _, _ => []
  | fuel + 1, va, n =>
    if n = 0 then [] else
      let k := min n (64 - va % 64)
      (va, k) :: lineParts fuel (va + k) (n - k)

/-- Which holder translates: a core's micro-TLB, a string's copy engine, or the port groups alone. -/
inductive Holder where
  | core (n : Nat)
  | engine (n : Nat)
  | ports
deriving DecidableEq, Repr, Inhabited

def State.holderTranslate (s : State) (die : Nat) (h : Holder) (asid : Nat) (va : Word) (n : Nat) (acc : Access) :
    Except XFault TlbEntry × State :=
  match h with
  | .core c => s.coreTranslate die c asid va n acc
  | .engine k => s.engTranslate die k asid va n acc
  | .ports => s.pgTranslate die (pgOf va) asid va n acc

/-- The pieces of an access, each translated by its holder and, for HBM, again by its port group (R26). -/
def State.pieces (s : State) (die : Nat) (h : Holder) (asid : Nat) (acc : Access) :
    List (Nat × Nat) → Except XFault (List Piece) × State
  | [] => (.ok [], s)
  | (va, n) :: rest =>
    match s.holderTranslate die h asid (word va) n acc with
    | (.error f, s) => (.error f, s)
    | (.ok e, s) =>
      match (if e.kind = 0 then s.pgTranslate die (pgOf (word va)) asid (word va) n acc else (.ok e, s)) with
      | (.error f, s) => (.error f, s)
      | (.ok e2, s) =>
        match State.pieces s die h asid acc rest with
        | (.error f, s) => (.error f, s)
        | (.ok l, s) => (.ok (s.pieceOf die e2 (word va) n :: l), s)

/-- A launch whose race detection is incomplete, with the first stamp affected (R147). -/
def State.markIncomplete (s : State) (die : Nat) (w : Who) : State :=
  s.modLaunch die w.launch fun l => if l.rinc then l else { l with rinc := true, rfirst := w.stamp }

/-- Every home of an access receives its stamp (R145, R146). -/
def State.renewStamps (s : State) (die : Nat) (w : Who) (ps : List Piece) : State :=
  ps.foldl (fun s p =>
    if p.vault then
      s.setVault die p.unit { s.vaultAt die p.unit with races := (s.vaultAt die p.unit).races.renew w.launch.lid w.stamp }
    else s.modPg die p.unit fun x => { x with races := x.races.renew w.launch.lid w.stamp }) s

/-- Every line of an access checked (R146): the race records entered, or the conflict. -/
def State.raceLines (s : State) (die : Nat) (w : Who) (writes : Bool) : List Piece → Except Word State
  | [] => .ok s
  | p :: ps =>
    let g := w.ident
    let line := p.at die / 64
    if p.vault then
      let v := s.vaultAt die p.unit
      match v.races.check (p.pa % 2 ^ 25 / 64 % 512) w.launch.lid line w.stamp g w.cls writes with
      | .conflict i => .error i
      | .clean r => State.raceLines (s.setVault die p.unit { v with races := r }) die w writes ps
      | .unchecked r => State.raceLines ((s.setVault die p.unit { v with races := r }).markIncomplete die w) die w writes ps
    else
      let g' := s.pgAt die p.unit
      match g'.races.check (p.pa / 4096 % 256 * 4 + p.pa / 64 % 4) w.launch.lid line w.stamp g w.cls writes with
      | .conflict i => .error i
      | .clean r => State.raceLines (s.setPg die p.unit { g' with races := r }) die w writes ps
      | .unchecked r => State.raceLines ((s.setPg die p.unit { g' with races := r }).markIncomplete die w) die w writes ps

/-- Two pieces lie in one line of one home. -/
def Piece.sameLine (p q : Piece) : Bool := p.vault == q.vault && p.unit == q.unit && p.pa / 64 == q.pa / 64

/-- One piece for every line that pieces touch in turn. -/
def distinctLines (ps : List Piece) : List Piece :=
  ps.foldr (fun p l =>
    match l with
    | q :: _ => if p.sameLine q then l else p :: l
    | [] => [p]) []

/-- A counter of an agent advanced; the manger, which bears the context code 3, and another package's agent count nothing, and the
counters of a context stop while it is parked or saved (R392). -/
def State.countOf (s : State) (a : Agent) (n k : Nat) : State :=
  let st := (s.ctxOf (ctxKey a.die a.core a.ctx)).st
  if 3 ≤ a.ctx ∨ st = .parked ∨ st = .saved then s else s.onBehalf a fun s => s.count n k

/-- Every line's service charged: a token for HBM, the counters C3 and C5 of the context, the paddock's usage (R70,
R392). -/
def State.servePieces (s : State) (die : Nat) (w : Who) (ps : List Piece) : State :=
  (distinctLines ps).foldl (fun s p =>
    if p.vault then (s.modUsage die w.launch.pad.toNat fun u => { u with energy := u.energy + Config.accessEnergy true }).countOf w.agent 5 1
    else (s.serveHbm die p.unit w.launch.ten.toNat w.launch.pad.toNat).countOf w.agent 3 1) s

/-- The bytes of pieces, the latest writes. -/
def State.readPieces (s : State) (die : Nat) (ps : List Piece) : List Byte :=
  ps.flatMap fun p => s.readAs p.key (p.at die) p.n

/-- The bytes that a read of pieces returns (R136). The manger and other packages read the latest. -/
def State.viewPieces (s : State) (die : Nat) (w : Who) : List Piece → List Byte × State
  | [] => ([], s)
  | p :: ps =>
    let l := s.readAs p.key (p.at die) p.n
    match (if w.agent.ctx = 3 then (l, s) else s.view w.agent w.cls (p.at die) l) with
    | (l, s) =>
      match State.viewPieces s die w ps with
      | (r, s) => (l ++ r, s)

/-- Bytes written to pieces by the hardware itself, in order; every read sees them. -/
def State.writePieces (s : State) (die : Nat) : List Piece → List Byte → State
  | [], _ => s
  | p :: ps, l => State.writePieces (s.writeAs p.key (p.at die) (l.take p.n)) die ps (l.drop p.n)

/-- Bytes written to pieces by an access, in order. -/
def State.storePieces (s : State) (die : Nat) (w : Who) : List Piece → List Byte → State
  | [], _ => s
  | p :: ps, l =>
    let t := if w.agent.ctx = 3 then s.writeAs p.key (p.at die) (l.take p.n)
      else s.writeFor w.agent w.launch.uid w.cls p.key (p.at die) (l.take p.n)
    State.storePieces t die w ps (l.drop p.n)

/-- Correctable errors in pieces are corrected and counted (R100). -/
def State.correctPieces (s : State) (die : Nat) (ps : List Piece) : State :=
  ps.foldl (fun s p => s.eccCorrect die (p.at die) p.n) s

/-- Some piece meets a word with an uncorrectable error. -/
def State.badPiece? (s : State) (die : Nat) (ps : List Piece) : Option Piece := ps.find? fun p => s.eccHit (p.at die) p.n

/-- The byte of an address lies in a word with an uncorrectable error that a write of n bytes from `a` covers only in part
(R101). -/
def State.badByte (s : State) (a n x : Nat) : Bool :=
  s.bad.contains (x / 8) && !(decide (a ≤ x / 8 * 8) && decide (x / 8 * 8 + 8 ≤ a + n))

/-- The byte of an address lies in a word that a write of n bytes from `a` covers only in part. -/
def partByte (a n x : Nat) : Bool := !(decide (a ≤ x / 8 * 8) && decide (x / 8 * 8 + 8 ≤ a + n))

/-- The bytes that a write of pieces leaves: those of an erroneous word that it covers in part stay (R101, R274). In the pieces
`errs` every word counts as erroneous: the write has met an error in the fold of their line (R101). -/
def State.mergeBad (s : State) (die : Nat) (errs : List Piece) : List Piece → List Byte → List Byte
  | [], l => l
  | p :: ps, l =>
    ((List.range p.n).map fun j =>
      if s.badByte (p.at die) p.n (p.at die + j) || (errs.contains p && partByte (p.at die) p.n (p.at die + j)) then
        s.byteAs p.key (p.at die + j)
      else l.getD j 0) ++
      State.mergeBad s die errs ps (l.drop p.n)

/-- The addresses of the bytes of a write that are not applied. -/
def State.lostBytes (s : State) (die : Nat) (errs : List Piece) (ps : List Piece) : List Nat :=
  ps.flatMap fun p => ((List.range p.n).filter fun j =>
    s.badByte (p.at die) p.n (p.at die + j) || (errs.contains p && partByte (p.at die) p.n (p.at die + j))).map fun j => p.va.toNat + j

/-- MERRINFO for an error at a vault or in HBM (R102). -/
def merrInfo (where_ cls acc asid : Nat) : Word := word (field where_ 48 + field cls 45 + field acc 42 + asid)

def Piece.place (p : Piece) : Nat := if p.vault then 3 else 4

/-! ## Folds (R89 to R91) -/

def regionV (r : List Word) : Bool := bit (r.getD 0 0) 63
def regionBf (r : List Word) : Bool := bits (r.getD 0 0) 62 61 == 1
def regionC (r : List Word) : Nat := bits (r.getD 0 0) 59 48 + 1
def regionBase (r : List Word) : Nat := bits (r.getD 0 0) 47 6 * 64
def regionSlots (r : List Word) : Nat := bits (r.getD 1 0) 47 6 * 64
def regionAsid (r : List Word) : Nat := bits (r.getD 2 0) 31 21
def regionLines (r : List Word) : Nat := bits (r.getD 2 0) 20 0
def regionEsize (r : List Word) : Nat := if regionBf r then 2 else 4
def regionSpan (r : List Word) : Nat := regionLines r * 64 * 4 / regionEsize r

/-- The live region of an ASID whose result range holds an address. -/
def Die.regionAt (d : Die) (asid va : Nat) : Option (List Word) :=
  (d.regions.values.filter fun r => regionV r && regionAsid r == asid && decide (regionBase r ≤ va) &&
    decide (va < regionBase r + regionLines r * 64)).head?

/-- A fault met inside a fold: the address and the fault, or the address and place of an error. -/
inductive FoldStop where
  | xlat (va : Word) (f : XFault)
  | ecc (va : Word) (place : Nat)
deriving DecidableEq, Repr, Inhabited

/-- The pieces of lines for a fold, made by the port groups under the region's ASID; a fault names its line. -/
def State.linesFor (s : State) (die asid : Nat) : List (Nat × Nat) → Except FoldStop (List Piece) × State
  | [] => (.ok [], s)
  | x :: l =>
    match s.pieces die .ports asid 2 [x] with
    | (.error f, s) => (.error (.xlat (word x.1) f), s)
    | (.ok ps, s) =>
      match State.linesFor s die asid l with
      | (.error f, s) => (.error f, s)
      | (.ok qs, s) => (.ok (ps ++ qs), s)

/-- The pieces of an address range for a fold, without an error. -/
def State.foldPieces (s : State) (die asid va n : Nat) : Except FoldStop (List Piece) × State :=
  match s.linesFor die asid (lineParts 8 va n) with
  | (.error f, s) => (.error f, s)
  | (.ok ps, s) =>
    match s.badPiece? die ps with
    | some p => (.error (.ecc p.va p.place), s)
    | none => (.ok ps, s.correctPieces die ps)

/-- The pieces of every contributor's slot line(s) of a result line. -/
def State.slotPieces (s : State) (die : Nat) (r : List Word) (x : Nat) : Nat → Except FoldStop (List (List Piece)) × State
  | 0 => (.ok [], s)
  | c + 1 =>
    match State.slotPieces s die r x c with
    | (.error f, s) => (.error f, s)
    | (.ok l, s) =>
      match s.foldPieces die (regionAsid r) (regionSlots r + c * regionSpan r + x / regionEsize r * 4) (64 * 4 / regionEsize r) with
      | (.error f, s) => (.error f, s)
      | (.ok ps, s) => (.ok (l ++ [ps]), s)

/-- Groups of n bytes as numbers. -/
def groupsOf (n : Nat) : Nat → List Byte → List Nat
  | 0, _ => []
  | k + 1, l => bytesNat (l.take n) :: groupsOf n k (l.drop n)

/-- One element folded over its slots in ascending contributor index (R91). -/
def foldElement (bf : Bool) (elem : Nat) (slots : List Nat) : Nat :=
  let f : Fmt := if bf then .bf16 else .f32
  let v0 := if bf then (Fmt.f32.pack .rne 0 (Fmt.bf16.value elem)).1 else elem
  let v := slots.foldl (fun v x => if x = 0 then v else (Fmt.f32.add .rne 0 v x).1) v0
  if slots.all (· == 0) then elem
  else if bf then (f.pack .rne 0 (Fmt.f32.value v)).1 else v

/-- A result line folded (R91): the line's byte offset from BASE is x, a multiple of 64. -/
def State.foldLine (s : State) (die : Nat) (r : List Word) (x : Nat) (ten pad : Nat) : Except FoldStop State × State :=
  match s.foldPieces die (regionAsid r) (regionBase r + x) 64 with
  | (.error f, s) => (.error f, s)
  | (.ok res, s) =>
    match s.slotPieces die r x (regionC r) with
    | (.error f, s) => (.error f, s)
    | (.ok slots, s) =>
      let k := 64 / regionEsize r
      let elems := groupsOf (regionEsize r) k (s.readPieces die res)
      let vals := slots.map fun ps => groupsOf 4 k (s.readPieces die ps)
      let out := (List.range k).map fun j => foldElement (regionBf r) (elems.getD j 0) (vals.map (·.getD j 0))
      let charged := slots.flatten.foldl (fun s p => (s.serveHbm die p.unit ten pad).serveHbm die p.unit ten pad) s
      if vals.all (·.all (· == 0)) then (.ok charged, s)
      else
        let s1 := slots.foldl (fun s ps => s.writePieces die ps (natBytes (64 * 4 / regionEsize r) 0)) charged
        (.ok (s1.writePieces die res (out.flatMap (natBytes (regionEsize r)))), s)

/-- Every result line that pieces of an access touch is folded first (R91). -/
def State.foldFor (s : State) (die asid ten pad : Nat) : List Piece → Except FoldStop State × State
  | [] => (.ok s, s)
  | p :: ps =>
    if p.vault then State.foldFor s die asid ten pad ps
    else
      match (s.dieAt die).regionAt asid p.va.toNat with
      | none => State.foldFor s die asid ten pad ps
      | some r =>
        match s.foldLine die r ((p.va.toNat - regionBase r) / 64 * 64) ten pad with
        | (.error f, s) => (.error f, s)
        | (.ok s, _) => State.foldFor s die asid ten pad ps

/-- The result lines that the pieces of a write touch, folded each for itself (R91): the pieces whose line has met an uncorrectable
error, which stays as it is (R101). -/
def State.foldWrite (s : State) (die asid ten pad : Nat) : List Piece → Except FoldStop (State × List Piece)
  | [] => .ok (s, [])
  | p :: ps =>
    match s.foldFor die asid ten pad [p] with
    | (.error (.xlat va f), _) => .error (.xlat va f)
    | (.error _, t) => (State.foldWrite t die asid ten pad ps).map fun x => (x.1, p :: x.2)
    | (.ok t, _) => State.foldWrite t die asid ten pad ps

/-! ## The fault log (R103 to R105) -/

/-- Every work identifier is dealt and every gang dispatched. -/
def Launch.dealt (x : Launch) : Bool := decide (x.info.nw ≤ x.next) && x.forming.isEmpty && x.formed.isEmpty

/-- Every task of a launch has ended. -/
def Launch.tasksEnded (x : Launch) : Bool := (x.aborted || (x.checked && x.dealt)) && x.live == 0

/-- An entry of a context's fault log, or a lost fault when it is full (R103, R104); after the issuing task, or for a handler
its whole launch, has ended it counts in the completion record (R105). Context code 3 names no context of this package and logs nothing. -/
def State.logFault (s : State) (a : Agent) (l : LaunchInfo) (id : BitVec 13) (va opnd : Word) (code opField cls : Nat) : State :=
  if 3 ≤ a.ctx then s else
  let e : FlogEntry :=
    { va := va, opnd := opnd, wt := s.wt
      info := word (field code 56 + field opField 48 + field cls 45 + field (id.toNat / 4) 34 + field l.asid.toNat 23) }
  let k := ctxKey a.die a.core a.ctx
  let c := s.ctxOf k
  -- a saved context's log is in its image (R106)
  let s := { s with images := s.imagesWith a.die a.core fun i => { i with flogp := i.flogp ||| (1 <<< a.ctx) } }
  let s := if c.flog.length < 64 then s.setCtxOf k { c with flog := c.flog ++ [e] }
    else s.setCtxOf k { c with flogLost := if c.flogLost = 0xFFFF then c.flogLost else c.flogLost + 1, pendOvf := true }
  let ended := c.launch.uid != l.uid || c.st == .ended || c.st == .terminated || (c.st == .dormant && a.ctx == 0)
  if ended || c.st == .dormant then
    s.modLaunch a.die l fun x =>
      if !ended && !x.tasksEnded then x
      else { x with fltCnt := x.fltCnt + 1, faults := if x.faults.length < 64 then x.faults ++ [e] else x.faults }
  else s

/-! ## Performing an access -/

/-- Bytes a memory operation touches, and its access code (R37). -/
def MemOp.size : MemOp → Nat
  | .read n => n
  | .write l => l.length
  | .amo _ wide _ => if wide then 8 else 4
  | .cas wide _ _ => if wide then 8 else 4

def MemOp.acc : MemOp → Access
  | .read _ => 0
  | .write _ => 1
  | .amo _ _ _ => 2
  | .cas _ _ _ => 2

/-- The new value of an atomic or integer reduction on n bits (R88, R236): 0 SWAP, 1 ADD, 2 AND, 3 OR, 4 XOR, 5 MIN,
6 MAX, 7 MIN.U, 8 MAX.U. -/
def atomicNew (op : Nat) (n : Nat) (old opnd : Nat) : Nat :=
  let o := opnd % 2 ^ n
  match op with
  | 0 => o
  | 1 => (old + o) % 2 ^ n
  | 2 => old &&& o
  | 3 => old ||| o
  | 4 => old ^^^ o
  | 5 => if sext n old ≤ sext n o then old else o
  | 6 => if sext n old ≤ sext n o then o else old
  | 7 => min old o
  | _ => max old o

/-- The bytes that an operation leaves in place of the old ones, if it writes. -/
def MemOp.result (op : MemOp) (old : List Byte) : Option (List Byte) :=
  match op with
  | .read _ => none
  | .write l => some l
  | .amo o wide v =>
    let n := if wide then 8 else 4
    some (natBytes n (atomicNew o.toNat (8 * n) (bytesNat old) v.toNat))
  | .cas wide e v =>
    let n := if wide then 8 else 4
    if bytesNat old = e.toNat % 2 ^ (8 * n) then some (natBytes n v.toNat) else none

/-- The result lines that an access folds first: none for an engine's write (R91). -/
def folded (w : Who) (op : MemOp) (ps : List Piece) : List Piece := if w.cls = 1 ∧ op.acc = 1 then [] else ps

/-- How far an access's addresses as issued lie beyond those at which it is performed: 0 but at an exporter (R30). -/
def Who.shift (w : Who) : Word := (w.issuer.map (·.2)).getD 0

/-- The stores of an access that have a byte among those not applied: for a buffered line those merged in it, otherwise the access
itself (R288). Their addresses are those as issued (R103). -/
def Who.lost (w : Who) (va : Word) (l : List Byte) (bytes : List Nat) : List StoreRec :=
  (if w.stores.isEmpty then [{ va := va + w.shift, size := 0, opnd := word (bytesNat (l.take 8)), opField := w.opField }]
    else w.stores.filter fun x => bytes.any fun b =>
      let b := (word b + w.shift).toNat
      decide (x.va.toNat ≤ b) && decide (b < x.va.toNat + x.size))

/-- A write applied to its pieces: an erroneous word that it covers only in part stays and is logged (R101, R274), for an engine's write
with class 0 and operation field 0 (log 138). -/
def State.storeOp (s : State) (die : Nat) (w : Who) (va : Word) (ps : List Piece) (l : List Byte) (errs : List Piece) :
    Reply × State :=
  match s.lostBytes die errs ps with
  | [] => (.data [], s.storePieces die w ps l)
  | lost => (.data [], (w.lost va l lost).foldl (fun s x =>
      s.logFault w.agent ((w.issuer.map (·.1)).getD w.launch) w.ident x.va x.opnd 0x21 x.opField.toNat 0)
        ((s.storePieces die w ps (s.mergeBad die errs ps l)).eccCount die))

/-- An operation other than a write applied to its pieces: a read returns what its class may see, an atomic the latest. -/
def State.readOp (s : State) (die : Nat) (w : Who) (op : MemOp) (ps : List Piece) : Reply × State :=
  let s := s.correctPieces die ps
  match op.acc with
  | 0 =>
    match s.viewPieces die w ps with
    | (l, s) => (.data l, s)
  | _ =>
    let old := s.readPieces die ps
    match op.result old with
    | some new => (.data old, s.storePieces die w ps new)
    | none => (.data old, s)

/-- The operation is performed on its pieces (R136, R146, R91, R101): checked for races, folded, checked for errors,
applied; its reply carries the bytes before it. -/
def State.performPieces (s : State) (die : Nat) (w : Who) (va : Word) (op : MemOp) (ps : List Piece) : Reply × State :=
  let writes := op.acc != 0
  let asid := w.launch.asid.toNat
  let s := if w.plain then s.renewStamps die w ps else s
  match (if w.plain then s.raceLines die w writes ps else .ok s) with
  | .error info => (.race va info, s)
  | .ok s1 =>
    let ten := w.launch.ten.toNat
    let pad := w.launch.pad.toNat
    let lines := folded w op ps
    let stop : FoldStop → Reply × State
      | .xlat fva f => (.xlat fva (fltInfo f w.cls op.acc asid fva), s)
      | .ecc fva place => (.mem fva (merrInfo place w.cls op.acc asid), s.eccCount die)
    match op with
    | .write l =>
      match s1.foldWrite die asid ten pad lines with
      | .error e => stop e
      | .ok (s2, errs) => (s2.servePieces die w ps).storeOp die w va ps l errs
    | _ =>
      match s1.foldFor die asid ten pad lines with
      | (.error e, _) => stop e
      | (.ok s2, _) =>
        let s3 := s2.servePieces die w ps
        match s3.badPiece? die ps with
        | some p => (.mem va (merrInfo p.place w.cls op.acc asid), s.eccCount die)
        | none => s3.readOp die w op ps

/-- An access to global memory of the die, translated by its holder and performed at its homes (R23, R26, R37, R136): the
bytes of the operation lie in the ranges given, in order. -/
def State.perform (s : State) (die : Nat) (h : Holder) (w : Who) (va : Word) (runs : List (Nat × Nat)) (op : MemOp) :
    Reply × State :=
  let asid := w.launch.asid.toNat
  match rangesFault runs with
  | some f => (.xlat va (fltInfo f w.cls op.acc asid va), s)
  | none =>
    match s.pieces die h asid op.acc (runs.flatMap fun r => lineParts 1026 r.1 r.2) with
    | (.error f, s) => (.xlat va (fltInfo f w.cls op.acc asid va), s)
    | (.ok ps, s) => s.performPieces die w va op ps

end Sys2Proof.Machine
end

