-- ==== Sys2Proof/Machine/Shape.lean ====
section
/-!
DEFINITION. Sys2Proof/Machine/Shape.lean: format codes, shape registers and E4 as the tile instructions find them (R107, R182, R183,
R227, R294), and the checks that a captured instruction makes before its queues (R297).
-/

namespace Sys2Proof.Machine

/-! ## Formats (R107) -/

def isAster (f : Nat) : Bool := decide (6 ≤ f) && decide (f ≤ 8)
def isIntFmt (f : Nat) : Bool := decide (3 ≤ f) && decide (f ≤ 5)

/-- Element width in bits of a format code. -/
def elemBits (f : Nat) : Nat :=
  match f with
  | 1 => 16
  | 2 => 32
  | 3 => 8
  | 4 => 16
  | 5 => 32
  | 6 => 4
  | 7 => 6
  | _ => 8

/-! ## Shapes (R182, R183, R294) -/

structure Shape where
  fmt : Nat := 0
  cols : Nat := 0
  vcols : Nat := 0
  rows : Nat := 0
  vrows : Nat := 0
deriving DecidableEq, Repr, Inhabited

def shapeOf (h : Word) : Shape :=
  { fmt := bits h 63 60, cols := bits h 47 40, vcols := bits h 39 32, rows := bits h 22 16, vrows := bits h 6 0 }

/-- Reserved bits of a shape register. -/
def shapeReserved (h : Word) : Bool := bits h 59 48 != 0 || bits h 31 23 != 0 || bits h 15 7 != 0

/-- A shape that a tile instruction accepts (R182, R183, R294). -/
def Shape.valid (x : Shape) : Bool :=
  decide (1 ≤ x.fmt) && decide (x.fmt ≤ 8) && decide (1 ≤ x.rows) && decide (x.rows ≤ 64) && decide (1 ≤ x.cols) &&
    decide (x.cols ≤ 128) && decide (x.rows * x.cols * elemBits x.fmt ≤ 16384) &&
    (!isAster x.fmt || (x.cols % 32 == 0 && x.vcols % 32 == 0)) && decide (x.vrows ≤ x.rows) && decide (x.vcols ≤ x.cols)

/-- Reserved bits of E4 (R227). -/
def e4Reserved (e : Word) : Bool := bits e 63 11 != 0 || bit e 7 || bit e 3

/-- A tile instruction that reads a queue, or writes one, passes the checks that come before its queues: E4, RM, shape and widths
(R297). The accumulator forms make none. -/
def Regs.passes (r : Regs) (i : Instr) : Bool :=
  let e := r.getE 4
  let x := shapeOf (r.getH (bits e 2 0))
  let ok := !e4Reserved e && x.valid
  let rm := !isAster x.fmt || decide (bits e 10 8 < 5)
  match i with
  | .tfill .. => ok && rm
  | .tsqz _ _ a d => ok && rm && a.toNat % 4 == 0 && d.toNat % 4 == 0
  | .tld .. => ok
  | .tst .. => ok
  | .tldG .. => ok
  | .tstG .. => ok
  | _ => true

end Sys2Proof.Machine
end

