-- ==== Sys2Proof/Machine/Operands.lean ====
section
/-!
DEFINITION. Sys2Proof/Machine/Operands.lean: guards, scalar operands with their queue forms, branches of attached members,
and the wait for the repeat stream (R168 to R170, R175 to R179, R218, R223, R224, R262).
-/

namespace Sys2Proof.Machine

/-- The encoding names a queue register (R223). -/
def isQueue (r : BitVec 5) : Bool := decide (28 ≤ r.toNat)

/-- The queue that an encoding names. -/
def queueNo (r : BitVec 5) : Nat := r.toNat - 28

/-- The values of source fields, read in the order given; each queue field removes one value. `none` when a queue holds too
few (R224). -/
def Regs.take : Regs → List (BitVec 5) → Option (List Word × Regs)
  | r, [] => some ([], r)
  | r, f :: fs =>
    if isQueue f then
      match r.getQ (queueNo f) with
      | [] => none
      | v :: l => (Regs.take (r.setQ (queueNo f) l) fs).map fun x => (v :: x.1, x.2)
    else (Regs.take r fs).map fun x => (r.getS f.toNat :: x.1, x.2)

/-- The queue values that source fields name removed (R224). -/
def Regs.drop : Regs → List (BitVec 5) → Regs
  | r, [] => r
  | r, f :: fs =>
    if isQueue f then Regs.drop (r.setQ (queueNo f) (r.getQ (queueNo f)).tail) fs else Regs.drop r fs

/-- The queue a destination field names has room (R178). -/
def Regs.room (r : Regs) (dst : Option (BitVec 5)) : Bool :=
  match dst with
  | none => true
  | some d => !isQueue d || decide ((r.getQ (queueNo d)).length < 8)

/-- A result written to a destination field: a register, or a value added to a queue (R223, R224). -/
def Regs.put (r : Regs) (d : BitVec 5) (v : Word) : Regs :=
  if isQueue d then r.setQ (queueNo d) (r.getQ (queueNo d) ++ [v]) else r.setS d.toNat v

def State.put (s : State) (d : BitVec 5) (v : Word) : State := s.modRegs (·.put d v)

/-- The instruction retires and the values of its queue sources are removed (R224). -/
def State.finish (s : State) (srcs : List (BitVec 5)) (len : Nat) : State := (s.modRegs (·.drop srcs)).retire len

/-! ## The repeat stream as the main stream sees it -/

/-- A repetition is active (R180). -/
def Regs.repActive (r : Regs) : Bool := bit (r.getCsr Csr.reppos) 63

/-- The scalar sources and the scalar destination of a capturable instruction (R176). -/
def repOperands : Instr → List (BitVec 5) × Option (BitVec 5)
  | .tfill _ _ q _ => ([q], none)
  | .tld _ _ _ a _ => ([a], none)
  | .tst _ _ a _ => ([a], none)
  | .tldG _ _ _ _ a _ => ([a], none)
  | .tstG _ _ _ a _ => ([a], none)
  | .accLd _ a => ([a], none)
  | .accSt _ a => ([a], none)
  | .tsqz _ q _ _ => ([], some q)
  | _ => ([], none)

/-- The repeat stream cannot go on for want of a queue value or of room (R179): its instruction has passed the checks that come before
its queues, so that it waits and does not trap. -/
def Regs.repStuck (r : Regs) : Bool :=
  r.repActive &&
    match r.repBuf[bits (r.getCsr Csr.reppos) 51 48]? with
    | none => false
    | some w =>
      match decode32 w.toNat with
      | .ok i => r.passes i && ((r.take (repOperands i).1).isNone || !(r.room (repOperands i).2))
      | .error _ => false

/-- A stream is blocked on a queue: on an empty one (true) or on a full one (false). The main stream blocked on an empty
queue traps when the repeat stream is idle or blocked itself (R179); otherwise the instruction waits. -/
def State.blocked (s : State) (onEmpty : Bool) : State :=
  if s.cur.rep || !onEmpty then s
  else if s.me.regs.repStuck || !s.me.regs.repActive then s.trap causeDeadlock
  else s

/-- A main-stream instruction of R175 waits until the repeat stream is idle. -/
def State.needIdle (s : State) (k : State → State) : State :=
  if !s.cur.rep && s.me.regs.repActive then
    (if s.me.regs.repStuck then s.trap causeDeadlock else s)
  else k s

/-! ## Guards and operands -/

/-- The guard (R218): a false one retires the instruction with no other effect. -/
def State.guarded (s : State) (g : BitVec 3) (len : Nat) (k : State → State) : State :=
  if s.readP g then k s else s.retire len

/-- A queue field that the executing stream reads or writes in the wrong direction (R178, R224). -/
def wrongWay (rep : Bool) (srcs : List (BitVec 5)) (dst : Option (BitVec 5)) : Bool :=
  let srcBad := srcs.any fun f => isQueue f && (decide (queueNo f < 2) != rep)
  let dstBad := match dst with
    | some d => isQueue d && (decide (queueNo d < 2) == rep)
    | none => false
  srcBad || dstBad

/-- Some field names a queue. -/
def usesQueue (srcs : List (BitVec 5)) (dst : Option (BitVec 5)) : Bool :=
  srcs.any isQueue || (match dst with | some d => isQueue d | none => false)

/-- Scalar operands (R202, R224): a queue in a handler context traps, missing values or room block, and otherwise the body
runs on the values. -/
def State.withOps (s : State) (srcs : List (BitVec 5)) (dst : Option (BitVec 5)) (k : List Word → State → State) : State :=
  if usesQueue srcs dst && s.inHandler then s.trap causeHandler
  else
    match s.me.regs.take srcs with
    | none => s.blocked true
    | some x => if s.me.regs.room dst then k x.1 s else s.blocked false

/-- An instruction with a guard, scalar sources and at most one scalar destination, in the order of R218: a queue named in
the wrong direction is an illegal encoding whatever the guard holds, then the guard, then the operands. -/
def State.instr (s : State) (g : BitVec 3) (srcs : List (BitVec 5)) (dst : Option (BitVec 5)) (len : Nat)
    (k : List Word → State → State) : State :=
  if wrongWay s.cur.rep srcs dst then s.trap causeIllegal
  else s.guarded g len fun s => s.withOps srcs dst k

/-- The same for an instruction of R175, which waits for an idle repeat stream before its own checks. -/
def State.instrIdle (s : State) (g : BitVec 3) (srcs : List (BitVec 5)) (dst : Option (BitVec 5)) (len : Nat)
    (k : List Word → State → State) : State :=
  if wrongWay s.cur.rep srcs dst then s.trap causeIllegal
  else s.guarded g len fun s => s.needIdle fun s => s.withOps srcs dst k

/-- The operand at a position of the values read. -/
def arg (vs : List Word) (i : Nat) : Word := vs.getD i 0

/-- An instruction whose result is a function of its sources and nothing else. -/
def State.compute (s : State) (g : BitVec 3) (srcs : List (BitVec 5)) (dst : BitVec 5) (len : Nat)
    (f : List Word → Word) : State :=
  s.instr g srcs (some dst) len fun vs s => (s.put dst (f vs)).finish srcs len

/-- An instruction whose result is a predicate, a function of its sources. -/
def State.test (s : State) (g : BitVec 3) (srcs : List (BitVec 5)) (d : BitVec 3) (len : Nat) (f : List Word → Bool) :
    State :=
  s.instr g srcs none len fun vs s => (s.writeP d (f vs)).finish srcs len

/-! ## Branches (R169, R217, R262) -/

/-- The task context of a core. -/
def State.task (s : State) (die core : Nat) : Ctx := s.ctxOf (ctxKey die core 0)

/-- The positions of a string whose task contexts are attached. -/
def State.attached (s : State) (die str : Nat) : List Nat :=
  (List.range 8).filter fun j => (s.task die (coreAt str j)).att

/-- The present agent leads its string's attached stream (R169). -/
def State.leads (s : State) : Bool := (s.attached s.cur.die s.strNo).head? == some (posOf s.cur.core)

/-- The present context continues at an address. -/
def State.goto (s : State) (pc : Word) : State := s.modRegs fun r => { r with pc := pc }

/-- A member leaves the attached stream (R170). -/
def State.detach (s : State) : State := s.modMe fun c => { c with att := false }

/-- The leader has issued what stands at the present member's place of the attached stream. -/
def State.leaderPast (s : State) : Bool :=
  match (s.attached s.cur.die s.strNo).head? with
  | some j => decide (s.me.wpos < (s.task s.cur.die (coreAt s.strNo j)).wpos)
  | none => false

/-- A branch whose outcome (the address after the instruction) may differ between members: the leader's outcome at the
branch's place in the attached stream is recorded, another member waits for it and detaches if its own differs (R169,
R262), or if the leader has passed its place without a branch. A member that has become leader still finds what its predecessor's
decoded branches gave. -/
def State.branch (s : State) (srcs : List (BitVec 5)) (len : Nat) (outcome : Word) : State :=
  if s.me.att then
    match s.myStr.brLog.find? s.me.wpos with
    | some t => if t = outcome then (s.finish srcs len).goto outcome else ((s.finish srcs len).goto outcome).detach
    | none =>
      if s.leads then
        ((s.modMyStr fun x => { x with brLog := x.brLog.set s.me.wpos outcome }).finish srcs len).goto outcome
      else if s.leaderPast then ((s.finish srcs len).goto outcome).detach
      else s
  else (s.finish srcs len).goto outcome

end Sys2Proof.Machine
end

