-- ==== Sys2Proof/Machine/Access.lean ====
section
/-!
DEFINITION. Sys2Proof/Machine/Access.lean: the CORE accesses of the present instruction (R34, R71, R135, R272, R452), the
local store (R78, R82, R100, R101), the store buffer of an idempotent region (R38, R278, R390), and what a fence waits for
(R139, R140).
-/

namespace Sys2Proof.Machine

/-- A waiting instruction of a context is answered with a word; context codes from 3 up name none of this package. -/
def State.answerWait (s : State) (a : Agent) (w : Word) : State :=
  if 3 ≤ a.ctx then s
  else s.modCtx (ctxKey a.die a.core a.ctx) fun c => { c with wait := if c.wait = .sent then .answered (.word w) else c.wait }

/-! ## Local store -/

/-- An offset range lies outside the local store (R78, R270). -/
def lsOutside (ea : Word) (n : Nat) : Bool := decide (2 ^ 17 < ea.toNat + n) || decide (2 ^ 17 ≤ ea.toNat)

/-- A read of the present core's local store; an uncorrectable error traps with WHERE 2 (R101, R102). -/
def State.lsLoad (s : State) (off n cls acc : Nat) (k : List Byte → State → State) : State :=
  let a := lsBase s.cur.die s.cur.core + off
  if s.eccHit a n then (s.eccCount s.cur.die).trapReply (.mem (word off) (merrInfo 2 cls acc 0))
  else
    let s := s.eccCorrect s.cur.die a n
    match s.view s.cur cls a (s.lsRead off n) with
    | (l, t) => k (s.seen s.cur off l) t

/-- A write of the present core's local store: the bytes of an erroneous word that it covers only in part stay, and the
store is logged (R101, R274). -/
def State.lsStore (s : State) (off : Nat) (l : List Byte) (opField : BitVec 8) : State :=
  let a := lsBase s.cur.die s.cur.core + off
  let l' := (List.range l.length).map fun j => if s.badByte a l.length (a + j) then s.byte (a + j) else l.getD j 0
  let s' := s.lsPut s.cur.die s.cur.core off l'
  if (List.range l.length).any fun j => s.badByte a l.length (a + j) then
    (s'.eccCount s.cur.die).logFault s.cur s.me.launch (s.agentId s.cur) (word off) (word (bytesNat (l.take 8))) 0x21 opField.toNat 0
  else s'

/-! ## Accesses to global memory -/

/-- The phase stamp of the present context (R144). -/
def State.stamp (s : State) : BitVec 16 := (s.csr Csr.rphase).setWidth 16

/-- Who an access of the present instruction belongs to. -/
def State.who (s : State) (cls : Nat) (plain : Bool) (opField : BitVec 8) (stores : List StoreRec) : Who :=
  { agent := { s.cur with rep := false }, launch := s.me.launch, cls := cls, plain := plain, stamp := s.stamp, opField := opField
    stores := stores, ident := s.agentId s.cur }

/-- The request of an access, as it waits at a port or travels. The agent keeps the stream that waits for it. -/
def State.reqOf (s : State) (va : Word) (runs : List (Nat × Nat)) (op : MemOp) (plain : Bool) (opField : BitVec 8)
    (stores : List StoreRec) : Req :=
  { agent := s.cur, launch := s.me.launch, ten := s.me.launch.ten, pg := pgOf va, va := va, runs := runs, op := op, plain := plain
    stamp := s.stamp, opField := opField, stores := stores, ident := s.agentId s.cur, ipkg := s.pkg.number
    idie := s.cur.die }

/-- What a peer entry names (R28). -/
def TlbEntry.exporter (e : TlbEntry) : PeerTo :=
  { pkg := BitVec.ofNat 12 (bits e.w0 63 52), die := bits e.w0 51 50, hnd := BitVec.ofNat 12 (bits e.w0 49 38)
    gen := BitVec.ofNat 16 (bits e.w0 37 22) }

/-- Every range of a peer access checked at its importer, by its holder and again by the port group that forwards it (R25, R30): where it
goes, or the fault and the address of its range. -/
def State.peerTos (s : State) (die : Nat) (h : Holder) (asid : Nat) (acc : Access) :
    List (Nat × Nat) → Except (Word × XFault) (List PeerTo) × State
  | [] => (.ok [], s)
  | (va, n) :: rest =>
    match s.holderTranslate die h asid (word va) n acc with
    | (.error f, s) => (.error (word va, f), s)
    | (.ok _, s) =>
      match s.pgTranslate die (pgOf (word va)) asid (word va) n acc with
      | (.error f, s) => (.error (word va, f), s)
      | (.ok e, s) =>
        match State.peerTos s die h asid acc rest with
        | (.error f, s) => (.error f, s)
        | (.ok l, s) => (.ok (e.exporter :: l), s)

/-- The string's network port holds requests to a peer (R75). -/
def State.peerStopped (s : State) (die str pg : Nat) (x : PeerTo) : Bool :=
  if x.pkg = s.pkg.number then
    (s.strAt die str).peerStops.contains ((x.die * 256 + (s.dieAt x.die).handleTen x.hnd) * 16 + pg)
  else (s.strAt die str).farStops.contains (((x.pkg.toNat * 4 + x.die) * 4096 + x.hnd.toNat) * 16 + pg)

/-- A peer access is held at its string's network port, or sent to the port group that its address names (R75, R452). -/
def State.sendPeer (s : State) (die str : Nat) (r : Req) : State :=
  if r.tos.any (s.peerStopped die str r.pg) then
    let s := s.modStr die str fun y => { y with held := y.held ++ [r] }
    if r.exporter.pkg = s.pkg.number then s.noteDemand r.exporter.die r.pg else s
  else s.modPg die r.pg fun p => { p with peerQ := p.peerQ ++ [.access r] }

/-- An access with pieces in HBM is held at its string's network port while a stop notice is in force, or joins the queue of the
port group of its first such piece (R71, R86). -/
def State.sendHbm (s : State) (die str : Nat) (r : Req) : State :=
  let hbm := r.pieces.filter fun p => !p.vault
  match hbm.find? fun p => (s.strAt die str).stops.contains (r.ten.toNat * 16 + p.unit) with
  | some p => (s.modStr die str fun y => { y with held := y.held ++ [{ r with pg := p.unit }] }).noteDemand die p.unit
  | none =>
    let pg := (hbm.headD {}).unit
    (s.modPg die pg fun p => { p with queue := p.queue ++ [{ r with pg := pg }] }).noteDemand die pg

/-- One access of the present instruction to global memory (R272). It is translated first, by its core and, for HBM, by its port
groups, and a fault sends nothing. An access to HBM is queued at its port group or held at the network port, and a peer access
is sent to the port group that its address names; the instruction then waits for the response (R34). An access to vaults is
performed at its homes. -/
def State.accessFor (s : State) (cls : Nat) (va : Word) (runs : List (Nat × Nat)) (op : MemOp) (plain : Bool)
    (opField : BitVec 8) (stores : List StoreRec) (k : Reply → State → State) : State :=
  match s.waiting with
  | .answered r => k r (s.setWait .idle)
  | .sent => s
  | .performed _ => s
  | .idle =>
    let d := s.cur.die
    let asid := s.me.launch.asid.toNat
    let fault (at_ : Word) (f : XFault) : Reply := .xlat va (fltInfo f cls op.acc asid at_)
    let r := s.reqOf va runs op plain opField stores
    match rangesFault runs with
    | some f => k (fault va f) s
    | none =>
      if runs.any fun x => decide (2 ^ 47 ≤ x.1) then
        match s.peerTos d (.core s.cur.core) asid op.acc runs with
        | (.error (at_, f), s) => k (fault at_ f) s
        | (.ok l, s) => (s.sendPeer d s.strNo { r with peer := true, tos := l }).setWait .sent
      else
        match s.pieces d (.core s.cur.core) asid op.acc (runs.flatMap fun x => lineParts 1026 x.1 x.2) with
        | (.error f, s) => k (fault va f) s
        | (.ok ps, s) =>
          if ps.any fun p => !p.vault then (s.sendHbm d s.strNo { r with pieces := ps }).setWait .sent
          else
            match s.performPieces d (s.who cls plain opField stores) va op ps with
            | (r, s) => k r s

/-- An access that is no buffered line. -/
def State.access (s : State) (cls : Nat) (va : Word) (runs : List (Nat × Nat)) (op : MemOp) (plain : Bool)
    (opField : BitVec 8) (k : Reply → State → State) : State := s.accessFor cls va runs op plain opField [] k

/-- The access of the present instruction, with the traps of a failed one (R37, R102, R148). -/
def State.accessOk (s : State) (va : Word) (n : Nat) (op : MemOp) (plain : Bool) (opField : BitVec 8)
    (k : List Byte → State → State) : State :=
  s.access 0 va [(va.toNat, n)] op plain opField fun r s =>
    match r with
    | .data l => k l s
    | r => s.trapReply r

/-! ## Idempotent regions -/

/-- A region ends being discardable for the rest of its course (R389). -/
def State.endDisc (s : State) : State :=
  s.modMe fun c => { c with region := c.region.map fun r => { r with disc := false, broken := true } }

/-- Later stores of the region are performed directly (R390). -/
def State.setDirect (s : State) : State :=
  s.modMe fun c => { c with region := c.region.map fun r => { r with direct := true } }

def State.setBuf (s : State) (b : List BufLine) : State :=
  s.modMe fun c => { c with region := c.region.map fun r => { r with buf := b } }

/-- The buffered lines of the present context's region. -/
def State.buffer (s : State) : List BufLine := (s.me.region.map (·.buf)).getD []

/-- Maximal runs of set bits of a 64-bit mask, as offsets and lengths, from a bit position on. -/
def maskRuns (m : BitVec 64) : Nat → Nat → List (Nat × Nat)
  | 0, _ => []
  | n + 1, i =>
    if bit m i then
      match maskRuns m n (i + 1) with
      | (j, k) :: l => if j = i + 1 then (i, k + 1) :: l else (i, 1) :: (j, k) :: l
      | [] => [(i, 1)]
    else maskRuns m n (i + 1)

/-- The ranges and the bytes of a buffered line. -/
def BufLine.runs (b : BufLine) : List (Nat × Nat) := (maskRuns b.mask 64 0).map fun r => (b.va.toNat + r.1, r.2)
def BufLine.bytes (b : BufLine) : List Byte :=
  (maskRuns b.mask 64 0).flatMap fun r => natBytes r.2 (b.data.toNat / 2 ^ (8 * r.1))

/-- The buffered stores committed in the order of their first store, each line one access performed before the next is sent; a
fault leaves its line and the later ones buffered (R38, R390). -/
def State.commitLines (s : State) (bad : Reply → State → State) : Nat → (State → State) → State
  | 0, k => k s
  | n + 1, k =>
    match s.buffer with
    | [] => k s
    | b :: _ =>
      let va := match b.runs with
        | r :: _ => word r.1
        | [] => b.va
      s.accessFor 0 va b.runs (.write b.bytes) true 0 b.stores fun r s =>
        match r with
        | .data _ => State.commitLines (s.setBuf s.buffer.tail) bad n k
        | r => bad r s

/-- The buffered stores committed by the present instruction: a fault is precise at it (R38). -/
def State.commitBuf (s : State) (n : Nat) (k : State → State) : State := s.commitLines (fun r s => s.trapReply r) n k

/-- An instruction that commits the buffer first and ends discardability, with its first line if not before (R278, R389). -/
def State.committing (s : State) (k : State → State) : State :=
  if s.me.region.isNone then k s else s.endDisc.commitBuf 65 k

/-- The commit that closes a region: once a line of it may have been performed the region is no longer discardable (R389, R391). -/
def State.closing (s : State) (k : State → State) : State :=
  (if s.buffer.isEmpty then s else s.endDisc).commitBuf 65 k

/-- A store merged into the buffered line of its address. -/
def BufLine.merge (b : BufLine) (off : Nat) (l : List Byte) (x : StoreRec) : BufLine :=
  { b with
    stores := b.stores ++ [x]
    data := BitVec.ofNat 512 (bytesNat ((List.range 64).map fun j =>
      if off ≤ j ∧ j < off + l.length then l.getD (j - off) 0 else BitVec.ofNat 8 (b.data.toNat / 2 ^ (8 * j))))
    mask := b.mask ||| BitVec.ofNat 64 ((2 ^ l.length - 1) * 2 ^ off) }

/-- Line parts of a store entered in a buffer, in order; `none` when a 65th line would be needed (R390). -/
def bufStore (x : StoreRec) : List BufLine → List (Nat × Nat) → List Byte → Option (List BufLine)
  | b, [], _ => some b
  | b, (va, n) :: rest, l =>
    let line := word (va / 64 * 64)
    if b.any (·.va == line) then
      bufStore x (b.map fun y => if y.va == line then y.merge (va % 64) (l.take n) x else y) rest (l.drop n)
    else if b.length < 64 then
      bufStore x (b ++ [({ va := line } : BufLine).merge (va % 64) (l.take n) x]) rest (l.drop n)
    else none

/-- The byte that the buffer holds for an address. -/
def bufByte (b : List BufLine) (a : Nat) : Option Byte :=
  (b.find? fun x => x.va.toNat == a / 64 * 64 && bit x.mask (a % 64)).map fun x =>
    BitVec.ofNat 8 (x.data.toNat / 2 ^ (8 * (a % 64)))

/-- Loaded bytes with those that the buffer holds put in their place (R278). -/
def State.overlay (s : State) (a : Nat) (l : List Byte) : List Byte :=
  let b := s.buffer
  if b.isEmpty then l else (List.range l.length).map fun j => (bufByte b (a + j)).getD (l.getD j 0)

/-- A plain store to global memory: buffered in a region (one that overflows commits the buffer first), otherwise performed
(R278, R390). -/
def State.plainStore (s : State) (va : Word) (l : List Byte) (opField : BitVec 8) (k : State → State) : State :=
  let direct (s : State) : State := s.accessOk va l.length (.write l) true opField fun _ s => k s
  match s.me.region with
  | none => direct s
  | some r =>
    if r.direct then s.commitBuf 65 direct
    else
      match bufStore { va := va, size := l.length, opnd := word (bytesNat l), opField := opField } r.buf (lineParts 66 va.toNat l.length)
          l with
      | some b => k (s.setBuf b)
      | none => s.setDirect.endDisc.commitBuf 65 direct

/-! ## Scopes (R137) -/

/-- Two agents are the same context. -/
def Agent.same (a b : Agent) : Bool := a.die == b.die && a.core == b.core && a.ctx == b.ctx

/-- An agent of another package as this one knows it. -/
def Agent.far (a : Agent) (pkg : Nat) : Agent := { a with ctx := 4 * (pkg + 1) + a.ctx % 4, rep := false }

/-- The local store of a core lies within a scope of another core of the die (R137). -/
def lsInScope (scope core target : Nat) : Bool :=
  match scope with
  | 0 => false
  | 1 => core == target
  | 2 => strOf core == strOf target
  | 3 => vaultOf (strOf core) == vaultOf (strOf target)
  | 4 => core / 64 / 16 == target / 64 / 16 && core % 64 / 32 == target % 64 / 32
  | _ => true

/-- A vault lies within a scope of a core of the die. -/
def vaultInScope (scope core vault : Nat) : Bool :=
  match scope with
  | 0 => false
  | 1 => false
  | 2 => false
  | 3 => vaultOf (strOf core) == vault
  | 4 => vaultOf (strOf core) / 32 == vault / 32 && vaultOf (strOf core) % 8 / 4 == vault % 8 / 4
  | _ => true

/-- Two packages differ in exactly one torus coordinate: they lie on one ring (R137). -/
def onRing (a b : BitVec 12) : Bool :=
  ((List.range 3).filter fun d => bits a (4 * d + 3) (4 * d) != bits b (4 * d + 3) (4 * d)).length == 1

/-- What an access needs of a handle: bit 0 RD, bit 1 W, bit 2 A (R29, R30). -/
def rightsOf (acc : Access) : Nat :=
  match acc with
  | 0 => 1
  | 1 => 2
  | 2 => 7
  | _ => 6

/-- The exporter refuses a peer access before its translation (R30). -/
def Die.refuses (d : Die) (x : PeerTo) (ipkg : BitVec 12) (idie : Nat) (iasid : BitVec 11) (acc : Access) (stop : Nat) : Bool :=
  let h := d.handle x.hnd.toNat
  let w3 := h.getD 3 0
  !handleV h || handleGen h != x.gen || bits w3 63 52 != ipkg.toNat || bits w3 51 50 != idie || bits w3 49 39 != iasid.toNat ||
    handleRights h &&& rightsOf acc != rightsOf acc || decide (handleLen h < stop)

/-- Its exporter, in this package, refuses an access of this package's die now: it counts within every scope from 1 up (R139). -/
def State.toRefused (s : State) (die : Nat) (asid : BitVec 11) (acc : Access) (x : PeerTo) : Bool :=
  x.pkg == s.pkg.number && (s.dieAt x.die).refuses x s.pkg.number die asid acc 0

/-- A peer target lies within a scope, for a tenant (R137, R156): in none below 7. -/
def State.peerInScope (s : State) (scope ten : Nat) (x : PeerTo) : Bool :=
  let own := x.pkg == s.pkg.number
  match scope with
  | 7 => own
  | 8 => own || onRing s.pkg.coords (Config.coordsOf x.pkg.toNat)
  | 9 => (if own then (s.dieAt x.die).handleTen x.hnd else Config.farTenant x.pkg.toNat x.die x.hnd.toNat x.gen.toNat) == ten
  | 10 => true
  | 11 => true
  | _ => false

/-- Something that an access of a launch aims at lies within a scope of its core; one that has failed, or that its exporter refuses,
lies within every scope from 1 up (R139). -/
def State.aimInScope (s : State) (scope die core : Nat) (l : LaunchInfo) (acc : Access) (x : Aim) : Bool :=
  scope != 0 && (x.failed || (x.hbm && decide (5 ≤ scope)) || x.vaults.any (vaultInScope scope core) ||
    x.tos.any fun y => s.peerInScope scope l.ten.toNat y || s.toRefused die l.asid acc y)

/-- What the pieces of an access aim at. -/
def aimOf (ps : List Piece) : Aim :=
  { vaults := (ps.filter (·.vault)).map (·.unit), hbm := ps.any fun p => !p.vault }

/-- A byte of the package's memories belongs to a paddock of a tenant: HBM by its window, a vault or a local store by its region
(R137). -/
def State.tenantOwns (s : State) (ten a : Nat) : Bool :=
  let mine (die : Nat) (f : Paddock → Bool) : Bool := (s.dieAt die).pads.values.any fun p => p.ten == ten && f p
  if a < 2 ^ 40 then
    mine (a / 2 ^ 38) fun p => decide (p.hbmB ≤ a % 2 ^ 38 / 2 ^ 30) && decide (a % 2 ^ 38 / 2 ^ 30 < p.hbmB + p.hbmN)
  else if a < 2 ^ 41 then mine ((a - 2 ^ 40) / 2 ^ 31) fun p => bit p.vreg ((a - 2 ^ 40) % 2 ^ 31 / 2 ^ 25)
  else mine ((a - 2 ^ 41) / 2 ^ 28) fun p => bit p.vreg (vaultOf (strOf ((a - 2 ^ 41) / 2 ^ 17 % 2048)))

/-- A byte of the package's memories lies within a scope of a core, for a tenant (R137). -/
def State.addrInScope (s : State) (scope die core ten a : Nat) : Bool :=
  match scope with
  | 7 => true
  | 8 => true
  | 9 => s.tenantOwns ten a
  | 10 => true
  | 11 => true
  | _ =>
    if a < 2 ^ 40 then decide (5 ≤ scope) && a / 2 ^ 38 == die
    else if a < 2 ^ 41 then (a - 2 ^ 40) / 2 ^ 31 == die && vaultInScope scope core ((a - 2 ^ 40) % 2 ^ 31 / 2 ^ 25)
    else (a - 2 ^ 41) / 2 ^ 28 == die && lsInScope scope core ((a - 2 ^ 41) / 2 ^ 17 % 2048)

/-! ## What a fence waits for, and what it orders (R139, R140) -/

def PeerWord.access? : PeerWord → Option Req
  | .access r => some r
  | .reduction _ => none

def PeerWord.posted? : PeerWord → Option Posted
  | .access _ => none
  | .reduction p => some p

/-- Requests under way: at network ports, at port groups, on the peer path, on circuits. -/
def State.reqs (s : State) : List Req :=
  s.strs.values.flatMap (·.held) ++ s.pgs.values.flatMap (fun p => p.queue ++ p.peerQ.filterMap (·.access?) ++ p.peerIn) ++
    s.dies.values.flatMap (·.peerOut) ++ s.pkg.ldQ.filterMap (·.access?) ++
    s.yards.values.flatMap fun y => y.circuits.values.flatMap fun c => c.words.filterMap fun w =>
      match w.load with
      | .access r => if (w.seq - c.rx).toNat < 32768 then some r else none
      | _ => none

/-- Payloads of a die on their way, those on circuits among them. -/
def State.payloadsOf (s : State) (die : Nat) : List Payload :=
  (s.dieAt die).payloads ++ (s.yardAt die).circuits.values.flatMap fun c => c.words.filterMap fun w =>
    match w.load with
    | .payload p => if (w.seq - c.rx).toNat < 32768 then some p else none
    | _ => none

/-- Bytes that a reduction addresses. -/
def Posted.size (p : Posted) : Nat :=
  if p.form = 0 then (if p.wide then 8 else 4) else if p.op = 1 then 2 else 4

/-- Posted reductions not yet performed, wherever they are (R287). -/
def State.allPosted (s : State) : List Posted :=
  s.pgs.values.flatMap (fun p => p.posted ++ p.peerQ.filterMap (·.posted?)) ++ s.vaults.values.flatMap (·.posted) ++
    s.dies.values.flatMap (·.peerPosted) ++ s.pkg.ldQ.filterMap (·.posted?)

def State.postedOf (s : State) (a : Agent) : List Posted := s.allPosted.filter (·.agent.same a)

/-- The commands of a die that a context has issued. -/
def State.cmdsOf (s : State) (a : Agent) : List Cmd :=
  ((s.strs.filter fun p => p.1 / 256 == a.die).flatMap fun p => p.2.queue.values).filter fun c => c.agent.same a

/-- What a portion aims at. -/
def EngPart.aim (x : EngPart) : Aim := { aimOf x.pieces with tos := x.tos.values.eraseDups }

/-- The answer of a read that has come, and whether it is a failure. -/
def EngRead.reply (r : EngRead) : Option Reply :=
  match r.wait with
  | .performed x => some x
  | .answered x => some x
  | _ => none
def EngRead.failed (r : EngRead) : Bool :=
  match r.reply with
  | some (.data _) => false
  | some _ => true
  | none => false

/-- The core that a PUT or ACC.SEND command names by logical index in bits 59:49 of its descriptor (R348). -/
def State.cmdCore (s : State) (c : Cmd) : Nat :=
  (s.physOf c.agent.die c.launch.pad.toNat (bits c.src 59 49)).getD c.core

/-! ## The sides of a command (R343) -/

/-- Counts and strides of a dimension register (R343). -/
def dimCount (e : Word) : Nat := max 1 (bits e 15 0)
def dimStride (e : Word) (dst : Bool) : Int := sext 24 (if dst then bits e 63 40 else bits e 39 16)

def cpyFull (e2 : Word) : Bool := bit e2 63
def cpySls (e2 : Word) : Bool := bit e2 62
def cpyDls (e2 : Word) : Bool := bit e2 61
def cpyCore (e2 : Word) : Nat := bits e2 60 50
def cpyCid (e2 : Word) : Nat := bits e2 47 36
def cpyLen (e2 : Word) : Nat := bits e2 31 0

/-- Reserved bits of the copy flags. -/
def cpyReserved (e2 : Word) : Bool := bits e2 49 48 != 0 || bits e2 35 32 != 0

/-- Distance of a row's start from the base, by its two indices (R343). -/
def rowDist (e0 e1 : Word) (dst : Bool) (i2 i1 : Nat) : Int := i2 * dimStride e1 dst + i1 * dimStride e0 dst

/-- The core that DCORE names. -/
def State.dcore (s : State) (c : Cmd) : Nat := (s.physOf c.agent.die c.launch.pad.toNat (cpyCore c.e2)).getD c.core

/-- Bytes of a copy in linear order. -/
def Cmd.total (c : Cmd) : Nat := dimCount c.e1 * dimCount c.e0 * cpyLen c.e2

/-- L of a chunk header (R346). -/
def chunkLen (hdr : List Byte) : Nat := bytesNat ((hdr.drop 8).take 4)

/-- Bytes of the source, as far as they are known: of a chunk first its header (R346). -/
def Cmd.goal (c : Cmd) : Nat :=
  match c.kind with
  | .cpy => c.total
  | .cpyDig => c.total
  | .cpyT => if c.pos < 16 then 16 else 32 + chunkLen c.data
  | _ => 0

/-- The place in the source of the next byte to be asked for. -/
def Cmd.asked (c : Cmd) : Nat := (if c.kind = .cpy then c.pos + c.data.length else c.pos) + (c.reads.map (·.n)).sum

/-- The source lies in the issuer's local store; the destination lies in a local store. -/
def Cmd.localSrc (c : Cmd) : Bool := c.kind != .cpyT && cpySls c.e2
def Cmd.localDst (c : Cmd) : Bool :=
  match c.kind with
  | .put => !bit c.src 63
  | .accSend => true
  | .deal => true
  | _ => cpyDls c.e2

/-- The core whose local store a command writes. -/
def State.dstCore (s : State) (c : Cmd) : Nat := if c.kind = .put ∨ c.kind = .accSend then s.cmdCore c else s.dcore c

/-- A side in global memory has bytes left, from a place up to an end, that a fence waits for: they are not all translated, or what
they aim at counts (R139). -/
def sideBusy (part : Option EngPart) (at_ end_ : Nat) (counts : Aim → Bool) : Bool :=
  decide (at_ < end_) && match part with
    | some x => decide (x.pos + x.n < end_) || counts x.aim
    | none => true

/-- The source of an unfinished command has bytes left that a fence waits for. -/
def State.srcBusy (s : State) (c : Cmd) (scope : Nat) : Bool :=
  match c.kind with
  | .put => false
  | .accSend => false
  | .deal => true
  | k =>
    !(k != .cpy && c.started) &&
      ((k == .cpyT && decide (c.pos < 16)) || c.reads.any (·.failed) ||
        if c.localSrc then decide (c.asked < c.goal)
        else sideBusy c.srcPart c.asked c.goal (s.aimInScope scope c.agent.die c.core c.launch 0))

/-- Its destination has. -/
def State.dstBusy (s : State) (c : Cmd) (scope : Nat) : Bool :=
  let end_ := if c.kind = .cpy then c.total else c.data.length
  let result := (c.kind == .cpyT || c.kind == .cpyDig) && !c.started
  if c.localDst then (result || decide (c.pos < end_)) && lsInScope scope c.core (s.dstCore c)
  else result || sideBusy c.dstPart c.pos end_ (s.aimInScope scope c.agent.die c.core c.launch 1)

/-- A command has accesses that a fence of a scope from 1 up waits for: some not yet translated, or some whose target lies within the
scope (R139). -/
def State.cmdBusy (s : State) (c : Cmd) (scope : Nat) : Bool :=
  let counts (acc : Access) : Aim → Bool := s.aimInScope scope c.agent.die c.core c.launch acc
  c.reads.any (fun r => r.wait == .sent && counts 0 r.aim) ||
    (c.wait == .sent && (c.dstPart.any fun x => counts 1 x.aim)) ||
    (c.fin.isNone && (s.srcBusy c scope || s.dstBusy c scope))

/-- The class of a command's accesses (R94). -/
def CmdKind.cls : CmdKind → Nat
  | .deal => 3
  | _ => 1

/-- An access of an agent in one of the classes, within a scope, that is not yet performed (R139, R140). -/
def State.fenceBusy (s : State) (a : Agent) (classes : List Nat) (scope : Nat) : Bool :=
  scope != 0 &&
    ((s.cmdsOf a).any (fun c => classes.contains c.kind.cls && s.cmdBusy c scope) ||
      (s.payloadsOf a.die).any (fun p => p.agent.same a && classes.contains p.cls.toNat && lsInScope scope a.core p.core) ||
      (classes.contains 4 && (s.postedOf a).any fun p => s.aimInScope scope a.die a.core p.launch 3 p.aim))

/-- A write that a fence of an agent over classes has ordered (R95, R136): its own one for every reader, another's for its own
reads. -/
def OldWord.order (o : OldWord) (a : Agent) (classes : List Nat) : OldWord :=
  if !classes.contains o.cls then o
  else if o.agent.same a then { o with fenced := o.fenced ++ classes.filter fun c => !o.fenced.contains c }
  else { o with seen := o.seen ++ [(a, classes)] }

/-- The writes that some class may still read past: none that is older than one ordered for every class. -/
def boundAt : List OldWord → List OldWord
  | [] => []
  | o :: l => if (List.range 5).all fun c => o.cls == c || o.fenced.contains c then [] else o :: boundAt l

/-- The records changed, by word number, and those dropped that no read can go past any more. -/
def State.mapOlder (s : State) (f : Nat → OldWord → OldWord) : State :=
  { s with older := (s.older.map fun p => (p.1, boundAt (p.2.map (f p.1)))).filter fun p => !p.2.isEmpty }

/-- A fence of an agent orders the writes of its classes within its scope (R95, R139, R140). -/
def State.orderWrites (s : State) (a : Agent) (classes : List Nat) (scope : Nat) : State :=
  s.mapOlder fun w o => if s.addrInScope scope a.die a.core (s.ctxOf (ctxKey a.die a.core a.ctx)).launch.ten.toNat (8 * w) then o.order { a with rep := false } classes else o

/-- A byte of this package's memories lies within a scope of an agent of another package, for a tenant (R137). -/
def State.farInScope (s : State) (scope pkg ten a : Nat) : Bool :=
  match scope with
  | 8 => onRing (Config.coordsOf pkg) s.pkg.coords
  | 9 => s.tenantOwns ten a
  | 10 => true
  | 11 => true
  | _ => false

/-- A fence of an agent of another package orders the writes of its classes within its scope (R136, R139). -/
def State.orderFar (s : State) (pkg : Nat) (a : Agent) (classes : List Nat) (scope ten : Nat) : State :=
  s.mapOlder fun w o => if s.farInScope scope pkg ten (8 * w) then o.order (a.far pkg) classes else o

/-- The completion of a launch of another package orders its writes within the completion scope (R154). -/
def State.orderFarLaunch (s : State) (pkg die uid scope ten : Nat) : State :=
  s.mapOlder fun w o =>
    if o.agent.ctx / 4 = pkg + 1 ∧ o.agent.die = die ∧ o.uid = uid ∧ s.farInScope scope pkg ten (8 * w) = true then
      { o with fenced := [0, 1, 2, 3, 4] }
    else o

/-- The completion of a launch orders all its writes within the completion scope (R154). -/
def State.orderLaunch (s : State) (die uid scope ten : Nat) : State :=
  s.mapOlder fun w o =>
    if decide (o.agent.ctx < 3) && homeDie o.agent.die == die && o.uid == uid && s.addrInScope scope die o.agent.core ten (8 * w) then
      { o with fenced := [0, 1, 2, 3, 4] }
    else o

end Sys2Proof.Machine
end

