-- ==== Sys2Proof/Machine/Front.lean ====
section
/-!
DEFINITION. Sys2Proof/Machine/Front.lean: the string front end: which contexts may issue, the fetch of an instruction
through the string's instruction cache, and the events taken at an instruction boundary (R168 to R171, R200, R205, R216,
R217, R371).
-/

namespace Sys2Proof.Machine

/-- A member whose window is full of instructions that the slowest attached member has not issued stalls (R168). -/
def State.windowFull (s : State) : Bool :=
  s.me.att && ((s.attached s.cur.die s.strNo).any fun j =>
    decide ((s.task s.cur.die (coreAt s.strNo j)).wpos + 32 ≤ s.me.wpos))

/-- The channel of the handler run of a context, when it has one. -/
def State.runChan (s : State) (die core ctx : Nat) : Option Nat :=
  let c := s.ctxOf (ctxKey die core ctx)
  if c.live then c.run.map (·.chan.toNat) else none

/-- A record that a batch takes: a SEND record or a notice of an ordered launch (R205). -/
def Msg.parks (m : Msg) : Bool := m.launch.ordered && m.kind != 3

/-- Channel n of a core is enabled (R195). -/
def Core.chanOn (c : Core) (n : Nat) : Bool := bit (c.csr.getD (Csr.chcfg + n) 0) 63

/-- The parked records of a core, in queues and, of enabled channels, in the lean-to, whose window lies at least two before window j
(R195, R205). -/
def Core.parked (c : Core) (j : Nat) : List Msg :=
  ((c.recs.map (·.msg)) ++ c.lean.filter fun m => c.chanOn m.chan.toNat).filter fun m => m.parks && decide (m.win + 2 ≤ j)

/-- A window has begun whose batch is not formed and would not be empty (R205). -/
def Core.batchDue (c : Core) (j : Nat) : Bool := c.batch.isEmpty && decide (c.batchWin < j) && !(c.parked j).isEmpty

/-- The core is the present context's to use: a task waits for the handler contexts and for an ordered batch (R200, R205),
and of two handler runs the one of the higher channel goes first (R200). -/
def State.hasCore (s : State) : Bool :=
  let d := s.cur.die
  let c := s.cur.core
  match s.cur.ctx with
  | 0 => !(s.ctxOf (ctxKey d c 1)).live && !(s.ctxOf (ctxKey d c 2)).live && s.myCore.batch.isEmpty &&
      !s.myCore.batchDue (s.window d s.me.launch.pad.toNat)
  | x =>
    match s.runChan d c x, s.runChan d c (3 - x) with
    | some a, some b => decide (b ≤ a) || (s.ctxOf (ctxKey d c (3 - x))).st == .parked
    | _, _ => true

/-- A string that stops for a save or a discard lets a context only take the answer that its instruction waits for, and the
events of a boundary that come before the stop (R371, R380). -/
def State.mayFinish (s : State) : Bool :=
  match s.waiting with
  | .answered _ => true
  | .idle => s.me.pendFp || s.me.pendFpRep || s.me.pendOvf
  | _ => false

/-- The present agent may issue an instruction now: its context runs, its core has power and a clock, the core is its to use,
no pre-emption stop holds it, its window has room, and a repeat stream has a repetition active. -/
def State.canRun (s : State) : Bool :=
  s.me.st == .running && s.myCore.on && s.myCore.div != 0 && !s.pkg.tripped &&
    (if s.stopPending then s.mayFinish else s.hasCore && !s.windowFull) &&
    s.me.saving.isNone && !s.myStr.pre.writing && !s.myStr.pre.held && !s.myStr.pre.restored && (!s.cur.rep || s.me.regs.repActive)

/-- A line of the instruction cache (R25). -/
def State.cacheLine (s : State) (asid : BitVec 11) (line : Word) : Option ILine :=
  s.myStr.icache.find? fun l => !l.dead && l.asid == asid && l.va == line

/-- A line fetched into the string's instruction cache (R22, R23, R77): translated with X by the port groups. -/
def State.fillLine (s : State) (line : Word) (at_ : Word) : Except Reply (BitVec 512) × State :=
  let d := s.cur.die
  let l := s.me.launch
  let asid := l.asid.toNat
  match addrFault at_ 2 with
  | some f => (.error (.xlat at_ (fltInfo f 5 4 asid at_)), s)
  | none =>
    if bit at_ 47 then
      match s.pgTranslate d (pgOf at_) asid at_ 2 4 with
      | (.error f, s) => (.error (.xlat at_ (fltInfo f 5 4 asid at_)), s)
      | (.ok _, s) => (.error (.xlat at_ (fltInfo { code := 0x0C, kind := 2 } 5 4 asid at_)), s)
    else
      match s.pieces d .ports asid 4 [(line.toNat, 64)] with
      | (.error f, s) => (.error (.xlat at_ (fltInfo f 5 4 asid at_)), s)
      | (.ok ps, s) =>
        match s.badPiece? d ps with
        | some p => (.error (.mem at_ (merrInfo p.place 5 4 asid)), s.eccCount d)
        | none =>
          let s := s.servePieces d { agent := s.cur, launch := l, cls := 5, plain := false } ps
          let s := s.correctPieces d ps
          let b := BitVec.ofNat 512 (bytesNat (s.readPieces d ps))
          let size := ((tlbFind (s.pgAt d (pgOf line)).tlb asid line).map (·.size)).getD 12
          (.ok b, s.modMyStr fun x => { x with icache := { asid := l.asid, va := line, size := size, data := b } :: x.icache })

/-- The halfword at an instruction address (R216). -/
def State.fetchHalf (s : State) (pc : Word) : Except Reply Nat × State :=
  let line := pc &&& ~~~(63 : Word)
  let off := (pc &&& 63).toNat
  match s.cacheLine s.me.launch.asid line with
  | some l => (.ok (l.data.toNat / 2 ^ (8 * off) % 65536), s)
  | none =>
    match s.fillLine line pc with
    | (.error r, s) => (.error r, s)
    | (.ok b, s) => (.ok (b.toNat / 2 ^ (8 * off) % 65536), s)

/-- The halfwords of the instruction at an address, as one number (R216, R217). -/
def State.fetchRaw (s : State) (pc : Word) : Except Reply Nat × State :=
  match s.fetchHalf pc with
  | (.error r, s) => (.error r, s)
  | (.ok h, s) =>
    if h % 4 = 3 then
      match s.fetchHalf (pc + 2) with
      | (.error r, s) => (.error r, s)
      | (.ok h2, s) => (.ok (h + 65536 * h2), s)
    else (.ok h, s)

/-- An instruction's halfwords decoded (R216). -/
def decodeRaw (w : Nat) : Decoded := if w % 4 = 3 then asDecoded 4 (decode32 w) else asDecoded 2 (decode16 w)

/-- The decoded window holds the present member's next instruction (R168): its halfwords. -/
def State.windowed (s : State) : Option Nat :=
  if s.me.att then ((s.myStr.window.find? s.me.wpos).filter fun x => x.1 == s.me.regs.pc).map (·.2) else none

/-- An instruction that the present member has fetched enters the window for the attached members that have still to issue it;
entries that every attached member has issued are freed (R168). -/
def State.noteDecoded (s : State) (w : Nat) : State :=
  let places := (s.attached s.cur.die s.strNo).map fun j => (s.task s.cur.die (coreAt s.strNo j)).wpos
  if s.me.att && decide (1 < places.length) then
    s.modMyStr fun x =>
      { x with window := SMap.set (x.window.filter fun p => places.any fun n => decide (n ≤ p.1)) s.me.wpos (s.me.regs.pc, w) }
  else s

/-- The next instruction of the present context's main stream: from the decoded window, which no invalidation reaches (R35), or
fetched. -/
def State.fetchNext (s : State) : Except Reply Decoded × State :=
  match s.windowed with
  | some w => (.ok (decodeRaw w), s)
  | none =>
    match s.fetchRaw s.me.regs.pc with
    | (.error r, s) => (.error r, s)
    | (.ok w, s) => (.ok (decodeRaw w), s.noteDecoded w)

/-- The captured instruction at the repeat stream's place (R175). -/
def State.captured (s : State) : Decoded :=
  match s.me.regs.repBuf[bits (s.csr Csr.reppos) 51 48]? with
  | some w => asDecoded 4 (decode32 w.toNat)
  | none => .illegal .fieldValue 4

/-- What the present agent's next step is: its instruction, or an event of the boundary already taken (R371). -/
inductive Issue where
  /-- nothing: the agent may not issue, or an event was taken -/
  | done (s : State)
  | exec (i : Instr) (s : State)
deriving DecidableEq, Repr, Inhabited

/-- A floating-point event or an overflow halt waits for a boundary of the present context. -/
def State.eventWaits (s : State) : Bool := s.me.pendFp || s.me.pendFpRep || s.me.pendOvf

/-- The stream of the present context whose instruction's trap is the first event of the boundary, the main one first (R371). -/
def State.trapFirst (s : State) : Option Bool :=
  if s.me.wait.faulted then some false else if s.me.waitRep.faulted then some true else none

/-- The present stream lets the other one's trap go first at a boundary at which an event, or its own trap, waits as well (R371). -/
def State.yields (s : State) : Bool :=
  match s.trapFirst with
  | some r => r != s.cur.rep && (s.eventWaits || s.waiting.faulted)
  | none => false

/-- The present stream's instruction (R175, R218). -/
def State.instrNext (s : State) : Issue :=
  if s.cur.rep then
    match s.captured with
    | .instr i _ => .exec i s
    | _ => .done (s.trap causeIllegal)
  else
    match s.fetchNext with
    | (.error r, s) => .done (s.trapReply r)
    | (.ok (.instr i _), s) => .exec i s
    | (.ok _, s) => .done (s.trap causeIllegal)

/-- The next step of the present agent: a trap that an instruction under way takes, then the events of the boundary (R371), then the
next instruction. -/
def State.issue (s : State) : Issue :=
  if !s.canRun || s.yields then .done s
  else if s.waiting.faulted then s.instrNext
  else if s.me.pendFp then .done ((s.modMe fun c => { c with pendFp := false }).as { s.cur with rep := false }
      |> fun s => s.enterTrap causeFp 0 s.me.regs.pc)
  else if s.me.pendFpRep then .done ((s.modMe fun c => { c with pendFpRep := false }).as { s.cur with rep := true }
      |> fun s => s.enterTrap causeFp 0 s.here)
  else if s.me.pendOvf && s.waiting == .idle then .done ((s.modMe fun c => { c with pendOvf := false }).trap causeAsync)
  else s.instrNext

end Sys2Proof.Machine
end

