-- ==== Sys2Proof/Machine/Control.lean ====
section
/-!
DEFINITION. Sys2Proof/Machine/Control.lean: branches and calls, STRAY, MUSTER and REP (R260 to R269, R168 to R180), with
their 16-bit forms (R234). DONE stands with the tasks.
-/

namespace Sys2Proof.Machine

/-! ## Branches -/

/-- A PC-relative target: the instruction's own address plus a signed offset in halfwords (R260). -/
def State.target (s : State) {n : Nat} (o : BitVec n) : Word := s.here + (o.signExtend 64 <<< 1)

/-- An unconditional direct branch. -/
def State.jump (s : State) (len : Nat) (t : Word) : State := (s.retire len).goto t

def execB (o : BitVec 23) (s : State) : Host.Outcome State Fault Refusal := .next (s.jump 4 (s.target o))
def execBl (o : BitVec 23) (s : State) : Host.Outcome State Fault Refusal :=
  .next ((s.writeS 1 (s.here + 4)).jump 4 (s.target o))

/-- A branch on a predicate, negated by NG (R260). -/
def State.branchIf (s : State) (p : BitVec 3) (n : BitVec 1) (len : Nat) (t : Word) : State :=
  s.branch [] len (if s.readP p != (n == 1) then t else s.here + word len)

def execBp (p : BitVec 3) (n : BitVec 1) (o : BitVec 19) (s : State) : Host.Outcome State Fault Refusal :=
  .next (s.branchIf p n 4 (s.target o))

/-- A branch to a register's value: an odd target traps at the branch (R217, R261). -/
def State.branchTo (s : State) (srcs : List (BitVec 5)) (len : Nat) (t : Word) : State :=
  if bit t 0 then s.trap causeIllegal else s.branch srcs len t

/-- JR (R261, R262): a false guard falls through, which is an outcome of the branch. -/
def execJr (g : BitVec 3) (b : BitVec 5) (s : State) : Host.Outcome State Fault Refusal :=
  .next (if wrongWay s.cur.rep [b] none then s.trap causeIllegal
    else if s.readP g then s.withOps [b] none fun vs s => s.branchTo [b] 4 (arg vs 0)
    else s.branch [] 4 (s.here + 4))

/-- RET (R261). -/
def execRet (g : BitVec 3) (s : State) : Host.Outcome State Fault Refusal :=
  .next (if s.readP g then s.branchTo [] 4 (s.readS 1) else s.branch [] 4 (s.here + 4))

def execCB (o : BitVec 11) (s : State) : Host.Outcome State Fault Refusal := .next (s.jump 2 (s.target o))
def execCBp (p : BitVec 3) (n : BitVec 1) (o : BitVec 7) (s : State) : Host.Outcome State Fault Refusal :=
  .next (s.branchIf p n 2 (s.target o))
def execCRet (s : State) : Host.Outcome State Fault Refusal := .next (s.branchTo [] 2 (s.readS 1))

/-! ## STRAY and MUSTER -/

/-- STRAY (R264): an attached member detaches; any other context only goes on. -/
def State.stray (s : State) (len : Nat) : State := (s.retire len).detach

def execStray (s : State) : Host.Outcome State Fault Refusal := .next (s.stray 4)
def execCStray (s : State) : Host.Outcome State Fault Refusal := .next (s.stray 2)

/-- A task context is a member of its string's gang that has not ended (R172, R173). -/
def Ctx.liveMember (c : Ctx) : Bool := c.member && c.st != .ended && c.st != .terminated && c.st != .dormant

/-- The positions of a string's live members, those saved by CTX.SAVE among them. -/
def State.liveMembers (s : State) (die str : Nat) : List Nat :=
  (List.range 8).filter fun j =>
    (s.task die (coreAt str j)).liveMember || (s.task (slotDie die) (coreAt str j)).liveMember

/-- The member at a position waits at the pending muster. -/
def State.arrivedAt (s : State) (die core : Nat) : Bool := (s.task die core).arrived && !(s.task (slotDie die) core).liveMember

/-- Where the attached stream goes on after a muster: past every position that a live member or the string still knows of, so that
what an open region's discard goes back to keeps its place (log 154). -/
def State.nextPlace (s : State) (die str : Nat) : Nat :=
  let x := s.strAt die str
  1 + ((s.liveMembers die str).map (fun j => (s.task die (coreAt str j)).wpos) ++ x.brLog.keys ++ x.window.keys).foldl max 0

/-- The first position that a discard of a live member's open region would go back to. -/
def State.firstPlace (s : State) (die str : Nat) : Option Nat :=
  ((s.liveMembers die str).filterMap fun j => (s.task die (coreAt str j)).region.map (·.ck.wpos)).min?

/-- The pending muster completes when every live member waits at it (R172): each waiting member passes it and becomes
attached. -/
def State.musterCheck (s : State) (die str : Nat) : State :=
  let live := s.liveMembers die str
  if (s.strAt die str).muster.isSome && live.all fun j => s.arrivedAt die (coreAt str j) then
    let len := (s.strAt die str).musterLen
    let p := s.nextPlace die str
    let keep := s.firstPlace die str
    let s := s.modStr die str fun x =>
      { x with muster := none, window := [], brLog := x.brLog.filter fun b => (keep.map fun k => decide (k ≤ b.1)).getD false }
    live.foldl (fun s j =>
      s.onBehalf { die := die, core := coreAt str j, ctx := 0 } fun s =>
        (s.retire len).modMe fun c => { c with arrived := false, att := true, wpos := p }) s
  else s

/-- MUSTER (R172, R265). -/
def State.muster (s : State) (len : Nat) : State :=
  if s.inHandler then s.trap causeHandler
  else if !s.me.member || s.liveMembers s.cur.die s.strNo == [posOf s.cur.core] then s.retire len
  else if s.me.arrived then s
  else
    let arrive (s : State) : State := (s.modMe fun c => { c with arrived := true }).musterCheck s.cur.die s.strNo
    match s.myStr.muster with
    | none => arrive (s.modMyStr fun x => { x with muster := some s.here, musterLen := len })
    | some a => if a = s.here then arrive s else s.trap causeMuster

def execMuster (s : State) : Host.Outcome State Fault Refusal := .next (s.muster 4)
def execCMuster (s : State) : Host.Outcome State Fault Refusal := .next (s.muster 2)

/-! ## REP -/

/-- The instruction may be captured (R176): a tile instruction other than SHP.SET and SHP.GET, or a matrix instruction other
than ACC.SEND. -/
def capturable : Instr → Bool
  | .tadd .. | .tsub .. | .tmul .. | .tfma .. | .tmax .. | .tmin .. => true
  | .texp .. | .trcp .. | .trsq .. | .tlog .. | .tcvt .. | .tred .. | .tbcast .. | .ttrans .. => true
  | .tcmpEq .. | .tcmpNe .. | .tcmpLt .. | .tcmpLe .. | .tsel .. | .tsqz .. | .txpd .. | .trand .. => true
  | .tmov .. | .tzero .. | .tfill .. | .tld .. | .tst .. | .tldG .. | .tstG .. => true
  | .mma .. | .mmaG .. | .mmas .. | .accClr .. | .accAnch .. | .accDrn .. | .accLd .. | .accSt .. => true
  | _ => false

/-- Every scalar field of a captured instruction names S0 or a queue in the direction of the repeat stream (R176, R178,
R224). -/
def capturedOk (i : Instr) : Bool :=
  let (srcs, dst) := repOperands i
  capturable i && (srcs ++ dst.toList).all (fun f => f == 0 || isQueue f) && !wrongWay true srcs dst

/-- The 32-bit words from an address on, fetched as instructions. -/
def State.fetchWords (s : State) (pc : Word) : Nat → Except Reply (List Word32) × State
  | 0 => (.ok [], s)
  | n + 1 =>
    match s.fetchHalf pc with
    | (.error r, s) => (.error r, s)
    | (.ok h, s) =>
      match s.fetchHalf (pc + 2) with
      | (.error r, s) => (.error r, s)
      | (.ok h2, s) =>
        match State.fetchWords s (pc + 4) n with
        | (.error r, s) => (.error r, s)
        | (.ok l, s) => (.ok (BitVec.ofNat 32 (h + 65536 * h2) :: l), s)

/-- A word may be captured. -/
def wordOk (w : Word32) : Bool :=
  w.toNat % 4 == 3 &&
    match decode32 w.toNat with
    | .ok i => capturedOk i
    | .error _ => false

/-- The capture of REP (R269), with the count in hand. -/
def State.capture (s : State) (srcs : List (BitVec 5)) (count : Nat) (l st : BitVec 4) : State :=
  if count = 0 || decide (65535 < count) then s.trap causeOperand
  else
    let len := l.toNat + 1
    let base := s.here + 4
    match s.fetchWords base len with
    | (.error r, s) => s.trapReply r
    | (.ok ws, s) =>
      if ws.all wordOk then
        (s.modRegs fun r =>
          ({ r with repBuf := ws, repBase := base }).setCsr Csr.reppos
            (word (field 1 63 + field st.toNat 56 + field l.toNat 52 + field count 16))).finish srcs (4 + 4 * len)
      else s.trap causeIllegal

/-- REP, either form (R269). -/
def State.repeat (s : State) (srcs : List (BitVec 5)) (count : List Word → Nat) (l st : BitVec 4) : State :=
  if wrongWay s.cur.rep srcs none then s.trap causeIllegal
  else if s.inHandler then s.trap causeHandler
  else s.needIdle fun s => s.withOps srcs none fun vs s => s.capture srcs (count vs) l st

def execRep (n : BitVec 15) (l st : BitVec 4) (s : State) : Host.Outcome State Fault Refusal :=
  .next (s.repeat [] (fun _ => n.toNat) l st)
def execRepReg (a : BitVec 5) (l st : BitVec 4) (s : State) : Host.Outcome State Fault Refusal :=
  .next (s.repeat [a] (fun vs => (arg vs 0).toNat) l st)

end Sys2Proof.Machine
end

