-- ==== Sys2Proof/Machine/Crypto.lean ====
section
/-!
DEFINITION. Sys2Proof/Machine/Crypto.lean: SHAKE256, the random streams made with it (R117, R118), and AES-256-GCM, which
CPY.T opens chunks with (R346).
-/

namespace Sys2Proof.Machine

/-! ## SHAKE256 -/

/-- The lane (x + 5 y) that pi brings lane x + 5 y to: (x, y) goes to (y, 2 x + 3 y). -/
def piLane (k : Nat) : Nat := k / 5 + 5 * ((2 * (k % 5) + 3 * (k / 5)) % 5)

/-- The moves of rho and pi along the walk that pi makes of the 24 lanes other than lane 0: where to, where from, and the rotation,
step t by (t + 1)(t + 2) / 2. -/
def rhoPi : Nat → Nat → List (Nat × Nat × Nat)
  | 0, _ => []
  | n + 1, k => (piLane k, k, (24 - n) * (25 - n) / 2 % 64) :: rhoPi n (piLane k)

/-- One step of the shift register of the round constants, x^8 + x^6 + x^5 + x^4 + 1. -/
def rcShift (r : Nat) : Nat := if 128 ≤ r then (2 * r) % 256 ^^^ 0x71 else 2 * r

/-- A round constant: the register's next seven bits stand at bits 2^j - 1. -/
def rcBits : Nat → Nat → Nat → Nat × Nat
  | 0, r, v => (r, v)
  | n + 1, r, v => rcBits n (rcShift r) (v + r % 2 * 2 ^ (2 ^ (6 - n) - 1))

/-- The constants of n rounds from a state of the register on. -/
def roundConsts : Nat → Nat → List Word
  | 0, _ => []
  | n + 1, r => word (rcBits 7 r 0).2 :: roundConsts n (rcBits 7 r 0).1

/-- theta: every lane takes the parity of the column before it, and that of the column after it rotated by one. -/
def theta (a : List Word) : List Word :=
  let par (x : Nat) : Word := (List.range 5).foldl (fun p y => p ^^^ a.getD (x % 5 + 5 * y) 0) 0
  let mix := (List.range 5).map fun x => par (x + 4) ^^^ (par (x + 1)).rotateLeft 1
  (List.range 25).map fun k => a.getD k 0 ^^^ mix.getD (k % 5) 0

/-- chi: a lane takes what the next lane of its row lets through of the one after. -/
def chi (a : List Word) : List Word :=
  (List.range 25).map fun k =>
    let row (j : Nat) : Word := a.getD (k - k % 5 + (k + j) % 5) 0
    a.getD k 0 ^^^ (row 2 &&& ~~~row 1)

/-- One round on the 25 lanes. -/
def keccakRound (moves : List (Nat × Nat × Nat)) (a : List Word) (rc : Word) : List Word :=
  let t := theta a
  let e := chi (moves.foldl (fun b m => setAt b m.1 ((t.getD m.2.1 0).rotateLeft m.2.2)) t)
  setAt e 0 (e.getD 0 0 ^^^ rc)

/-- The permutation of SHAKE256: 24 rounds. -/
def keccakF (a : List Word) : List Word := (roundConsts 24 1).foldl (keccakRound (rhoPi 24 1)) a

/-- The 17 lanes of a rate block of 136 bytes. -/
def blockLanes : Nat → List Byte → List Word
  | 0, _ => []
  | n + 1, l => word (bytesNat (l.take 8)) :: blockLanes n (l.drop 8)

/-- The padded message absorbed block by block. -/
def absorb : Nat → List Word → List Byte → List Word
  | 0, a, _ => a
  | n + 1, a, l =>
    let lanes := blockLanes 17 (l.take 136)
    absorb n (keccakF ((List.range 25).map fun i => a.getD i 0 ^^^ lanes.getD i 0)) (l.drop 136)

/-- The first n bytes (at most 136) of SHAKE256 of a message. -/
def shake256 (n : Nat) (m : List Byte) : List Byte :=
  let blocks := m.length / 136 + 1
  let pad := blocks * 136 - m.length
  let tail : List Byte := if pad = 1 then [0x9F] else 0x1F :: (List.replicate (pad - 2) 0 ++ [0x80])
  ((absorb blocks (List.replicate 25 0) (m ++ tail)).flatMap fun w => natBytes 8 w.toNat).take n

/-! ## Random streams (R117, R118) -/

/-- Number of a step of a stream with a launch key and a stream id. -/
def streamStep (key : BitVec 256) (id : List Byte) (n : Nat) : Nat :=
  bytesNat (shake256 16 (natBytes 32 key.toNat ++ id ++ natBytes 8 n))

/-- The stream id of the present context. -/
def State.streamId (s : State) : List Byte :=
  let m : List Byte := match s.inHandler, s.me.run with
    | true, some r => 2 :: (natBytes 1 r.chan.toNat ++ natBytes 2 (r.sender.toNat / 4) ++ natBytes 8 r.seq.toNat)
    | _, _ => 1 :: (natBytes 8 s.me.id.wid.toNat ++ natBytes 16 s.me.id.path.toNat)
  shake256 16 m

/-- The i-th draw of the steps an instruction takes from the present counter on: four to a step. -/
def State.draw (s : State) (i : Nat) : Nat :=
  streamStep s.me.launch.key s.streamId ((s.csr Csr.rngctr).toNat + i / 4) / 2 ^ (32 * (i % 4)) % 2 ^ 32

/-- The draws of k steps, in order. -/
def State.draws (s : State) (k : Nat) : List Nat :=
  let id := s.streamId
  (List.range k).flatMap fun j =>
    let v := streamStep s.me.launch.key id ((s.csr Csr.rngctr).toNat + j)
    (List.range 4).map fun i => v / 2 ^ (32 * i) % 2 ^ 32

/-- k steps would pass the end of the stream: RANDWRAP (R118). -/
def State.randWraps (s : State) (k : Nat) : Bool := decide (2 ^ 64 < (s.csr Csr.rngctr).toNat + k)

/-- The counter advanced by the steps an instruction has taken; after the last step of the stream it reads 0 (log 140). -/
def State.advanceRng (s : State) (k : Nat) : State := s.setCsr Csr.rngctr (s.csr Csr.rngctr + word k)

/-! ## AES-256-GCM -/

/-- Product in GF(2^8) with the polynomial x^8 + x^4 + x^3 + x + 1. -/
def gmul8 : Nat → Byte → Byte → Byte
  | 0, _, _ => 0
  | n + 1, a, b =>
    let r := gmul8 n (if a.getLsbD 7 then (a <<< 1) ^^^ 0x1B else a <<< 1) (b >>> 1)
    if b.getLsbD 0 then r ^^^ a else r

/-- a to the power 254: the inverse, and 0 for 0. -/
def ginv8 (a : Byte) : Byte :=
  let m := gmul8 8
  let a2 := m a a
  let a3 := m a2 a
  let a6 := m a3 a3
  let a7 := m a6 a
  let a14 := m a7 a7
  let a15 := m a14 a
  let a30 := m a15 a15
  let a31 := m a30 a
  let a62 := m a31 a31
  let a63 := m a62 a
  let a126 := m a63 a63
  let a127 := m a126 a
  m a127 a127

/-- The AES S-box. -/
def sbox (a : Byte) : Byte :=
  let b := ginv8 a
  b ^^^ b.rotateLeft 1 ^^^ b.rotateLeft 2 ^^^ b.rotateLeft 3 ^^^ b.rotateLeft 4 ^^^ 0x63

/-- Words of the AES-256 key schedule, four bytes each, newest last: step i from 8 on. -/
def expandKey : Nat → Nat → Byte → List (List Byte) → List (List Byte)
  | 0, _, _, ws => ws
  | n + 1, i, rc, ws =>
    let t := ws.getD (i - 1) []
    let b (j : Nat) : Byte := t.getD j 0
    let u : List Byte :=
      if i % 8 = 0 then [sbox (b 1) ^^^ rc, sbox (b 2), sbox (b 3), sbox (b 0)]
      else if i % 8 = 4 then [sbox (b 0), sbox (b 1), sbox (b 2), sbox (b 3)] else t
    let rc' := if i % 8 = 0 then gmul8 8 rc 2 else rc
    expandKey n (i + 1) rc' (ws ++ [(List.range 4).map fun j => (ws.getD (i - 8) []).getD j 0 ^^^ u.getD j 0])

/-- The 15 round keys of a 32-byte key, 16 bytes each. -/
def roundKeys (key : List Byte) : List (List Byte) :=
  let w0 := (List.range 8).map fun i => (key.drop (4 * i)).take 4
  let ws := expandKey 52 8 1 w0
  (List.range 15).map fun r => ((ws.drop (4 * r)).take 4).flatten

def xorBytes (a b : List Byte) : List Byte := List.zipWith (· ^^^ ·) a b

/-- SubBytes and ShiftRows. -/
def subShift (st : List Byte) : List Byte :=
  (List.range 16).map fun k => sbox (st.getD ((k / 4 + k % 4) % 4 * 4 + k % 4) 0)

/-- MixColumns. -/
def mixColumns (st : List Byte) : List Byte :=
  (List.range 16).map fun k =>
    let c (j : Nat) : Byte := st.getD (k / 4 * 4 + (k % 4 + j) % 4) 0
    gmul8 8 (c 0) 2 ^^^ gmul8 8 (c 1) 3 ^^^ c 2 ^^^ c 3

/-- One AES-256 block encryption. -/
def aesEncrypt (rk : List (List Byte)) (blk : List Byte) : List Byte :=
  let st := xorBytes blk (rk.getD 0 [])
  let st := (List.range 13).foldl (fun st r => xorBytes (mixColumns (subShift st)) (rk.getD (r + 1) [])) st
  xorBytes (subShift st) (rk.getD 14 [])

/-- Big-endian value of bytes. -/
def beNat (l : List Byte) : Nat := l.foldl (fun v b => v * 256 + b.toNat) 0

/-- The n big-endian bytes of a number. -/
def beBytes (n v : Nat) : List Byte := (natBytes n v).reverse

/-- Product in GF(2^128) as GCM orders bits: bit 127 of the number is the coefficient of x^0. -/
def gmul128 : Nat → BitVec 128 → BitVec 128 → BitVec 128
  | 0, _, _ => 0
  | n + 1, v, y =>
    let v' := if v.getLsbD 0 then (v >>> 1) ^^^ (0xE1 <<< 120) else v >>> 1
    let r := gmul128 n v' (y <<< 1)
    if y.getLsbD 127 then r ^^^ v else r

/-- GHASH over whole blocks (the last one padded with zeros); fuel bounds their number. -/
def ghash (h : BitVec 128) : Nat → BitVec 128 → List Byte → BitVec 128
  | 0, y, _ => y
  | n + 1, y, l =>
    if l.isEmpty then y
    else
      let blk := l.take 16
      let x := BitVec.ofNat 128 (beNat (blk ++ List.replicate (16 - blk.length) 0))
      ghash h n (gmul128 128 h (y ^^^ x)) (l.drop 16)

/-- CTR mode from a counter block on. -/
def aesCtr (rk : List (List Byte)) (iv : List Byte) : Nat → Nat → List Byte → List Byte
  | 0, _, _ => []
  | n + 1, c, l =>
    if l.isEmpty then []
    else xorBytes (l.take 16) (aesEncrypt rk (iv ++ beBytes 4 c)) ++ aesCtr rk iv n (c + 1) (l.drop 16)

/-- The GCM tag of additional data and ciphertext under a 12-byte IV. -/
def gcmTag (rk : List (List Byte)) (iv aad ct : List Byte) : List Byte :=
  let h := BitVec.ofNat 128 (beNat (aesEncrypt rk (List.replicate 16 0)))
  let y := ghash h (aad.length / 16 + 1) 0 aad
  let y := ghash h (ct.length / 16 + 1) y ct
  let y := gmul128 128 h (y ^^^ BitVec.ofNat 128 (aad.length * 8 * 2 ^ 64 + ct.length * 8))
  xorBytes (beBytes 16 y.toNat) (aesEncrypt rk (iv ++ beBytes 4 1))

/-- AES-256-GCM opening: the plaintext, or none when the tag does not verify. -/
def gcmOpen (key : BitVec 256) (iv aad ct tag : List Byte) : Option (List Byte) :=
  let rk := roundKeys (natBytes 32 key.toNat)
  if gcmTag rk iv aad ct = tag then some (aesCtr rk iv (ct.length / 16 + 1) 2 ct) else none

end Sys2Proof.Machine
end

