-- ==== Sys2Proof/Machine/Aster.lean ====
section
/-!
DEFINITION. Sys2Proof/Machine/Aster.lean: the Aster block formats (R107 to R111, R114) and the four functions of R127.
-/

namespace Sys2Proof.Machine

/-! ## Blocks (R107) -/

/-- Bytes of an Aster block's elements: 16, 24 or 32. -/
def blockBytes (f : Nat) : Nat := 4 * elemBits f

/-- Fraction bits of the small-float magnitudes (R110). -/
def smallFrac (w : Nat) : Nat :=
  match w with
  | 4 => 0
  | 6 => 2
  | _ => 3

/-- The largest magnitude code. -/
def topCode (w : Nat) : Nat := 2 ^ (w - 2) - 1

/-- Scale gap G of R110. -/
def scaleGap (w : Nat) : Nat :=
  match w with
  | 4 => 3
  | 6 => 4
  | _ => 6

/-- c of R110. -/
def scaleC (w tag : Nat) : Int :=
  match w, tag with
  | 4, 0 => 1
  | 4, _ => 2
  | 6, 0 => 3
  | 6, _ => 2
  | _, 0 => 5
  | _, _ => 6

/-- Magnitude of a code as mag * 2^exp (R110). -/
def magnitude (w tag m : Nat) : Nat × Int :=
  if tag = 0 then (m, 0)
  else
    let fb := smallFrac w
    let e := m / 2 ^ fb
    if e = 0 then (m, -(fb : Int)) else (2 ^ fb + m % 2 ^ fb, (e : Int) - 1 - fb)

/-- TAG, E0 and E1 of a header (R108). -/
def hdrTag (h : Nat) : Nat := h / 2 ^ 30 % 4
def hdrE (h k : Nat) : Nat := if k = 0 then h / 2 ^ 21 % 512 else h / 2 ^ 12 % 512

/-- The value of an element (R111), for a header whose tag is not 10. -/
def asterValue (w h x : Nat) : Val :=
  let neg := x / 2 ^ (w - 1) % 2 == 1
  let e := hdrE h (x / 2 ^ (w - 2) % 2)
  if hdrTag h = 3 then .fin {}
  else if e = 511 then .nan false
  else if e = 0 then .fin (Dy.zero neg)
  else
    let (m, k) := magnitude w (hdrTag h) (x % 2 ^ (w - 2))
    .fin { neg := neg, mag := m, exp := k + e - 256 }

/-! ## Conversion into a block (R114) -/

/-- A finite value on the grid of scale E, before saturation: magnitude code and whether it is inexact. -/
def asterGrid (w tag : Nat) (rm : Rm) (u : Nat) (e : Nat) (d : Dy) : Nat × Bool :=
  let d : Dy := { d with exp := d.exp - ((e : Int) - 256) }
  if d.mag = 0 then (0, false)
  else
    let fb : Int := if tag = 0 then 0 else smallFrac w
    let q : Int := if tag = 0 then 0 else max (d.exp + (bitLen d.mag : Int) - 1) 0 - fb
    -- code of n units at q: n for the linear magnitudes, as IEEE for the small floats
    let base := if tag = 0 then 0 else (q + fb).toNat * 2 ^ fb.toNat
    if q ≤ d.exp then (d.mag * 2 ^ (d.exp - q).toNat + base, d.sticky)
    else
      let sh := (q - d.exp).toNat
      let n := d.mag / 2 ^ sh
      let rem := d.mag % 2 ^ sh
      (n + base + bnat (roundsUp rm u d.neg (n + base) rem sh d.sticky), rem != 0 || d.sticky)

/-- The exact value of a code under scale E. -/
def asterDy (w tag e : Nat) (neg : Bool) (m : Nat) : Dy :=
  let (g, k) := magnitude w tag m
  { neg := neg, mag := g, exp := k + e - 256 }

/-- |x - q| as a magnitude, exactly. -/
def Dy.gap (x q : Dy) : Dy := { x.add .rne { q with neg := !q.neg } with neg := false }

/-- Largest magnitude M_max at scale E is at least |d|. -/
def scaleHolds (w tag e : Nat) (d : Dy) : Bool :=
  decide (({ d with neg := false } : Dy).cmp (asterDy w tag e false (topCode w)) ≤ 0)

/-- E0 of R114 for the largest finite magnitude of a block. -/
def leastScale (w tag : Nat) (d : Dy) : Nat :=
  let (tm, te) := magnitude w tag (topCode w)
  let guess : Int := d.exp + (bitLen d.mag : Int) - te - (bitLen tm : Int) + 256
  let clamp (v : Int) : Nat := if v < 1 then 1 else if 510 < v then 510 else v.toNat
  if scaleHolds w tag (clamp (guess - 1)) d then clamp (guess - 1)
  else if scaleHolds w tag (clamp guess) d then clamp guess else clamp (guess + 1)

/-- Largest magnitude among finite values that are not zero. -/
def largest (xs : List Val) : Option Dy :=
  xs.foldl (fun best v =>
    match v with
    | .fin d =>
      if d.mag = 0 then best
      else
        let d := { d with neg := false }
        match best with
        | none => some d
        | some b => if b.cmp d < 0 then some d else best
    | _ => best) none

/-- One element converted under the scales of its block (R114): its code word and flags (R125). -/
def asterElem (w tag : Nat) (rm : Rm) (u : Nat) (nan : Bool) (e0 e1 : Nat) (v : Val) : Nat × BitVec 5 :=
  let pack (neg : Bool) (sel code : Nat) : Nat := bnat neg * 2 ^ (w - 1) + sel * 2 ^ (w - 2) + code
  match v with
  | .nan _ => (pack false 1 0, 0)
  | .inf n => (pack n 0 (topCode w), flOF ||| flNX)
  | .fin d =>
    let sat (e : Nat) (rm : Rm) (u : Nat) : Nat := min (asterGrid w tag rm u e d).1 (topCode w)
    let q (e : Nat) : Dy := asterDy w tag e d.neg (sat e .rne 0)
    let sel := if !nan && decide ((d.gap (q e1)).cmp (d.gap (q e0)) < 0) then 1 else 0
    let e := if sel = 1 then e1 else e0
    let x := asterGrid w tag rm u e d
    let above := decide (topCode w < x.1)
    let inexact := x.2 || above
    (pack d.neg sel (min x.1 (topCode w)), (if inexact then flNX else 0) ||| (if above then flOF else 0))

/-- A finite value is zero. -/
def Val.isZeroDy : Val → Bool
  | .fin d => d.mag == 0
  | _ => false

/-- 32 exact values converted into a block (R114): header, code words, and flags by element. -/
def asterBlock (w tag : Nat) (rm : Rm) (us : List Nat) (xs : List Val) : Nat × List Nat × List (BitVec 5) :=
  if xs.all Val.isZeroDy then (0xC0000000, List.replicate 32 0, List.replicate 32 0)
  else
    let nan := xs.any Val.isNan
    let e0 := match largest xs with
      | none => 510
      | some d => leastScale w tag d
    let e1 := if nan then 511 else max (e0 - scaleGap w) 1
    let es := (xs.zip us).map fun x => asterElem w tag rm x.2 nan e0 e1 x.1
    (tag * 2 ^ 30 + e0 * 2 ^ 21 + e1 * 2 ^ 12, es.map (·.1), es.map (·.2))

/-! ## The functions of R127 -/

/-- Fixed-point one of the series below. -/
def fix : Nat := 2 ^ 200

/-- Sum of z^(2i+1)/(2i+1) from a term on: atanh of a fixed-point z below 1/2. -/
def atanhFrom : Nat → Int → Int → Nat → Int
  | 0, _, _, _ => 0
  | n + 1, p, z2, k => p / (k : Int) + atanhFrom n (p * z2 / (fix : Int)) z2 (k + 2)

/-- 2 atanh(num / den). -/
def twoAtanh (num den : Int) : Int :=
  let z := num * fix / den
  2 * atanhFrom 130 z (z * z / fix) 1

/-- ln 2. -/
def ln2 : Int := twoAtanh 1 3

/-- Sum of r^i/i! from a term on. -/
def expFrom : Nat → Int → Int → Nat → Int
  | 0, _, _, _ => 0
  | n + 1, t, r, i => t + expFrom n (t * r / (fix : Int) / (i : Int)) r (i + 1)

/-- e^x of a finite x that is not zero, to at least 80 bits and a sticky bit. -/
def expDy (x : Dy) : Dy :=
  let top : Int := x.exp + (bitLen x.mag : Int) - 1
  if top < -60 then
    (if x.neg then { mag := 2 ^ 100 - 1, exp := -100, sticky := true } else { mag := 2 ^ 100, exp := -100, sticky := true })
  else if 8 ≤ top then
    (if x.neg then { mag := 2 ^ 100, exp := -500, sticky := true } else { mag := 2 ^ 100, exp := 300, sticky := true })
  else
    let m : Int := (if x.neg then -1 else 1) * (x.mag : Int)
    let v : Int := m * (2 ^ (x.exp + 200).toNat : Nat)
    let k := v / ln2
    let r := v - k * ln2
    { mag := (expFrom 70 fix r 1 / (2 ^ 80 : Nat)).toNat, exp := k - 120, sticky := true }

/-- ln x of a finite x above 0 that is not 1, to at least 80 bits and a sticky bit. -/
def lnDy (x : Dy) : Dy :=
  let n := bitLen x.mag
  -- x = (mag / 2^n) * 2^(exp + n) with mag / 2^n in [1/2, 1); above 3/4 that is kept, else doubled
  let (den, e) := if 3 * 2 ^ n ≤ 4 * x.mag then ((2 ^ n : Nat), x.exp + n) else ((2 ^ n / 2 : Nat), x.exp + n - 1)
  let num : Int := (x.mag : Int) - den
  let v := e * ln2 + (if num = 0 then 0 else twoAtanh num ((x.mag : Int) + den))
  { neg := decide (v < 0), mag := v.natAbs / 2 ^ 60, exp := -140, sticky := true }

/-- 1/√x of a finite x above 0. -/
def rsqrtDy (x : Dy) : Dy :=
  let (m, e) := if x.exp % 2 = 0 then (x.mag, x.exp) else (2 * x.mag, x.exp - 1)
  let r := isqrt (2 ^ 240 / m)
  { mag := r, exp := -120 - e / 2, sticky := r * r * m != 2 ^ 240 }

/-- TEXP 0, TRCP 1, TRSQ 2 and TLOG 3 on a BF16 value (R127): exact value and flags of the special cases. -/
def special (op : Nat) (v : Val) : Val × BitVec 5 :=
  match v with
  | .nan _ => (.nan false, sigFlag [v])
  | .inf n =>
    match op with
    | 0 => (if n then .fin {} else .inf false, 0)
    | 1 => (.fin (Dy.zero n), 0)
    | 2 => if n then (.nan false, flNV) else (.fin {}, 0)
    | _ => if n then (.nan false, flNV) else (.inf false, 0)
  | .fin d =>
    if d.mag = 0 then
      match op with
      | 0 => (.fin { mag := 1 }, 0)
      | 3 => (.inf true, flDZ)
      | _ => (.inf d.neg, flDZ)
    else
      match op with
      | 0 => (.fin (expDy d), 0)
      | 1 => (.fin (({ mag := 1 } : Dy).div d), 0)
      | 2 => if d.neg then (.nan false, flNV) else (.fin (rsqrtDy d), 0)
      | _ =>
        if d.neg then (.nan false, flNV)
        else if d.cmp { mag := 1 } = 0 then (.fin {}, 0) else (.fin (lnDy d), 0)

end Sys2Proof.Machine
end

