-- ==== Sys2Proof/Machine/Tile.lean ====
section
/-!
DEFINITION. Sys2Proof/Machine/Tile.lean: shapes, tile registers as elements, masks, and the tile instructions that reach no
memory (R177, R182, R183, R293 to R311, R318).
-/

namespace Sys2Proof.Machine

/-! ## Positions of a shape -/

def Shape.size (x : Shape) : Nat := x.rows * x.cols

/-- A position lies in the valid extent of its register. -/
def Shape.inside (x : Shape) (i : Nat) : Bool := decide (i / x.cols < x.vrows) && decide (i % x.cols < x.vcols)

/-- Number of a position of register k of a group among the positions of the extent, row-major (R299). -/
def Shape.order (x : Shape) (k i : Nat) : Nat := (k * x.vrows + i / x.cols) * x.vcols + i % x.cols

/-- The same rows, columns and extents. -/
def Shape.sameSize (x y : Shape) : Bool :=
  x.rows == y.rows && x.cols == y.cols && x.vrows == y.vrows && x.vcols == y.vcols

/-! ## Tile registers -/

/-- A register number under the renaming of the repeat stream (R177). -/
def State.rename (s : State) (n : Nat) : Nat :=
  if s.cur.rep && decide (16 ≤ n) then 16 + (n - 16 + bits (s.csr Csr.reppos) 47 32 * bits (s.csr Csr.reppos) 59 56) % 16
  else n

/-- The registers of a tile operand field of 7 bits (R221): number and width. -/
def State.group (s : State) (f : BitVec 7) : List Nat :=
  (List.range (2 ^ (f.toNat % 4))).map fun k => s.rename (f.toNat / 4 + k)

/-- The registers of a TB field, which takes the width of TA (R221). -/
def State.groupB (s : State) (b : BitVec 5) (a : BitVec 7) : List Nat :=
  (List.range (2 ^ (a.toNat % 4))).map fun k => s.rename (b.toNat + k)

/-- Width of a tile operand field. -/
def width (f : BitVec 7) : Nat := f.toNat % 4

def State.tile (s : State) (n : Nat) : Tile := s.myCore.tiles.getD n {}

/-- Tile registers written. -/
def State.putTiles (s : State) (l : List (Nat × Tile)) : State :=
  s.modMyCore fun c => { c with tiles := l.foldl (fun m x => m.set x.1 x.2) c.tiles }

/-- An element on its way: the bits of a plain format, an exact value (Aster), or an element of a block with tag 10. -/
inductive Cell where
  | bits (n : Nat)
  | val (v : Val)
  | bad
deriving DecidableEq, Repr, Inhabited

def Cell.isBad : Cell → Bool
  | .bad => true
  | _ => false

/-- The exact value of bits in a plain format (R107). -/
def plainVal (fmt n : Nat) : Val :=
  match fmt with
  | 1 => Fmt.bf16.value n
  | 2 => Fmt.f32.value n
  | _ => intVal (sext (elemBits fmt) n)

def Cell.toVal (fmt : Nat) : Cell → Val
  | .bits n => plainVal fmt n
  | .val v => v
  | .bad => .nan false

/-- n fields of w bits of a plane, from a bit offset on. -/
def fields (plane w off n : Nat) : List Nat := (List.range n).map fun j => plane / 2 ^ (off + w * j) % 2 ^ w

/-- Fields of w bits put together. -/
def joinFields (w : Nat) (l : List Nat) : Nat := l.foldr (fun v acc => v + 2 ^ w * acc) 0

/-- The 32 elements of a block from its code words and header (R111). -/
def blockCells (w hdr : Nat) (codes : List Nat) : List Cell :=
  if hdrTag hdr = 2 then List.replicate 32 .bad else codes.map fun x => .val (asterValue w hdr x)

/-- Zero in a format. -/
def zeroCell (fmt : Nat) : Cell := if isAster fmt then .val (.fin {}) else .bits 0

/-- The elements of a register under a shape, row-major over ROWS x COLS; positions outside the extent read zero, or as
stored when `whole` (R183, R309). -/
def readTile (x : Shape) (whole : Bool) (t : Tile) : List Cell :=
  let w := elemBits x.fmt
  if isAster x.fmt then
    (List.range (x.size / 32)).flatMap fun q =>
      if whole || x.inside (32 * q) then
        blockCells w (bits t.scale (32 * q + 31) (32 * q)) (fields t.data.toNat w (32 * w * q) 32)
      else List.replicate 32 (.val (.fin {}))
  else
    ((fields t.data.toNat w 0 x.size).zipIdx).map fun y => .bits (if whole || x.inside y.2 then y.1 else 0)

/-- Some block that holds an element inside the extent has tag 10 (R297). -/
def Shape.badSource (x : Shape) (cells : List Cell) : Bool := (cells.zipIdx).any fun y => y.1.isBad && x.inside y.2

/-- The mask that the data plane of a mask register gives. -/
def planeOn (m : BitVec 3) (d : BitVec 16384) : Nat → Bool := if m = 0 then fun _ => true else fun i => bit d i

/-- A mask: whether a position is written. MASK = 000 writes every position (R295). -/
def State.maskOn (s : State) (m : BitVec 3) : Nat → Bool := planeOn m (s.tile (24 + m.toNat)).data

/-- How a destination register is written: its shape, whether a position takes the result, the policy bit, whether
positions outside the extent are written too (TSQZ), the rounding mode and the draw of a position. -/
structure Dest where
  shape : Shape
  on : Nat → Bool
  zero : Bool
  whole : Bool := false
  rm : Rm := .rne
  draw : Nat → Nat

/-- One block of an Aster destination (R298): header and code words, and the flags of its written positions, none outside the
extent (R125); `none` is the format fault. -/
def Dest.block (d : Dest) (old : Tile) (new : List Cell) (q : Nat) : Option (Nat × List Nat × BitVec 5) :=
  let w := elemBits d.shape.fmt
  let zeroBlock := some (0xC0000000, List.replicate 32 0, 0)
  let hdr := bits old.scale (32 * q + 31) (32 * q)
  let codes := fields old.data.toNat w (32 * w * q) 32
  let ons := (List.range 32).map fun j => d.on (32 * q + j)
  if !(d.whole || d.shape.inside (32 * q)) then zeroBlock
  else if ons.all (! ·) then (if d.zero then zeroBlock else some (hdr, codes, 0))
  else if !d.zero && hdrTag hdr == 2 && !ons.all id then none
  else
    let olds := blockCells w hdr codes
    let xs := ((ons.zip new).zip olds).map fun y =>
      if y.1.1 then y.1.2.toVal 0 else if d.zero then .fin {} else y.2.toVal 0
    let b := asterBlock w 1 d.rm ((List.range 32).map fun j => d.draw (32 * q + j)) xs
    some (b.1, b.2.1,
      if d.shape.inside (32 * q) then ((ons.zip b.2.2).map fun y => if y.1 then y.2 else 0).foldl (· ||| ·) 0 else 0)

/-- A plane with its low bits replaced. -/
def lowBits {n : Nat} (old : BitVec n) (k v : Nat) : BitVec n := BitVec.ofNat n (old.toNat / 2 ^ k * 2 ^ k + v)

/-- A destination register written with the elements given for its positions (R295, R298). -/
def Dest.write (d : Dest) (old : Tile) (new : List Cell) : Option (Tile × BitVec 5) :=
  let x := d.shape
  let w := elemBits x.fmt
  if isAster x.fmt then
    let nb := x.size / 32
    let blocks := (List.range nb).map fun q => d.block old ((new.drop (32 * q)).take 32) q
    if blocks.any (·.isNone) then none
    else
      let bs := blocks.map (·.getD (0, [], 0))
      some ({ data := lowBits old.data (32 * w * nb) (joinFields (32 * w) (bs.map fun b => joinFields w b.2.1))
              scale := lowBits old.scale (32 * nb) (joinFields 32 (bs.map (·.1))) },
        bs.foldl (fun f b => f ||| b.2.2) 0)
  else
    let olds := fields old.data.toNat w 0 x.size
    let vals := ((new.zip olds).zipIdx).map fun y =>
      let v := match y.1.1 with
        | .bits n => n
        | _ => 0
      if d.whole || x.inside y.2 then (if d.on y.2 then v else if d.zero then 0 else y.1.2) else 0
    some ({ old with data := lowBits old.data (w * x.size) (joinFields w vals) }, 0)

/-- The registers of a group written one after the other. -/
def writeGroup (old : Nat → Tile) (d : Nat → Dest) : Nat → List (Nat × List Cell) → Option (List (Nat × Tile) × BitVec 5)
  | _, [] => some ([], 0)
  | k, (n, cells) :: l =>
    match (d k).write (old n) cells, writeGroup old d (k + 1) l with
    | some (t, f), some (ts, g) => some ((n, t) :: ts, f ||| g)
    | _, _ => none

/-! ## Rounding an exact result into a format (R298) -/

/-- A value rounded into a format, with flags; an Aster destination rounds when its block is encoded. Integer results
saturate without a flag when the source is an integer, and by R115 otherwise. -/
def roundCell (fmt : Nat) (intSrc : Bool) (rm : Rm) (u : Nat) (v : Val × BitVec 5) : Cell × BitVec 5 :=
  match fmt with
  | 1 => let r := Fmt.bf16.result rm u v; (.bits r.1, r.2)
  | 2 => let r := Fmt.f32.result rm u v; (.bits r.1, r.2)
  | 3 => int 8
  | 4 => int 16
  | 5 => int 32
  | _ => (.val v.1, v.2)
where
  int (n : Nat) : Cell × BitVec 5 :=
    let r := v.1.toInt rm u (-2 ^ (n - 1)) (2 ^ (n - 1) - 1)
    (.bits (r.1 % (2 ^ n : Nat)).toNat, if intSrc then 0 else r.2)

/-- FMIN and FMAX on exact values (R255, R301). -/
def Val.minmax (big : Bool) (a b : Val) : Val × BitVec 5 :=
  let fl := sigFlag [a, b]
  if a.isNan && b.isNan then (.nan false, fl)
  else if a.isNan then (b, fl)
  else if b.isNan then (a, fl)
  else
    let c := a.cmp b
    let aLess := decide (c < 0) || (c == 0 && a.neg? && !b.neg?)
    (if aLess != big then a else b, fl)

/-! ## The checks of R297 -/

/-- What an instruction asks of E4 and its shapes: whether it reads RM for a destination format, whether stochastic rounding
is forbidden, whether HB describes its destination, and the agreement of shapes and widths. -/
structure TileForm where
  readsRm : Nat → Bool
  noSr : Bool := false
  useB : Bool := false
  agree : Shape → Shape → Bool
  /-- it writes a mask: every bit of its destination's data plane (R306) -/
  mask : Bool := false

/-- Steps 1 to 4 of R297. -/
def State.tileChecks (s : State) (f : TileForm) (k : Shape → Shape → Rm → State → State) : State :=
  if s.inHandler then s.trap causeIllegal
  else
    let e := s.readE 4
    if e4Reserved e then s.trap causeOperand
    else
      let a := shapeOf (s.readH (bits e 2 0))
      let b := shapeOf (s.readH (bits e 6 4))
      let rm := bits e 10 8
      let reads := f.readsRm (if f.useB then b.fmt else a.fmt)
      if reads && (decide (5 ≤ rm) || (rm == 4 && f.noSr)) then s.trap causeIllegal
      else if !(a.valid && (!f.useB || b.valid) && f.agree a b) then s.trap causeOperand
      else k a b (if reads then Rm.of rm else .rne) s

/-- What an access of a tile register touches (R100): its number, and how many words of 8 B from the start of its data plane and of its
scale plane. -/
structure TileUse where
  reg : Nat
  data : Nat
  scale : Nat := 0
deriving DecidableEq, Repr, Inhabited

/-- A word of the core's tile registers, numbered by 320 * register + word with the scale plane from word 256 on, is touched. -/
def tileHit (l : List TileUse) (w : Nat) : Bool :=
  l.any fun u => w / 320 == u.reg && (decide (w % 320 < min 256 u.data) || (decide (256 ≤ w % 320) && decide (w % 320 < 256 + u.scale)))

/-- The words that hold the elements of a shape in each of its registers: every such word, or those that it covers whole. -/
def Shape.uses (x : Shape) (regs : List Nat) : List TileUse :=
  regs.map fun n =>
    { reg := n, data := (elemBits x.fmt * x.size + 63) / 64, scale := if isAster x.fmt then (x.size + 63) / 64 else 0 }
def Shape.covers (x : Shape) (regs : List Nat) : List TileUse :=
  regs.map fun n => { reg := n, data := elemBits x.fmt * x.size / 64, scale := if isAster x.fmt then x.size / 64 else 0 }

/-- The words of a mask register that hold the bits of a shape's positions. -/
def Shape.maskUse (x : Shape) (m : BitVec 3) : List TileUse :=
  if m = 0 then [] else [{ reg := 24 + m.toNat, data := (x.size + 63) / 64 }]

/-- An uncorrectable error in a word of a tile register that the instruction reads (R101, R102). -/
def State.tileErr (s : State) (l : List TileUse) : Bool := s.myCore.badTiles.any (tileHit l)

/-- Words written whole take fresh check bits (R100). -/
def State.tileFresh (s : State) (l : List TileUse) : State :=
  s.modMyCore fun c =>
    { c with
      badTiles := c.badTiles.filter fun w => !tileHit l w
      softTiles := c.softTiles.filter fun w => !tileHit l w }

/-- Correctable errors counted in the device (R100, R408). -/
def State.countSoft (s : State) (n : Nat) : State :=
  if n = 0 then s else s.modMyDie fun d => { d with eccCor := word (min (2 ^ 64 - 1) (d.eccCor.toNat + n)) }

/-- Correctable errors of the tile words that an instruction reads are corrected and counted (R100). -/
def State.tileCorrect (s : State) (l : List TileUse) : State :=
  let hits := s.myCore.softTiles.filter (tileHit l)
  if hits.isEmpty then s
  else (s.modMyCore fun c => { c with softTiles := c.softTiles.filter fun w => !tileHit l w }).countSoft hits.length

/-- What a tile instruction computes: the registers it writes, the flags it raises, and a count for a scalar destination.
`none` is the format fault. -/
abbrev TileResult := Option (List (Nat × Tile) × BitVec 5 × Nat)

/-- A tile instruction that reaches no memory: the checks of R297 in order, then its effect in one step (R296). `srcs` are
the registers it reads, `td` those it writes, `draws` the number of positions that draw when stochastic rounding or TRAND
asks for it. An erroneous operand traps after step 7 (log 147). -/
def State.tileOp (s : State) (f : TileForm) (sc : List (BitVec 5)) (dst : Option (BitVec 5)) (m : BitVec 3)
    (srcs td : List Nat) (always : Bool) (positions : Shape → Shape → Nat)
    (eff : Shape → Shape → Rm → (Nat → Nat) → List Word → State → TileResult) : State :=
  if wrongWay s.cur.rep sc dst then s.trap causeIllegal
  else s.needIdle fun s => s.tileChecks f fun a b rm s => s.withOps sc dst fun vs s =>
    let steps := if always || decide (rm = .sr) then (positions a b + 3) / 4 else 0
    if s.randWraps steps then s.trap causeRandWrap
    else if s.tileErr (reads a b) then (s.eccCount s.cur.die).trapReply (.mem 0 (merr0 0))
    else
      let s := s.tileCorrect (reads a b)
      let ds := (s.draws steps).toArray
      match eff a b rm (fun i => ds.getD i 0) vs s with
      | none => s.trap causeFormat
      | some (ts, fl, n) =>
        let s := (s.advanceRng steps).putTiles ts
        let s := if m = 0 || f.mask then s.tileFresh (writes a b) else s
        let s := match dst with
          | some d => s.put d (word n)
          | none => s
        (s.finish sc 4).raise fl
where
  /-- The tile words that the instruction reads: its sources, and where positions are masked off its mask and its destination. -/
  reads (a b : Shape) : List TileUse :=
    let d := if f.useB then b else a
    a.uses srcs ++ d.maskUse m ++
      if m = 0 then [] else if f.mask then td.map fun n => { reg := n, data := (d.size + 63) / 64 } else d.uses td
  /-- The words that it writes whole. -/
  writes (a b : Shape) : List TileUse :=
    if f.mask then td.map fun n => { reg := n, data := 256 } else (if f.useB then b else a).covers td
  /-- MERRINFO of an error in a register file of the core: WHERE alone. -/
  merr0 (w : Nat) : Word := word (field w 48)

/-! ## Elementwise forms (R300, R301, R307) -/

/-- Flags of the positions inside the extent that the mask writes (R125). -/
def keptFlags (x : Shape) (on : Nat → Bool) (l : List (Cell × BitVec 5)) : BitVec 5 :=
  (l.zipIdx).foldl (fun f y => if x.inside y.2 && on y.2 then f ||| y.1.2 else f) 0

/-- An effect on every position of the extent of the destination: sources by register, result of a position by its index,
the values there and its draw. -/
def State.elementwise (s : State) (a d : Shape) (rm : Rm) (draw : Nat → Nat) (m : BitVec 3) (zero : Bool) (td : List Nat)
    (srcs : List (List Nat)) (f : Nat → Nat → List Cell → Nat → Cell × BitVec 5) : TileResult :=
  let on := s.maskOn m
  let regs := (td.zipIdx).map fun y =>
    let cells := srcs.map fun g => readTile a false (s.tile (g.getD y.2 0))
    (y.1, y.2, cells)
  if regs.any fun r => r.2.2.any a.badSource then none
  else
    let outs := regs.map fun r =>
      (r.1, (List.range d.size).map fun i =>
        f r.2.1 i (r.2.2.map fun c => c.getD i (zeroCell a.fmt)) (if d.inside i then draw (d.order r.2.1 i) else 0))
    let fl := outs.foldl (fun fl o => fl ||| keptFlags d on o.2) 0
    (writeGroup s.tile (fun k => { shape := d, on := on, zero := zero, rm := rm, draw := fun i => draw (d.order k i) }) 0
      (outs.map fun o => (o.1, o.2.map (·.1)))).map fun r => (r.1, fl ||| r.2, 0)

/-- TADD to TFMA: an exact function of two or three values, rounded once (R298, R300). -/
def State.tileArith (s : State) (m : BitVec 3) (p : BitVec 1) (b : BitVec 5) (a d : BitVec 7) (fma : Bool)
    (op : Rm → Val → Val → Val → Val × BitVec 5) : Host.Outcome State Fault Refusal :=
  let ta := s.group a
  let tb := s.groupB b a
  let td := s.group d
  .next (s.tileOp { readsRm := fun _ => true, agree := fun _ _ => width d == width a } [] none m
    (ta ++ tb ++ if fma then td else []) td false (fun x _ => td.length * x.vrows * x.vcols)
    fun x _ rm draw _ s =>
      s.elementwise x x rm draw m (p == 1) td (if fma then [ta, tb, td] else [ta, tb]) fun _ _ cs u =>
        let v (j : Nat) : Val := (cs.getD j (zeroCell x.fmt)).toVal x.fmt
        roundCell x.fmt true rm u (op rm (v 0) (v 1) (v 2)))

def execTadd (m : BitVec 3) (p : BitVec 1) (b : BitVec 5) (a d : BitVec 7) (s : State) : Host.Outcome State Fault Refusal :=
  s.tileArith m p b a d false fun rm x y _ => x.add rm y
def execTsub (m : BitVec 3) (p : BitVec 1) (b : BitVec 5) (a d : BitVec 7) (s : State) : Host.Outcome State Fault Refusal :=
  s.tileArith m p b a d false fun rm x y _ => x.add rm y.negate
def execTmul (m : BitVec 3) (p : BitVec 1) (b : BitVec 5) (a d : BitVec 7) (s : State) : Host.Outcome State Fault Refusal :=
  s.tileArith m p b a d false fun _ x y _ => x.mul y
def execTfma (m : BitVec 3) (p : BitVec 1) (b : BitVec 5) (a d : BitVec 7) (s : State) : Host.Outcome State Fault Refusal :=
  s.tileArith m p b a d true fun rm x y z => Val.fma rm x y z

/-- The larger or smaller of two elements of a format (R255, R301). -/
def cellMinmax (fmt : Nat) (big : Bool) (x y : Cell) : Cell × BitVec 5 :=
  match fmt, x, y with
  | 1, .bits i, .bits j => let r := Fmt.bf16.minmax big i j; (.bits r.1, r.2)
  | 2, .bits i, .bits j => let r := Fmt.f32.minmax big i j; (.bits r.1, r.2)
  | _, _, _ => roundCell fmt true .rne 0 ((x.toVal fmt).minmax big (y.toVal fmt))

/-- TMAX and TMIN: exact for plain formats, re-encoded for Aster (R301). -/
def State.tileMinmax (s : State) (m : BitVec 3) (p : BitVec 1) (b : BitVec 5) (a d : BitVec 7) (big : Bool) :
    Host.Outcome State Fault Refusal :=
  let ta := s.group a
  let tb := s.groupB b a
  let td := s.group d
  .next (s.tileOp { readsRm := isAster, agree := fun _ _ => width d == width a } [] none m (ta ++ tb) td false
    (fun x _ => td.length * x.vrows * x.vcols)
    fun x _ rm draw _ s =>
      s.elementwise x x rm draw m (p == 1) td [ta, tb] fun _ _ cs _ =>
        cellMinmax x.fmt big (cs.getD 0 (zeroCell x.fmt)) (cs.getD 1 (zeroCell x.fmt)))

def execTmax (m : BitVec 3) (p : BitVec 1) (b : BitVec 5) (a d : BitVec 7) (s : State) : Host.Outcome State Fault Refusal :=
  s.tileMinmax m p b a d true
def execTmin (m : BitVec 3) (p : BitVec 1) (b : BitVec 5) (a d : BitVec 7) (s : State) : Host.Outcome State Fault Refusal :=
  s.tileMinmax m p b a d false

/-- TEXP, TRCP, TRSQ and TLOG on BF16 (R127, R300). -/
def State.tileFunc (s : State) (m : BitVec 3) (p : BitVec 1) (a d : BitVec 7) (op : Nat) : Host.Outcome State Fault Refusal :=
  let ta := s.group a
  let td := s.group d
  .next (s.tileOp { readsRm := fun _ => true, noSr := true, agree := fun x _ => width d == width a && x.fmt == 1 } [] none m
    ta td false (fun _ _ => 0)
    fun x _ rm draw _ s =>
      s.elementwise x x rm draw m (p == 1) td [ta] fun _ _ cs _ =>
        roundCell 1 false rm 0 (special op ((cs.getD 0 (.bits 0)).toVal 1)))

def execTexp (m : BitVec 3) (p : BitVec 1) (a d : BitVec 7) (s : State) : Host.Outcome State Fault Refusal := s.tileFunc m p a d 0
def execTrcp (m : BitVec 3) (p : BitVec 1) (a d : BitVec 7) (s : State) : Host.Outcome State Fault Refusal := s.tileFunc m p a d 1
def execTrsq (m : BitVec 3) (p : BitVec 1) (a d : BitVec 7) (s : State) : Host.Outcome State Fault Refusal := s.tileFunc m p a d 2
def execTlog (m : BitVec 3) (p : BitVec 1) (a d : BitVec 7) (s : State) : Host.Outcome State Fault Refusal := s.tileFunc m p a d 3

/-- TSEL: the mask selects (R307). -/
def execTsel (m : BitVec 3) (b : BitVec 5) (a d : BitVec 7) (s : State) : Host.Outcome State Fault Refusal :=
  let ta := s.group a
  let tb := s.groupB b a
  let td := s.group d
  .next (s.tileOp { readsRm := isAster, agree := fun _ _ => width d == width a } [] none 0
    (ta ++ tb ++ if m = 0 then [] else [24 + m.toNat]) td false (fun x _ => td.length * x.vrows * x.vcols)
    fun x _ rm draw _ s =>
      let on := s.maskOn m
      s.elementwise x x rm draw 0 false td [ta, tb] fun _ i cs _ => (cs.getD (if on i then 0 else 1) (zeroCell x.fmt), 0))

/-! ## Conversion, reduction, broadcast, transpose (R302 to R305) -/

/-- TCVT: exact copies between equal plain formats, otherwise R115 (R302). -/
def execTcvt (m : BitVec 3) (p : BitVec 1) (a d : BitVec 7) (s : State) : Host.Outcome State Fault Refusal :=
  let ta := s.group a
  let td := s.group d
  .next (s.tileOp
    { readsRm := fun _ => true, useB := true, agree := fun x y => x.sameSize y && width d == width a } [] none m ta td false
    (fun _ y => td.length * y.vrows * y.vcols)
    fun x y rm draw _ s =>
      s.elementwise x y rm draw m (p == 1) td [ta] fun _ _ cs u =>
        let c := cs.getD 0 (zeroCell x.fmt)
        if x.fmt == y.fmt && !isAster x.fmt then (c, 0)
        else roundCell y.fmt (isIntFmt x.fmt) rm u (c.toVal x.fmt, sigFlag [c.toVal x.fmt]))

/-- The exact sum of terms (R303): NaN wins, both infinities give NaN and NV; an empty sum is +0. -/
def sumVals (rm : Rm) (vs : List Val) : Val × BitVec 5 :=
  let pos := vs.any fun v => decide (v = .inf false)
  let neg := vs.any fun v => decide (v = .inf true)
  let sig := sigFlag vs
  if pos && neg then (.nan false, sig ||| flNV)
  else if vs.any Val.isNan then (.nan false, sig)
  else if pos then (.inf false, 0)
  else if neg then (.inf true, 0)
  else
    match vs with
    | [] => (.fin {}, 0)
    | v :: l => (l.foldl (fun acc x => (acc.add rm x).1) v, 0)

/-- The reduction of one row or column (R303): 0 sum, 1 max, 2 min; an empty one gives zero. A largest or smallest of one term is
that of the term with itself, so that a NaN comes out canonical (R116). -/
def reduceCells (fmt op : Nat) (rm : Rm) (u : Nat) (cs : List Cell) : Cell × BitVec 5 :=
  match op, cs with
  | _, [] => (zeroCell fmt, 0)
  | 0, _ => roundCell fmt true rm u (sumVals rm (cs.map (·.toVal fmt)))
  | 1, c :: l => l.foldl (fun acc x => let r := cellMinmax fmt true acc.1 x; (r.1, acc.2 ||| r.2)) (cellMinmax fmt true c c)
  | _, c :: l => l.foldl (fun acc x => let r := cellMinmax fmt false acc.1 x; (r.1, acc.2 ||| r.2)) (cellMinmax fmt false c c)

/-- The elements of a group by register; `none` when a block of the extent has tag 10. -/
def State.groupCells (s : State) (a : Shape) (g : List Nat) : Option (List (List Cell)) :=
  let l := g.map fun n => readTile a false (s.tile n)
  if l.any a.badSource then none else some l

/-- A group written from elements by register and position, with flags (R295). -/
def State.putCells (s : State) (d : Shape) (rm : Rm) (draw : Nat → Nat) (m : BitVec 3) (zero : Bool) (td : List Nat)
    (f : Nat → Nat → Cell × BitVec 5) : TileResult :=
  let on := s.maskOn m
  let outs := (td.zipIdx).map fun y => (y.1, (List.range d.size).map fun i => f y.2 i)
  let fl := outs.foldl (fun fl o => fl ||| keptFlags d on o.2) 0
  (writeGroup s.tile (fun k => { shape := d, on := on, zero := zero, rm := rm, draw := fun i => draw (d.order k i) }) 0
    (outs.map fun o => (o.1, o.2.map (·.1)))).map fun r => (r.1, fl ||| r.2, 0)

/-- TRED (R303): axis 0 reduces each row into column 0, axis 1 each column through the group into row 0 of its first
register. -/
def execTred (m : BitVec 3) (p x : BitVec 1) (o : BitVec 2) (a d : BitVec 7) (s : State) : Host.Outcome State Fault Refusal :=
  let ta := s.group a
  let td := s.group d
  .next (s.tileOp
    { readsRm := fun f => o == 0 || isAster f, useB := true
      agree := fun y z => y.fmt == z.fmt && width d == width a &&
        (if x = 0 then y.rows == z.rows && y.vrows == z.vrows else y.cols == z.cols && y.vcols == z.vcols) } [] none m ta td
    false (fun _ z => td.length * z.vrows * z.vcols)
    fun y z rm draw _ s =>
      (s.groupCells y ta).bind fun g =>
        let at_ (k r c : Nat) : Cell := (g.getD k []).getD (r * y.cols + c) (zeroCell y.fmt)
        s.putCells z rm draw m (p == 1) td fun k i =>
          let r := i / z.cols
          let c := i % z.cols
          let u := draw (z.order k i)
          if x = 0 then
            (if c = 0 && decide (r < y.vrows) then
              reduceCells y.fmt o.toNat rm u ((List.range y.vcols).map fun j => at_ k r j) else (zeroCell y.fmt, 0))
          else if k = 0 && r = 0 && decide (c < y.vcols) then
            reduceCells y.fmt o.toNat rm u
              ((List.range g.length).flatMap fun h => (List.range y.vrows).map fun j => at_ h j c)
          else (zeroCell y.fmt, 0))

/-- TBCAST (R304). -/
def execTbcast (m : BitVec 3) (p x : BitVec 1) (a d : BitVec 7) (s : State) : Host.Outcome State Fault Refusal :=
  let ta := s.group a
  let td := s.group d
  .next (s.tileOp
    { readsRm := isAster, useB := true
      agree := fun y z => y.fmt == z.fmt && width d == width a &&
        (if x = 0 then y.rows == z.rows && y.vrows == z.vrows else y.cols == z.cols && y.vcols == z.vcols) } [] none m ta td
    false (fun _ z => td.length * z.vrows * z.vcols)
    fun y z rm draw _ s =>
      (s.groupCells y ta).bind fun g =>
        s.putCells z rm draw m (p == 1) td fun k i =>
          let j := if x = 0 then i / z.cols * y.cols else i % z.cols
          ((g.getD (if x = 0 then k else 0) []).getD j (zeroCell y.fmt), 0))

/-- TTRANS (R305). -/
def execTtrans (m : BitVec 3) (p : BitVec 1) (a d : BitVec 7) (s : State) : Host.Outcome State Fault Refusal :=
  let ta := s.group a
  let td := s.group d
  .next (s.tileOp
    { readsRm := isAster, useB := true
      agree := fun y z => y.fmt == z.fmt && width d == 0 && width a == 0 && z.rows == y.cols && z.cols == y.rows &&
        z.vrows == y.vcols && z.vcols == y.vrows } [] none m ta td false (fun _ z => z.vrows * z.vcols)
    fun y z rm draw _ s =>
      (s.groupCells y ta).bind fun g =>
        s.putCells z rm draw m (p == 1) td fun _ i =>
          ((g.getD 0 []).getD (i % z.cols * y.cols + i / z.cols) (zeroCell y.fmt), 0))

/-! ## Compare, squeeze, expand (R306, R308, R309) -/

/-- A comparison of two elements: 0 EQ, 1 LT, 2 LE, 4 NE (R256, R306). -/
def cellCompare (fmt cond : Nat) (x y : Cell) : Bool × BitVec 5 :=
  let a := x.toVal fmt
  let b := y.toVal fmt
  let un := a.isNan || b.isNan
  let c := a.cmp b
  match cond with
  | 0 => (!un && c == 0, sigFlag [a, b])
  | 1 => (!un && decide (c < 0), if un then flNV else 0)
  | 2 => (!un && decide (c ≤ 0), if un then flNV else 0)
  | _ => (un || c != 0, sigFlag [a, b])

/-- TCMP (R306): the result is a mask in the data plane; the scale plane stays. -/
def State.tileCmp (s : State) (m : BitVec 3) (p : BitVec 1) (b : BitVec 5) (a d : BitVec 7) (cond : Nat) :
    Host.Outcome State Fault Refusal :=
  let ta := s.group a
  let tb := s.groupB b a
  let td := s.group d
  .next (s.tileOp { readsRm := fun _ => false, agree := fun _ _ => width d == 0 && width a == 0, mask := true } [] none m (ta ++ tb) td
    false (fun _ _ => 0)
    fun x _ _ _ _ s =>
      let on := s.maskOn m
      match s.groupCells x ta, s.groupCells x tb with
      | some ga, some gb =>
        let n := td.headD 0
        let old := s.tile n
        let rs := (List.zip (ga.headD []) (gb.headD [])).map fun y => cellCompare x.fmt cond y.1 y.2
        let out := (rs.zipIdx).map fun y =>
          if x.inside y.2 then (if on y.2 then bnat y.1.1 else if p = 1 then 0 else bnat (bit old.data y.2)) else 0
        let fl := (rs.zipIdx).foldl (fun f y => if x.inside y.2 && on y.2 then f ||| y.1.2 else f) (0 : BitVec 5)
        some ([(n, { old with data := BitVec.ofNat 16384 (joinFields 1 out) })], fl, 0)
      | _, _ => none)

def execTcmpEq (m : BitVec 3) (p : BitVec 1) (b : BitVec 5) (a d : BitVec 7) (s : State) :
    Host.Outcome State Fault Refusal := s.tileCmp m p b a d 0
def execTcmpNe (m : BitVec 3) (p : BitVec 1) (b : BitVec 5) (a d : BitVec 7) (s : State) :
    Host.Outcome State Fault Refusal := s.tileCmp m p b a d 4
def execTcmpLt (m : BitVec 3) (p : BitVec 1) (b : BitVec 5) (a d : BitVec 7) (s : State) :
    Host.Outcome State Fault Refusal := s.tileCmp m p b a d 1
def execTcmpLe (m : BitVec 3) (p : BitVec 1) (b : BitVec 5) (a d : BitVec 7) (s : State) :
    Host.Outcome State Fault Refusal := s.tileCmp m p b a d 2

/-- TSQZ (R308): every position of the destination register is written; draws by position of the register (R299). -/
def execTsqz (m : BitVec 3) (q : BitVec 5) (a d : BitVec 7) (s : State) : Host.Outcome State Fault Refusal :=
  let ta := s.group a
  let td := s.group d
  .next (s.tileOp { readsRm := isAster, agree := fun _ _ => width d == 0 && width a == 0 } [] (some q) 0
    (ta ++ if m = 0 then [] else [24 + m.toNat]) td false (fun x _ => x.size)
    fun x _ rm draw _ s =>
      (s.groupCells x ta).bind fun g =>
        let on := s.maskOn m
        let packed := (((g.headD []).zipIdx).filter fun y => x.inside y.2 && on y.2).map (·.1)
        let cells := packed ++ List.replicate (x.size - packed.length) (zeroCell x.fmt)
        (writeGroup s.tile (fun _ => { shape := x, on := fun _ => true, zero := false, whole := true, rm := rm, draw := draw }) 0
          [(td.headD 0, cells)]).map fun r => (r.1, r.2, packed.length))

/-- Source elements handed out in turn to the selected positions (R309). -/
def expand : List Bool → List Cell → Cell → List Cell
  | [], _, _ => []
  | false :: l, src, z => z :: expand l src z
  | true :: l, c :: src, z => c :: expand l src z
  | true :: l, [], z => z :: expand l [] z

/-- TXPD (R309): the source is read as stored, its blocks inside the extent must not have tag 10, and a block of tag 10
that values are taken from is a format fault too. -/
def execTxpd (m : BitVec 3) (p : BitVec 1) (a d : BitVec 7) (s : State) : Host.Outcome State Fault Refusal :=
  let ta := s.group a
  let td := s.group d
  .next (s.tileOp { readsRm := isAster, agree := fun _ _ => width d == 0 && width a == 0 } [] none m ta td false
    (fun x _ => x.vrows * x.vcols)
    fun x _ rm draw _ s =>
      (s.groupCells x ta).bind fun _ =>
        let on := s.maskOn m
        let src := readTile x true (s.tile (ta.headD 0))
        let cells := expand ((List.range x.size).map fun i => x.inside i && on i) src (zeroCell x.fmt)
        if cells.any Cell.isBad then none
        else s.putCells x rm draw m (p == 1) td fun _ i => (cells.getD i (zeroCell x.fmt), 0))

/-! ## Move, zero, fill, random (R310, R311) -/

/-- TMOV: bit for bit; Aster codes and headers unchanged, and zero blocks outside the extent (R310). -/
def moveBlocks (x : Shape) (src old : Tile) : Tile :=
  let w := elemBits x.fmt
  let nb := x.size / 32
  let qs := List.range nb
  let codes := qs.map fun q => if x.inside (32 * q) then src.data.toNat / 2 ^ (32 * w * q) % 2 ^ (32 * w) else 0
  let hdrs := qs.map fun q => if x.inside (32 * q) then bits src.scale (32 * q + 31) (32 * q) else 0xC0000000
  { data := lowBits old.data (32 * w * nb) (joinFields (32 * w) codes), scale := lowBits old.scale (32 * nb) (joinFields 32 hdrs) }

def execTmov (m : BitVec 3) (p : BitVec 1) (a d : BitVec 7) (s : State) : Host.Outcome State Fault Refusal :=
  let ta := s.group a
  let td := s.group d
  .next (s.tileOp
    { readsRm := fun _ => false, agree := fun x _ => width d == width a && !(m != 0 && isAster x.fmt) } [] none m ta td false
    (fun _ _ => 0)
    fun x _ rm draw _ s =>
      if isAster x.fmt then some ((td.zip ta).map fun y => (y.1, moveBlocks x (s.tile y.2) (s.tile y.1)), 0, 0)
      else s.elementwise x x rm draw m (p == 1) td [ta] fun _ _ cs _ => (cs.getD 0 (.bits 0), 0))

/-- TZERO: zeroes; a partly masked Aster block is encoded under RNE (log 145). -/
def execTzero (m : BitVec 3) (p : BitVec 1) (d : BitVec 7) (s : State) : Host.Outcome State Fault Refusal :=
  let td := s.group d
  .next (s.tileOp { readsRm := fun _ => false, agree := fun _ _ => true } [] none m [] td false (fun _ _ => 0)
    fun x _ rm draw _ s => s.putCells x rm draw m (p == 1) td fun _ _ => (zeroCell x.fmt, 0))

/-- TFILL: the low bits of the scalar, or its FP32 value for Aster (R310). -/
def execTfill (m : BitVec 3) (p : BitVec 1) (q : BitVec 5) (d : BitVec 7) (s : State) : Host.Outcome State Fault Refusal :=
  let td := s.group d
  .next (s.tileOp { readsRm := isAster, agree := fun _ _ => true } [q] none m [] td false
    (fun x _ => td.length * x.vrows * x.vcols)
    fun x _ rm draw vs s =>
      let v := (arg vs 0).toNat
      let c : Cell × BitVec 5 := if isAster x.fmt then (.val (Fmt.f32.value (v % 2 ^ 32)), sigFlag [Fmt.f32.value (v % 2 ^ 32)])
        else (.bits (v % 2 ^ elemBits x.fmt), 0)
      s.putCells x rm draw m (p == 1) td fun _ _ => c)

/-- The value that a draw gives in a format (R311). -/
def randCell (fmt u : Nat) : Cell :=
  match fmt with
  | 1 => .bits (Fmt.bf16.pack .rne 0 (.fin { mag := u / 2 ^ 24, exp := -8 })).1
  | 2 => .bits (Fmt.f32.pack .rne 0 (.fin { mag := u / 2 ^ 8, exp := -24 })).1
  | f => .bits (u % 2 ^ elemBits f)

def execTrand (m : BitVec 3) (p : BitVec 1) (d : BitVec 7) (s : State) : Host.Outcome State Fault Refusal :=
  let td := s.group d
  .next (s.tileOp { readsRm := fun _ => false, agree := fun x _ => !isAster x.fmt } [] none m [] td true
    (fun x _ => td.length * x.vrows * x.vcols)
    fun x _ rm draw _ s => s.putCells x rm draw m (p == 1) td fun k i => (randCell x.fmt (draw (x.order k i)), 0))

/-! ## Shape registers (R293) -/

def execShpSet (g : BitVec 3) (b : BitVec 5) (k : BitVec 3) (s : State) : Host.Outcome State Fault Refusal :=
  .next (if wrongWay s.cur.rep [b] none then s.trap causeIllegal
    else s.guarded g 4 fun s =>
      if s.inHandler then s.trap causeIllegal
      else s.needIdle fun s => s.withOps [b] none fun vs s =>
        if shapeReserved (arg vs 0) then s.trap causeOperand
        else (s.modRegs (·.setH k.toNat (arg vs 0))).finish [b] 4)

def execShpGet (g k : BitVec 3) (a : BitVec 5) (s : State) : Host.Outcome State Fault Refusal :=
  .next (if wrongWay s.cur.rep [] (some a) then s.trap causeIllegal
    else s.guarded g 4 fun s =>
      if s.inHandler then s.trap causeIllegal
      else s.needIdle fun s => s.withOps [] (some a) fun _ s => (s.put a (s.readH k.toNat)).finish [] 4)

end Sys2Proof.Machine
end

