-- ==== Sys2Proof/Machine/TileMem.lean ====
section
/-!
DEFINITION. Sys2Proof/Machine/TileMem.lean: TLD, TST, TLD.G and TST.G, row by row (R40, R312 to R317).
-/

namespace Sys2Proof.Machine

/-! ## Rows of a register -/

/-- The elements of the valid columns of a row as stored bits, and its headers for Aster. -/
def tileRow (x : Shape) (t : Tile) (r : Nat) : List Nat × List Nat :=
  let w := elemBits x.fmt
  (fields t.data.toNat w (w * x.cols * r) x.vcols,
    if isAster x.fmt then fields t.scale.toNat 32 (32 * (x.cols / 32) * r) (x.vcols / 32) else [])

/-- Bits of a plane replaced. -/
def putPlane {n : Nat} (p : BitVec n) (off k v : Nat) : BitVec n :=
  BitVec.ofNat n (p.toNat / 2 ^ (off + k) * 2 ^ (off + k) + (v % 2 ^ k) * 2 ^ off + p.toNat % 2 ^ off)

/-- A row of a register written under the mask: valid columns take the elements given, masked-off ones stay or become zero,
columns outside the extent become zero (R295, R316). -/
def putRow (x : Shape) (on : Nat → Bool) (zero : Bool) (t : Tile) (r : Nat) (elems hdrs : List Nat) : Tile :=
  let w := elemBits x.fmt
  let old := fields t.data.toNat w (w * x.cols * r) x.cols
  let new := (List.range x.cols).map fun c =>
    if c < x.vcols then (if on (r * x.cols + c) then elems.getD c 0 else if zero then 0 else old.getD c 0) else 0
  let data := putPlane t.data (w * x.cols * r) (w * x.cols) (joinFields w new)
  if isAster x.fmt then
    let nb := x.cols / 32
    let hs := (List.range nb).map fun j => if 32 * j < x.vcols then hdrs.getD j 0 else 0xC0000000
    { data := data, scale := putPlane t.scale (32 * nb * r) (32 * nb) (joinFields 32 hs) }
  else { t with data := data }

/-- Bytes of a format's elements, and elements from bytes. -/
def packElems (fmt : Nat) (l : List Nat) : List Byte := natBytes (l.length * elemBits fmt / 8) (joinFields (elemBits fmt) l)
def unpackElems (fmt n : Nat) (l : List Byte) : List Nat := fields (bytesNat l) (elemBits fmt) 0 n

/-- Bytes of 32-bit headers, and headers from bytes. -/
def packHdrs (l : List Nat) : List Byte := l.flatMap (natBytes 4)
def unpackHdrs (l : List Byte) : List Nat := fields (bytesNat l) 32 0 (l.length / 4)

/-- The exact values of a row in a format; `none` where a block has tag 10. -/
def rowVals (fmt : Nat) (elems hdrs : List Nat) : Option (List Val) :=
  if isAster fmt then
    if hdrs.any fun h => hdrTag h == 2 then none
    else some ((elems.zipIdx).map fun y => asterValue (elemBits fmt) (hdrs.getD (y.2 / 32) 0) y.1)
  else some (elems.map (plainVal fmt))

/-- Values encoded in a format with RNE, tag 01, no flags (R80, R315): elements and headers. -/
def encodeVals (fmt : Nat) (vs : List Val) : List Nat × List Nat :=
  if isAster fmt then
    let bs := (List.range (vs.length / 32)).map fun q => asterBlock (elemBits fmt) 1 .rne (List.replicate 32 0) ((vs.drop (32 * q)).take 32)
    (bs.flatMap (·.2.1), bs.map (·.1))
  else
    (vs.map fun v =>
      match (roundCell fmt true .rne 0 (v, 0)).1 with
      | .bits n => n
      | _ => 0, [])

/-- A row converted between formats; `none` is the format fault. -/
def convertRow (src dst : Nat) (elems hdrs : List Nat) : Option (List Nat × List Nat) :=
  (rowVals src elems hdrs).map (encodeVals dst)

/-! ## Banks (R79) -/

def bankOf (off : Nat) : Nat := off / 2 ^ 14 % 8
def State.bankReg (s : State) (b : Nat) : Word := s.coreCsr (Csr.bfmt + b)
def State.bankFmt (s : State) (b : Nat) : Nat := bits (s.bankReg b) 3 0

/-- The format of a row in the local store: the bank's, or the shape's where the bank is raw (R315). -/
def State.rowFmt (s : State) (x : Shape) (off : Nat) : Nat :=
  let f := s.bankFmt (bankOf off)
  if f = 0 then x.fmt else f

/-- Offset of the headers of a row in a bank (R313). -/
def State.hdrOff (s : State) (fmt off : Nat) : Nat :=
  bankOf off * 2 ^ 14 + 4 * bits (s.bankReg (bankOf off)) 27 16 + 4 * (off % 2 ^ 14 / blockBytes fmt)

/-- Bytes of n columns in a format. -/
def colBytes (fmt n : Nat) : Nat := n * elemBits fmt / 8

/-- A row of n columns lies in the local store and in banks of one format, headers included (R315, R316). -/
def State.rowFits (s : State) (x : Shape) (a : Word) : Bool :=
  !lsOutside a 1 &&
    let off := a.toNat
    let f := s.rowFmt x off
    let n := colBytes f x.vcols
    decide (off + n ≤ 2 ^ 17) &&
      ((List.range ((off + n - 1) / 2 ^ 14 + 1 - off / 2 ^ 14)).all fun j =>
        s.bankFmt (bankOf off + j) == s.bankFmt (bankOf off)) &&
      (!isAster f || decide (s.hdrOff f off + x.vcols / 8 ≤ 2 ^ 17))

/-- The checks of R315 made for every row before the first is accessed: the row's address passes. -/
def State.rowAllowed (s : State) (x : Shape) (a : Word) : Bool :=
  let f := s.bankFmt (bankOf a.toNat)
  lsOutside a 1 || f = 0 || f == x.fmt ||
    (isIntFmt f == isIntFmt x.fmt && !((isAster f || isAster x.fmt) && x.vcols % 32 != 0) &&
      !(isAster f && a.toNat % 2 ^ 14 % blockBytes f != 0))

/-! ## One row -/

/-- A tile memory instruction: shape, registers, mask, store or load, base and stride. -/
structure TileAccess where
  shape : Shape
  regs : List Nat
  on : Nat → Bool
  zero : Bool
  masked : Bool
  store : Bool
  ls : Bool
  sa : Word
  e7 : Word
  /-- the signed distance of a row's address from the base -/
  dist : Nat → Int

/-- The row address (R313). -/
def TileAccess.addr (t : TileAccess) (r : Nat) : Word := t.sa + iword (t.dist r)

/-- The global header address of a row (R313): the distance of its address from the base, of 64 bits, counts as signed (log 153). -/
def TileAccess.hdrAddr (t : TileAccess) (r : Nat) : Word :=
  t.e7 + iword ((t.addr r - t.sa).toInt / (blockBytes t.shape.fmt : Int) * 4)

/-- Register and row within it, of a row of the group. -/
def TileAccess.reg (t : TileAccess) (r : Nat) : Nat := t.regs.getD (r / t.shape.rows) 0
def TileAccess.row (t : TileAccess) (r : Nat) : Nat := r % t.shape.rows

/-- The rows that are accessed, in order (R313). -/
def TileAccess.rows (t : TileAccess) : List Nat :=
  (List.range (t.regs.length * t.shape.rows)).filter fun r => decide (r % t.shape.rows < t.shape.vrows)

/-- Column ranges of a row whose mask bit is 1, as start and length. -/
def TileAccess.spans (t : TileAccess) (r : Nat) : List (Nat × Nat) :=
  ((List.range t.shape.vcols).filter fun c => t.on (t.row r * t.shape.cols + c)).foldr (fun c l =>
    match l with
    | (d, n) :: rest => if d = c + 1 then (c, n + 1) :: rest else (c, 1) :: l
    | [] => [(c, 1)]) []

/-- A row taken into the destination register. -/
def State.takeRow (s : State) (t : TileAccess) (r : Nat) (elems hdrs : List Nat) : State :=
  s.putTiles [(t.reg r, putRow t.shape t.on t.zero (s.tile (t.reg r)) (t.row r) elems hdrs)]

/-- The place that a trap at a row leaves in TILEPOS (R316). -/
def State.markRow (s : State) (r : Nat) : State :=
  { s with } |>.setCsr Csr.tilepos (word (field 1 15 + r % 512))

/-- A trap at a row: TILEPOS names it, and FLTVA is the first byte of the row (R316, log 118). -/
def State.rowTrap (s : State) (r : Nat) (rep : Reply) : State := (s.markRow r).trapReply rep
def State.rowTrapAt (s : State) (r : Nat) (cause : Nat) (va : Word) : State := (s.markRow r).trapAt cause va

/-- Local-store bytes of a row, with a memory error named at the row (R101, R316). -/
def State.rowLoad (s : State) (r : Nat) (a : Word) (off n acc : Nat) (k : List Byte → State → State) : State :=
  let g := lsBase s.cur.die s.cur.core + off
  if s.eccHit g n then (s.eccCount s.cur.die).rowTrap r (.mem a (merrInfo 2 0 acc 0))
  else
    let s := s.eccCorrect s.cur.die g n
    match s.view s.cur 0 g (s.lsRead off n) with
    | (l, s) => k l s

/-- A local-store row loaded (R315). -/
def State.loadLocal (s : State) (t : TileAccess) (r : Nat) (k : State → State) : State :=
  let x := t.shape
  let a := t.addr r
  if !s.rowFits x a then s.rowTrapAt r causeLsRange a
  else
    let f := s.rowFmt x a.toNat
    s.rowLoad r a a.toNat (colBytes f x.vcols) 0 fun l s =>
      s.rowLoad r a (s.hdrOff f a.toNat) (if isAster f then x.vcols / 8 else 0) 0 fun h s =>
        let elems := unpackElems f x.vcols l
        let hdrs := unpackHdrs h
        if f = x.fmt then k (s.takeRow t r elems hdrs)
        else
          match convertRow f x.fmt elems hdrs with
          | some (e, h) => k (s.takeRow t r e h)
          | none => s.rowTrapAt r causeFormat a

/-- The mask bits of a block of a row. -/
def blockOn (ons : List Bool) (j : Nat) : List Bool := (ons.drop (32 * j)).take 32

/-- The old blocks of a bank that a row writes around masked-off positions: their code words and headers, by block number (R315). -/
def State.oldBlocks (s : State) (r : Nat) (a : Word) (fmt off ho : Nat) (k : SMap (List Nat × Nat) → State → State) :
    List Nat → SMap (List Nat × Nat) → State
  | [], m => k m s
  | j :: js, m =>
    s.rowLoad r a (off + j * blockBytes fmt) (blockBytes fmt) 0 fun l s =>
      s.rowLoad r a (ho + 4 * j) 4 0 fun h s =>
        State.oldBlocks s r a fmt off ho k js (m.set j (unpackElems fmt 32 l, bytesNat h))

/-- Blocks of a converting Aster bank that a row stores (R315): block number, code words, header. `none` is the format
fault. -/
def rowBlocks (fmt : Nat) (ons : List Bool) (new : List Val) (old : SMap (List Nat × Nat)) :
    Nat → Nat → Option (List (Nat × List Nat × Nat))
  | 0, _ => some []
  | n + 1, j =>
    let on := blockOn ons j
    let vs := (new.drop (32 * j)).take 32
    let rest := rowBlocks fmt ons new old n (j + 1)
    if on.all (! ·) then rest
    else
      let ob := old.getD j ([], 0)
      let olds := rowVals fmt ob.1 [ob.2]
      if on.all id then
        let b := encodeVals fmt vs
        rest.map fun l => (j, b.1, b.2.headD 0) :: l
      else
        match olds with
        | none => none
        | some ov =>
          let b := encodeVals fmt (((on.zip vs).zip ov).map fun y => if y.1.1 then y.1.2 else y.2)
          rest.map fun l => (j, b.1, b.2.headD 0) :: l

/-- A local-store row stored (R315). -/
def State.storeLocal (s : State) (t : TileAccess) (r : Nat) (k : State → State) : State :=
  let x := t.shape
  let a := t.addr r
  if !s.rowFits x a then s.rowTrapAt r causeLsRange a
  else
    let off := a.toNat
    let f := s.rowFmt x off
    let (elems, hdrs) := tileRow x (s.tile (t.reg r)) (t.row r)
    let ho := s.hdrOff f off
    if f = x.fmt then
      if isAster f then k ((s.lsStore ho (packHdrs hdrs) 0).lsStore off (packElems f elems) 0)
      else
        let b := elemBits f / 8
        k ((t.spans r).foldl (fun s sp => s.lsStore (off + sp.1 * b) (packElems f ((elems.drop sp.1).take sp.2)) 0) s)
    else
      match rowVals x.fmt elems hdrs with
      | none => s.rowTrapAt r causeFormat a
      | some vs =>
        if isAster f then
          let ons := (List.range x.vcols).map fun c => t.on (t.row r * x.cols + c)
          let nb := x.vcols / 32
          s.oldBlocks r a f off ho (fun old s =>
            match rowBlocks f ons vs old nb 0 with
            | none => s.rowTrapAt r causeFormat a
            | some bs =>
              k (bs.foldl (fun s b =>
                (s.lsStore (off + b.1 * blockBytes f) (packElems f b.2.1) 0).lsStore (ho + 4 * b.1) (natBytes 4 b.2.2) 0) s))
            ((List.range nb).filter fun j => (blockOn ons j).any id && !(blockOn ons j).all id) []
        else
          let out := (encodeVals f vs).1
          let b := elemBits f / 8
          k ((t.spans r).foldl (fun s sp => s.lsStore (off + sp.1 * b) (packElems f ((out.drop sp.1).take sp.2)) 0) s)

/-! Global rows. -/

/-- One global access of a row, elements and headers together (R133), faults named at the row. -/
def State.rowAccess (s : State) (r : Nat) (a : Word) (runs : List (Nat × Nat)) (op : MemOp) (k : List Byte → State → State) :
    State :=
  s.access 0 a runs op true 0 fun rep s =>
    match rep with
    | .data l => k l s
    | rep => s.rowTrap r rep

/-- A global row loaded (R313, R316, R317). -/
def State.loadGlobal (s : State) (t : TileAccess) (r : Nat) (k : State → State) : State :=
  let x := t.shape
  let a := t.addr r
  let n := colBytes x.fmt x.vcols
  if isAster x.fmt then
    let h := t.hdrAddr r
    let m := x.vcols / 8
    s.rowAccess r a [(a.toNat, n), (h.toNat, m)] (.read (n + m)) fun l s =>
      k (s.takeRow t r (unpackElems x.fmt x.vcols (s.overlay a.toNat (l.take n))) (unpackHdrs (s.overlay h.toNat (l.drop n))))
  else s.rowAccess r a [(a.toNat, n)] (.read n) fun l s => k (s.takeRow t r (unpackElems x.fmt x.vcols (s.overlay a.toNat l)) [])

/-- The ranges and bytes of a global row to store: the spans the mask selects, or whole blocks and headers. -/
def State.rowParts (s : State) (t : TileAccess) (r : Nat) : List (Nat × Nat) × List Byte :=
  let x := t.shape
  let a := (t.addr r).toNat
  let (elems, hdrs) := tileRow x (s.tile (t.reg r)) (t.row r)
  if isAster x.fmt then
    ([(a, colBytes x.fmt x.vcols), ((t.hdrAddr r).toNat, x.vcols / 8)], packElems x.fmt elems ++ packHdrs hdrs)
  else
    let b := elemBits x.fmt / 8
    ((t.spans r).map (fun sp => (a + sp.1 * b, sp.2 * b)),
      (t.spans r).flatMap fun sp => packElems x.fmt ((elems.drop sp.1).take sp.2))

/-- A global row stored directly. -/
def State.storeDirect (s : State) (t : TileAccess) (r : Nat) (k : State → State) : State :=
  let (runs, l) := s.rowParts t r
  s.rowAccess r (t.addr r) runs (.write l) fun _ s => k s

/-- A commit of the buffer inside a tile store: a fault is precise at the row (R38, R316). -/
def State.commitRow (s : State) (r : Nat) (k : State → State) : State := (s.markRow r).commitBuf 65 k

/-- A global row stored (R316, R317): buffered in a region. -/
def State.storeGlobal (s : State) (t : TileAccess) (r : Nat) (k : State → State) : State :=
  match s.me.region with
  | none => s.storeDirect t r k
  | some rg =>
    if rg.direct then s.commitRow r fun s => s.storeDirect t r k
    else
      let (runs, l) := s.rowParts t r
      let rec_ : StoreRec := { va := t.addr r, size := l.length, opnd := word (bytesNat (l.take 8)), opField := 0 }
      match bufStore rec_ rg.buf (runs.flatMap fun x => lineParts 66 x.1 x.2) l with
      | some b => k (s.setBuf b)
      | none => s.setDirect.endDisc.commitRow r fun s => s.storeDirect t r k

/-- One row, accessed and then left for the next. -/
def State.doRow (s : State) (t : TileAccess) (r : Nat) (k : State → State) : State :=
  if t.shape.vcols = 0 || (t.store && !isAster t.shape.fmt && (t.spans r).isEmpty) then
    k (if t.store then s else s.takeRow t r [] [])
  else if t.ls then (if t.store then s.storeLocal t r k else s.loadLocal t r k)
  else if t.store then s.storeGlobal t r k else s.loadGlobal t r k

/-- The rows in order; the place reached is kept while a row's access is under way. A pre-emption stops the instruction at the
boundary after the row performed, and TILEPOS then names the next one (R317). -/
def State.doRows (s : State) (t : TileAccess) (k : State → State) : List Nat → State
  | [] => k s
  | r :: rest => (s.setProg (s.prog.map fun p => { p with row := r })).doRow t r fun s =>
      if s.stopPending && !t.ls && !rest.isEmpty then (s.markRow (rest.headD 0)).setProg none else State.doRows s t k rest

/-- Rows past the valid rows of a destination become zero (R316). -/
def State.zeroRows (s : State) (t : TileAccess) : State :=
  let x := { t.shape with vcols := 0 }
  let rows := (List.range t.shape.rows).filter fun r => decide (t.shape.vrows ≤ r)
  s.putTiles (t.regs.map fun n => (n, rows.foldl (fun y r => putRow x (fun _ => true) true y r [] []) (s.tile n)))

/-! ## The instructions -/

/-- The checks of R314 in order. -/
def State.tileMemChecks (s : State) (t : TileAccess) (e6 : Word) (k : State → State) : State :=
  let x := t.shape
  let unit := if isAster x.fmt then 8 else elemBits x.fmt / 8
  if t.sa.toNat % unit != 0 || e6.toNat % unit != 0 then s.trapAt causeAlign t.sa
  else if isAster x.fmt && e6.toInt % (blockBytes x.fmt : Int) != 0 then s.trap causeOperand
  else if isAster x.fmt && !t.ls && t.e7.toNat % 4 != 0 then s.trapAt causeAlign t.e7
  else if isAster x.fmt && t.masked then s.trap causeOperand
  else if t.ls && !(t.rows.all fun r => s.rowAllowed x (t.addr r)) then s.trap causeOperand
  else k s

/-- A row of a TST converts a block with tag 10 of its source (R297, step 8). -/
def State.badRow (s : State) (t : TileAccess) (r : Nat) : Bool :=
  let x := t.shape
  let a := t.addr r
  isAster x.fmt && !lsOutside a 1 && s.rowFmt x a.toNat != x.fmt && ((tileRow x (s.tile (t.reg r)) (t.row r)).2.any fun h => hdrTag h == 2)

/-- A tile memory instruction: the checks of R297 and R314, then its rows from the one TILEPOS names (R184, R316). Its mask and
index registers are read when it issues (R295, R296), and anew when it is resumed after a trap or a pre-emption (log 146). -/
def State.tileMem (s : State) (m : BitVec 3) (zero store ls : Bool) (a : BitVec 5) (d : BitVec 7) (index : Option Nat) :
    State :=
  if wrongWay s.cur.rep [a] none then s.trap causeIllegal
  else s.needIdle fun s =>
    s.tileChecks { readsRm := fun _ => false, agree := fun _ _ => true } fun x _ _ s => s.withOps [a] none fun vs s =>
      let e6 := s.readE 6
      let td := s.group d
      let prog : TileProg := s.prog.getD
        { row := if bit (s.csr Csr.tilepos) 15 then bits (s.csr Csr.tilepos) 8 0 else 0
          mask := (s.tile (24 + m.toNat)).data
          index := ((index.map fun n => (s.tile (s.rename n)).data).getD 0) }
      let t : TileAccess :=
        { shape := x, regs := td, on := planeOn m prog.mask, zero := zero, masked := m != 0, store := store, ls := ls, sa := arg vs 0
          e7 := s.readE 7
          dist := fun r => (if index.isSome then sext 32 (bits prog.index (32 * r + 31) (32 * r)) else (r : Int)) * e6.toInt }
      let reads : List TileUse := (index.toList.map fun n => { reg := s.rename n, data := (x.vrows * td.length + 1) / 2 }) ++
        x.maskUse m ++ (if store || m != 0 then x.uses td else [])
      if s.prog.isNone && s.tileErr reads then (s.eccCount s.cur.die).trapReply (.mem 0 (word 0))
      else s.tileMemChecks t e6 fun s =>
        if store && ls && t.rows.any (s.badRow t) then s.trap causeFormat
        else
          let s := (s.tileCorrect reads).setProg (some prog)
          s.doRows t (fun s =>
            let s := s.setProg none
            let s := if store then s else s.zeroRows t
            (if store || m != 0 then s else s.tileFresh (x.covers td)).finish [a] 4) (t.rows.filter fun r => decide (prog.row ≤ r))

def execTld (m : BitVec 3) (p sp : BitVec 1) (a : BitVec 5) (d : BitVec 7) (s : State) : Host.Outcome State Fault Refusal :=
  .next (s.tileMem m (p == 1) false (sp == 1) a d none)
def execTst (m : BitVec 3) (sp : BitVec 1) (a : BitVec 5) (d : BitVec 7) (s : State) : Host.Outcome State Fault Refusal :=
  .next (s.tileMem m false true (sp == 1) a d none)
def execTldG (m : BitVec 3) (p sp : BitVec 1) (i a : BitVec 5) (d : BitVec 7) (s : State) :
    Host.Outcome State Fault Refusal :=
  .next (s.tileMem m (p == 1) false (sp == 1) a d (some i.toNat))
def execTstG (m : BitVec 3) (sp : BitVec 1) (i a : BitVec 5) (d : BitVec 7) (s : State) : Host.Outcome State Fault Refusal :=
  .next (s.tileMem m false true (sp == 1) a d (some i.toNat))

end Sys2Proof.Machine
end

