-- ==== Sys2Proof/Machine/Matrix.lean ====
section
/-!
DEFINITION. Sys2Proof/Machine/Matrix.lean: accumulators and the matrix instructions (R119 to R123, R129, R320 to R334).
ACC.SEND, which is a command of the copy engine, stands with the engine instructions.
-/

namespace Sys2Proof.Machine

/-! ## Accumulators (R119) -/

/-- MODE of an accumulator's status register. -/
def Acc.mode (a : Acc) : Nat := bits a.st 19 18

/-- The anchor, signed. -/
def Acc.anch (a : Acc) : Int := sext 16 (bits a.st 15 0)

/-- MODE and ANCH written; OV stays (R119, R121, R122). -/
def Acc.setMode (a : Acc) (mode : Nat) (anch : Int) : Acc :=
  { a with st := setBits (setBits a.st 19 18 mode) 15 0 (anch % 65536).toNat }

/-- OV set (R120, R122). -/
def Acc.setOv (a : Acc) (b : Bool) : Acc := if b then { a with st := setBits a.st 17 17 1 } else a

def Acc.elem (a : Acc) (e : Nat) : AccElem := a.elems.getD e {}

/-- An element written; an element with V = 0 and K = 00 is unlisted. -/
def Acc.put (a : Acc) (e : Nat) (x : AccElem) : Acc :=
  { a with elems := if x = {} then a.elems.erase e else a.elems.set e x }

def State.acc (s : State) (c : BitVec 1) : Acc := if c = 0 then s.myCore.acc0 else s.myCore.acc1
def State.setAcc (s : State) (c : BitVec 1) (a : Acc) : State :=
  s.modMyCore fun k => if c = 0 then { k with acc0 := a } else { k with acc1 := a }

/-- An accumulator holds an uncorrectable error (R100, R101). -/
def State.accErr (s : State) (c : BitVec 1) : Bool := s.myCore.badAccs.contains c.toNat

/-- An accumulator written whole takes fresh check bits (R100). -/
def State.accFresh (s : State) (c : BitVec 1) : State :=
  s.modMyCore fun k => { k with badAccs := removeNat k.badAccs c.toNat, softAccs := removeNat k.softAccs c.toNat }

/-- A correctable error of an accumulator that an instruction reads is corrected and counted (R100). -/
def State.accCorrect (s : State) (c : BitVec 1) : State :=
  if s.myCore.softAccs.contains c.toNat then
    (s.modMyCore fun k => { k with softAccs := removeNat k.softAccs c.toNat }).countSoft 1
  else s

/-- The memory-error trap of an accumulator: WHERE 1 (R102). -/
def State.accTrap (s : State) : State := (s.eccCount s.cur.die).trapReply (.mem 0 (word (field 1 48)))

/-- A sum kept within 128 bits, and whether it saturated (R120). -/
def saturate (v : Int) : BitVec 128 × Bool :=
  if 2 ^ 127 - 1 < v then (BitVec.ofInt 128 (2 ^ 127 - 1), true)
  else if v < -2 ^ 127 then (BitVec.ofInt 128 (-2 ^ 127), true)
  else (BitVec.ofInt 128 v, false)

/-- Floor of v * 2^d. -/
def shiftFloor (v : Int) (d : Int) : Int := if 0 ≤ d then v * (2 ^ d.toNat : Nat) else v / (2 ^ (-d).toNat : Nat)

/-! ## Products -/

/-- What combining a class with a special product gives (R120): 1 NaN, 2 +infinity, 3 -infinity. -/
def combineClass (k c : BitVec 2) : BitVec 2 := if k = 0 ∨ k = c then c else 1

/-- The exact path on one element (R120): its products in ascending order, the anchor if one is set; new class, exact sum and NV, which
infinities of both signs raise where no NaN has come before them (R125, R327; log 141). -/
def exactSum (anch : Option Int) (x : AccElem) (ps : List (Val × Val)) : BitVec 2 × Int × BitVec 5 :=
  ps.foldl (fun acc p =>
    match acc with
    | (k, v, fl) =>
      if p.1.isNan || p.2.isNan then (1, v, fl)
      else
        match (p.1.mul p.2).1 with
        | .nan _ => (1, v, fl ||| flNV)
        | .inf n =>
          let k' := combineClass k (if n then 3 else 2)
          (k', v, if k' = 1 ∧ k ≠ 1 then fl ||| flNV else fl)
        | .fin d =>
          match anch with
          | none => (k, v, fl)
          | some a => (k, v + shiftFloor (if d.neg then -(d.mag : Int) else d.mag) (d.exp - a), fl))
    (x.k, x.v.toInt, 0)

/-- One step of the float path (R129): c + x * y with the product exact, rounded once; NV when a NaN arises (R327). -/
def floatStep (c : Nat) (x y : Val) : Nat × BitVec 5 :=
  let cv := Fmt.f32.value c
  let p := (x.mul y).1
  let r := (p.add .rne cv).1
  let nv := (p.isNan && !x.isNan && !y.isNan) || (r.isNan && !cv.isNan && !p.isNan)
  ((Fmt.f32.pack .rne 0 r).1, if nv then flNV else 0)

/-- The slices of an FP32 value (R129): hi by RTZ, lo the rest by RNE, both BF16. -/
def slices (x : Val) : Val × Val :=
  match x with
  | .fin d =>
    let hi := Fmt.bf16.value (Fmt.bf16.pack .rtz 0 x).1
    (hi, Fmt.bf16.value (Fmt.bf16.pack .rne 0 ((Val.fin d).add .rne hi.negate).1).1)
  | v => (v, .fin {})

/-- A slice step that is skipped: a lo slice of zero against an infinity (R129). -/
def skipped (lo other : Val) : Bool :=
  lo.isZero && match other with
    | .inf _ => true
    | _ => false

/-- The products of one element in ascending k: one for each k, or the slice steps of an FP32 pair (R129, R326). -/
def products (sliced : Bool) (ra rb : List Val) : List (Val × Val) :=
  if sliced then
    (ra.zip rb).flatMap fun p =>
      let a := slices p.1
      let b := slices p.2
      (a.1, b.1) :: (if skipped b.2 a.1 then [] else [(a.1, b.2)]) ++ (if skipped a.2 b.1 then [] else [(a.2, b.1)])
  else ra.zip rb

/-- The used rows of one operand, by row number: values and block headers. -/
abbrev Rows := List (Nat × List Val × List Nat)

/-- E and c of one operand for the automatic anchor (R121), joined as 16 * E + c for comparison. -/
def anchorScale (fmt : Nat) (rows : Rows) : Option (Int × Int) :=
  let better (best : Option (Int × Int)) (x : Int × Int) : Option (Int × Int) :=
    match best with
    | none => some x
    | some b => if b.1 < x.1 ∨ (b.1 = x.1 ∧ b.2 < x.2) then some x else best
  if isAster fmt then
    rows.foldl (fun best r => r.2.2.foldl (fun best (h : Nat) =>
      if hdrTag h < 2 then
        [hdrE h 0, hdrE h 1].foldl (fun best (e : Nat) =>
          if 1 ≤ e ∧ e ≤ 510 then better best ((e : Int), scaleC (elemBits fmt) (hdrTag h)) else best) best
      else best) best) none
  else
    rows.foldl (fun best r => r.2.1.foldl (fun best v =>
      match v with
      | .fin d => if d.mag = 0 then best else better best (d.exp + (bitLen d.mag : Int) - 1 + 256, 0)
      | _ => best) best) none

/-- The accumulator after the products of the touched elements (R326): the path is exact or float, the operands sliced or
not. -/
def Acc.product (c : Acc) (exact sliced : Bool) (fa fb : Nat) (ra rb : Rows) : Acc × BitVec 5 :=
  let pairs := ra.flatMap fun a => rb.map fun b => (32 * a.1 + b.1, products sliced a.2.1 b.2.1)
  if exact then
    let c := if c.mode = 0 ∧ pairs ≠ [] then
        match anchorScale fa ra, anchorScale fb rb with
        | some (ea, ca), some (eb, cb) => c.setMode 1 (ea + eb - 512 + ca + cb - 100)
        | _, _ => c
      else c
    let anch := if c.mode = 1 then some c.anch else none
    pairs.foldl (fun acc p =>
      let (k, v, fl) := exactSum anch (acc.1.elem p.1) p.2
      let (w, ov) := saturate v
      ((acc.1.put p.1 { v := w, k := k }).setOv ov, acc.2 ||| fl)) (c, 0)
  else
    let c : Acc := if c.mode = 0 then { st := setBits c.st 19 18 2, elems := [] } else c
    pairs.foldl (fun acc p =>
      let (r, fl) := p.2.foldl (fun a q => let x := floatStep a.1 q.1 q.2; (x.1, a.2 ||| x.2))
        ((acc.1.elem p.1).v.toNat, (0 : BitVec 5))
      (acc.1.put p.1 { v := BitVec.ofNat 128 r, k := 0 }, acc.2 ||| fl)) (c, 0)

/-! ## Operands -/

/-- Values and headers of one row from its elements' bits and block headers. -/
def rowOperand (x : Shape) (elems hdrs : List Nat) : Option (List Val × List Nat) :=
  (rowVals x.fmt elems hdrs).map fun v => (v, hdrs)

/-- The rows of a tile operand that lie in the extent (R322); a row with a block of tag 10 is none. -/
def State.tileRows (s : State) (x : Shape) (g : List Nat) : List (Nat × Option (List Val × List Nat)) :=
  (g.zipIdx).flatMap fun y => (List.range x.vrows).map fun r =>
    let e := tileRow x (s.tile y.1) r
    (y.2 * x.rows + r, rowOperand x e.1 e.2)

/-- Offsets of the gathered rows (R328), exactly. -/
def State.gatherOffs (s : State) (x : Shape) (ti : Nat) : List Int :=
  (List.range x.vrows).map fun i =>
    (s.readE 5).toNat + sext 32 (bits (s.tile ti).data (32 * i + 31) (32 * i)) * (colBytes x.fmt x.cols : Nat)

/-- Offsets of the headers of a gathered row. -/
def State.rowHdrs (s : State) (x : Shape) (off : Nat) : List Nat :=
  if isAster x.fmt then (List.range (x.vcols / 32)).map fun j => s.hdrOff x.fmt off + 4 * j else []

/-- The bytes that a gathered row supplies lie in the local store, headers included (R328). -/
def State.gatherFits (s : State) (x : Shape) (off : Int) : Bool :=
  let n := colBytes x.fmt x.vcols
  n == 0 || (decide (0 ≤ off) && decide (off + n ≤ 2 ^ 17) && (s.rowHdrs x off.toNat).all fun h => decide (h + 4 ≤ 2 ^ 17))

/-- Bytes lie in banks of the shape's format, or raw ones for one that is not Aster. -/
def State.banksFit (s : State) (x : Shape) (off n : Nat) : Bool :=
  n == 0 || (List.range ((off + n - 1) / 2 ^ 14 + 1 - off / 2 ^ 14)).all fun j =>
    let f := s.bankFmt (off / 2 ^ 14 + j)
    f == x.fmt || (f == 0 && !isAster x.fmt)

/-- The banks of the bytes that a gathered row supplies, headers included, are right (R328). -/
def State.gatherBanks (s : State) (x : Shape) (off : Nat) : Bool :=
  s.banksFit x off (colBytes x.fmt x.vcols) && (s.rowHdrs x off).all fun h => s.banksFit x h 4

/-- The checks of a gather before any product (R328), in its order. -/
def State.gatherChecks (s : State) (x : Shape) (offs : List Int) (k : State → State) : State :=
  let unit : Int := if isAster x.fmt then 8 else elemBits x.fmt / 8
  let e5 : Int := (s.readE 5).toNat
  match (if e5 % unit ≠ 0 then some (offs.headD e5) else offs.find? fun o => o % unit ≠ 0) with
  | some o => s.trapAt causeAlign (iword o)
  | none =>
    match offs.find? fun o => !s.gatherFits x o with
    | some o => s.trapAt causeLsRange (iword o)
    | none => if offs.any fun o => !s.gatherBanks x o.toNat then s.trap causeOperand else k s

/-- A gathered row meets an uncorrectable error (R101). -/
def State.gatherErr (s : State) (x : Shape) (off : Int) : Bool :=
  let base := lsBase s.cur.die s.cur.core
  s.eccHit (base + off.toNat) (colBytes x.fmt x.vcols) || (s.rowHdrs x off.toNat).any fun h => s.eccHit (base + h) 4

/-- Local-store bytes as the gather unit reads them, in class GATH (R329). -/
def State.gatherRead (s : State) (off n : Nat) : List Byte × State :=
  let a := lsBase s.cur.die s.cur.core + off
  let s := s.eccCorrect s.cur.die a n
  s.view s.cur 2 a (s.lsRead off n)

/-- Headers as the gather unit reads them. -/
def State.gatherHdrs (s : State) : List Nat → List Nat × State
  | [] => ([], s)
  | h :: l =>
    match s.gatherRead h 4 with
    | (b, s) =>
      match State.gatherHdrs s l with
      | (r, s) => (bytesNat b :: r, s)

/-- The gathered rows (R328, R329), by their number from the given one on. -/
def State.gatherRows (s : State) (x : Shape) : Nat → List Int → List (Nat × Option (List Val × List Nat)) × State
  | _, [] => ([], s)
  | i, o :: offs =>
    match s.gatherRead o.toNat (colBytes x.fmt x.vcols) with
    | (b, s) =>
      match s.gatherHdrs (s.rowHdrs x o.toNat) with
      | (h, s) =>
        match State.gatherRows s x (i + 1) offs with
        | (r, s) => ((i, rowOperand x (unpackElems x.fmt x.vcols b) h) :: r, s)

/-! ## MMA, MMA.G and MMAS -/

/-- The pairs of R323: whether they are Aster, and the products per output per cc. -/
def pairOf (a b : Nat) : Option Nat :=
  if isAster a && isAster b then some (if a = 6 ∧ b = 6 then 32 else 16)
  else if (a = 1 ∧ b = 1) ∨ (a = 2 ∧ b = 2) then some 8
  else none

/-- Cycles in the matrix unit (R338). -/
def productCycles (x y : Shape) (m n p : Nat) : Nat :=
  (m + 7) / 8 * ((n + 7) / 8) * ((x.cols + p - 1) / p) * (if x.fmt = 2 ∧ y.fmt = 2 then 3 else 1)

/-- The end of a product: a used block with tag 10 is the format fault, otherwise the effect (R325 steps 8 and 9). -/
def State.applyProduct (s : State) (c : BitVec 1) (exact : Bool) (x y : Shape)
    (ra rb : List (Nat × Option (List Val × List Nat))) (cycles : Nat) : State :=
  if s.accErr c then s.accTrap
  else if ra ≠ [] ∧ rb ≠ [] ∧ (ra ++ rb).any (·.2.isNone) then s.trap causeFormat
  else
    let rows (l : List (Nat × Option (List Val × List Nat))) : Rows := l.map fun r => (r.1, r.2.getD ([], []))
    let s := s.accCorrect c
    let r := (s.acc c).product exact (x.fmt == 2) x.fmt y.fmt (rows ra) (rows rb)
    (((s.setAcc c r.1).retire 4).count 2 cycles).raise r.2

/-- The checks of R325 up to step 5, and the left and right shapes, path and cycles of the product. -/
def State.productChecks (s : State) (c : BitVec 1) (gather : Bool) (mmas : Bool) (na nb : Nat)
    (k : Shape → Shape → Bool → Nat → State → State) : State :=
  if s.inHandler then s.trap causeIllegal
  else s.needIdle fun s =>
    let e := s.readE 4
    if e4Reserved e then s.trap causeOperand
    else
      let x := shapeOf (s.readH (bits e 2 0))
      let y := shapeOf (s.readH (bits e 6 4))
      let m := x.rows * (if gather then 1 else na)
      let n := y.rows * nb
      match pairOf x.fmt y.fmt with
      | none => s.trap causeOperand
      | some p =>
        let mode := (s.acc c).mode
        let nbv1 := s.me.launch.nbv == 1
        let float := mmas || (nbv1 && !isAster x.fmt)
        if !(x.valid && y.valid) || decide (32 < m) || decide (32 < n) || x.cols != y.cols || x.vcols != y.vcols then
          s.trap causeOperand
        else if (mmas && x.fmt != 2) || (float && mode == 1) || (!float && !(nbv1 && isAster x.fmt) && mode == 2) then
          s.trap causeOperand
        else if nbv1 && isAster x.fmt then s.trap causeFormat
        else k x y (!float) (productCycles x y m n p) s

/-- MMA and MMAS (R326). -/
def State.mma (s : State) (c : BitVec 1) (b a : BitVec 7) (mmas : Bool) : State :=
  let ta := s.group a
  let tb := s.group b
  s.productChecks c false mmas ta.length tb.length fun x y exact cycles s =>
    if s.tileErr (x.uses ta ++ y.uses tb) then (s.eccCount s.cur.die).trapReply (.mem 0 0)
    else
      let s := s.tileCorrect (x.uses ta ++ y.uses tb)
      s.applyProduct c exact x y (s.tileRows x ta) (s.tileRows y tb) cycles

def execMma (c : BitVec 1) (b a : BitVec 7) (s : State) : Host.Outcome State Fault Refusal := .next (s.mma c b a false)
def execMmas (c : BitVec 1) (b a : BitVec 7) (s : State) : Host.Outcome State Fault Refusal := .next (s.mma c b a true)

/-- MMA.G (R328, R329). -/
def execMmaG (c : BitVec 1) (b : BitVec 7) (i : BitVec 5) (s : State) : Host.Outcome State Fault Refusal :=
  let ti := s.rename i.toNat
  let tb := s.group b
  .next (s.productChecks c true false 1 tb.length fun x y exact cycles s =>
    let offs := s.gatherOffs x ti
    s.gatherChecks x offs fun s =>
      let reads : List TileUse := { reg := ti, data := (x.vrows + 1) / 2 } :: y.uses tb
      if s.tileErr reads then (s.eccCount s.cur.die).trapReply (.mem 0 0)
      else
        match offs.find? fun o => s.gatherErr x o with
        | some o => (s.eccCount s.cur.die).trapReply (.mem (iword o) (merrInfo 2 2 0 0))
        | none =>
          match (s.tileCorrect reads).gatherRows x 0 offs with
          | (rows, s) => s.applyProduct c exact x y rows (s.tileRows y tb) (cycles + 2))

/-! ## ACC.CLR, ACC.ANCH, ACC.DRN -/

/-- ACC.CLR (R330). -/
def execAccClr (c : BitVec 1) (s : State) : Host.Outcome State Fault Refusal :=
  .next (if s.inHandler then s.trap causeIllegal
    else s.needIdle fun s => (((s.setAcc c {}).accFresh c).retire 4).count 2 2)

/-- The elements of an accumulator under a new anchor (R122). -/
def Acc.regrid (a : Acc) (n : Int) : Acc :=
  (a.elems.foldl (fun (acc : Acc) e =>
    if e.2.k = 0 then
      let r := saturate (shiftFloor e.2.v.toInt (a.anch - n))
      (acc.put e.1 { v := r.1, k := 0 }).setOv r.2
    else acc) a).setMode 1 n

/-- ACC.ANCH (R122, R331). -/
def execAccAnch (c : BitVec 1) (i : BitVec 16) (s : State) : Host.Outcome State Fault Refusal :=
  .next (if s.inHandler then s.trap causeIllegal
    else s.needIdle fun s =>
      let a := s.acc c
      if a.mode = 2 then s.trap causeOperand
      else if a.mode = 1 ∧ s.accErr c then s.accTrap
      else
        let s := if a.mode = 1 then s.accCorrect c else s
        let a := if a.mode = 1 then a.regrid i.toInt else a.setMode 1 i.toInt
        ((s.setAcc c a).retire 4).count 2 2)

/-- What an element drains as into a format (R123): flags without NV (R125). -/
def drainCell (a : Acc) (fmt : Nat) (x : AccElem) : Cell × BitVec 5 :=
  let exact : Val :=
    if x.k = 1 then .nan false
    else if x.k = 2 then .inf false
    else if x.k = 3 then .inf true
    else if a.mode = 2 then Fmt.f32.value (bits x.v 31 0)
    else if x.v = 0 then .fin {}
    else .fin { neg := decide (x.v.toInt < 0), mag := x.v.toInt.natAbs, exp := a.anch }
  if a.mode = 2 ∧ fmt = 2 then (.bits (bits x.v 31 0), 0)
  else
    let r := roundCell fmt false .rne 0 (exact, 0)
    (r.1, r.2 &&& ~~~flNV)

/-- ACC.DRN (R332). -/
def execAccDrn (c : BitVec 1) (d : BitVec 7) (s : State) : Host.Outcome State Fault Refusal :=
  let td := s.group d
  .next (if s.inHandler then s.trap causeIllegal
    else s.needIdle fun s =>
      let e := s.readE 4
      let x := shapeOf (s.readH (bits e 2 0))
      if e4Reserved e || !x.valid || isIntFmt x.fmt || decide (32 < x.rows * td.length) || decide (32 < x.cols) then
        s.trap causeOperand
      else if s.accErr c then s.accTrap
      else
        let s := s.accCorrect c
        let a := s.acc c
        match s.putCells x .rne (fun _ => 0) 0 false td fun k i =>
            drainCell a x.fmt (a.elem (32 * (k * x.rows + i / x.cols) + i % x.cols)) with
        | none => s.trap causeFormat
        | some (ts, fl, _) =>
          ((((s.putTiles ts).tileFresh (x.covers td)).retire 4).count 2 (((x.size + 63) / 64 + 2) * td.length)).raise fl)

/-! ## Accumulator images (R333, R334) -/

/-- Bytes of an image. -/
def imageSize : Nat := 16704

/-- The image of an accumulator (R333). -/
def Acc.image (a : Acc) : List Byte :=
  (List.range 1024).flatMap (fun e => natBytes 16 (a.elem e).v.toNat) ++
    (List.range 256).map (fun q => BitVec.ofNat 8 (joinFields 2 ((List.range 4).map fun j => (a.elem (4 * q + j)).k.toNat))) ++
    natBytes 8 a.st.toNat ++ List.replicate 56 0

/-- The n-byte values of a list of bytes. -/
def chunksNat (n : Nat) : Nat → List Byte → List Nat
  | 0, _ => []
  | k + 1, l => bytesNat (l.take n) :: chunksNat n k (l.drop n)

/-- The accumulator of an image; none where the image is invalid (R334). -/
def Acc.ofImage (l : List Byte) : Option Acc :=
  let vs := chunksNat 16 1024 l
  let ks := fields (bytesNat ((l.drop 16384).take 256)) 2 0 1024
  let st := word (bytesNat ((l.drop 16640).take 8))
  let mode := bits st 19 18
  let elems := ((vs.zip ks).zipIdx).filterMap fun y =>
    if y.1.1 = 0 ∧ y.1.2 = 0 then none else some (y.2, ({ v := BitVec.ofNat 128 y.1.1, k := BitVec.ofNat 2 y.1.2 } : AccElem))
  let ok :=
    match mode with
    | 0 => elems.isEmpty
    | 1 => true
    | 2 => elems.all fun e => e.2.k == 0 && decide (e.2.v.toNat < 2 ^ 32)
    | _ => false
  if bits st 63 20 == 0 && !bit st 16 && ok && (l.drop 16648).all (· == 0) then some { st := st, elems := elems } else none

/-- The checks of an image's offset (R334), after the queue operand has been taken. -/
def State.imageInstr (s : State) (a : BitVec 5) (k : Nat → State → State) : State :=
  if wrongWay s.cur.rep [a] none then s.trap causeIllegal
  else if s.inHandler then s.trap causeIllegal
  else s.needIdle fun s => s.withOps [a] none fun vs s =>
    let off := arg vs 0
    if bits off 5 0 != 0 then s.trapAt causeAlign off
    else if lsOutside off imageSize then s.trapAt causeLsRange off
    else k off.toNat s

/-- ACC.ST (R334). -/
def execAccSt (c : BitVec 1) (a : BitVec 5) (s : State) : Host.Outcome State Fault Refusal :=
  .next (s.imageInstr a fun off s =>
    if s.accErr c then s.accTrap
    else (((s.accCorrect c).lsStore off (s.acc c).image 0).finish [a] 4).count 2 33)

/-- ACC.LD (R334). -/
def execAccLd (c : BitVec 1) (a : BitVec 5) (s : State) : Host.Outcome State Fault Refusal :=
  .next (s.imageInstr a fun off s => s.lsLoad off imageSize 0 0 fun l s =>
    match Acc.ofImage l with
    | none => s.trap causeOperand
    | some x => (((s.setAcc c x).accFresh c).finish [a] 4).count 2 33)

end Sys2Proof.Machine
end

