-- ==== Sys2Proof/Machine/Engine.lean ====
section
/-!
DEFINITION. Sys2Proof/Machine/Engine.lean: the issue of copy-engine commands and the reading of their statuses (R335 to
R337, R342 to R350). The commands themselves run in Machine/Copy.lean.
-/

namespace Sys2Proof.Machine

/-! ## Checks -/

/-- Some row of a side has a byte outside the local store (R344). The rows' starts are linear in their indices, so the
corners decide. -/
def rowsOutside (base e0 e1 : Word) (dst : Bool) (len : Nat) : Bool :=
  [(0, 0), (0, dimCount e0 - 1), (dimCount e1 - 1, 0), (dimCount e1 - 1, dimCount e0 - 1)].any fun c =>
    let a := base.toInt + rowDist e0 e1 dst c.1 c.2
    decide (a < 0) || decide ((2 : Int) ^ 17 < a + len)

/-- A logical index names a good core of the present paddock (R163). -/
def State.goodCore (s : State) (lidx : Nat) : Bool := (s.physOf s.cur.die s.me.launch.pad.toNat lidx).isSome

/-- Bits of the flags of R335 that must be zero: reserved bits and HADDR bit 47. -/
def putReserved (e2 : Word) : Bool := bits e2 58 48 != 0 || bit e2 47 || bit e2 0

/-! ## Circuits that a command names (R54, R343, R347) -/

/-- The endpoint of a string's copy engine. -/
def engineEnd (die str : Nat) : BitVec 32 :=
  BitVec.ofNat 32 (field 1 28 + field die 26 + field (str / 8) 21 + field (str % 8 * 8) 15)

/-- A live circuit of the present paddock, by its number on the present die. -/
def State.liveCircuit (s : State) (cid : Nat) : Option Circuit :=
  ((s.yardAt s.cur.die).circuits.find? cid).filter fun c => c.st == .open && c.pad == s.me.launch.pad

/-- A copy's circuit is usable: 0, or a live circuit from or to the string's copy engine (R343). -/
def State.cpyCircuitOk (s : State) (cid : Nat) : Bool :=
  cid == 0 || match s.liveCircuit cid with
    | some c => c.src == engineEnd s.cur.die s.strNo || c.dst == engineEnd s.cur.die s.strNo
    | none => false

/-- The strings of a deal's targets (R96, R97). -/
def State.dealStrings (s : State) (e0 : Word) : List Nat :=
  ((List.range (min 64 (bits e0 18 12))).filterMap fun t => s.physOf s.cur.die s.me.launch.pad.toNat (bits e0 29 19 + t)).map strOf

/-- A deal's circuit is usable: 0, or a live circuit from a port group to the copy engine of a target's string (R347). -/
def State.dealCircuitOk (s : State) (w e0 : Word) : Bool :=
  w == 0 || (bits w 63 12 == 0 && match s.liveCircuit (bits w 11 0) with
    | some c => bits c.src 31 28 == 3 && (s.dealStrings e0).any fun k => c.dst == engineEnd s.cur.die k
    | none => false)

/-- Source and destination of the circuit that a command names; zeros where it names none. -/
def State.circuitEnds (s : State) (cid : Nat) : BitVec 32 × BitVec 32 :=
  match (if cid = 0 then none else s.liveCircuit cid) with
  | some c => (c.src, c.dst)
  | none => (0, 0)

/-! ## Entering the command queue (R342) -/

/-- The free entries of a queue, in ascending order. -/
def freeSlots (q : SMap Cmd) : List Nat := (List.range 16).filter fun n => (q.find? n).isNone

/-- A context still waits at the instruction with which it joined the tasks that wait for an entry. -/
def State.stillWaits (s : State) (x : Agent × Nat × Word) : Bool :=
  let c := s.ctxOf (ctxKey x.1.die x.1.core x.1.ctx)
  c.st == .running && c.launch.uid == x.2.1 && c.regs.pc == x.2.2

/-- The contexts that came before the present one and still wait for an entry of the string's queue. -/
def State.waitersAhead (s : State) : List (Agent × Nat × Word) :=
  (s.myStr.waiters.filter s.stillWaits).takeWhile fun x => !x.1.same s.cur

/-- The entry that the present context takes (R342): the eight cores share the queue in the order in which they came. -/
def State.entryFor (s : State) : Option Nat :=
  let l := freeSlots s.myStr.queue
  if s.waitersAhead.length < l.length then l.head? else none

/-- The present context waits for an entry. -/
def State.joinWaiters (s : State) : State :=
  let x : Agent × Nat × Word := ({ s.cur with rep := false }, s.me.launch.uid, s.me.regs.pc)
  let l := s.myStr.waiters.filter s.stillWaits
  s.modMyStr fun y => { y with waiters := if l.contains x then l else l ++ [x] }

def State.leaveWaiters (s : State) : State :=
  s.modMyStr fun y => { y with waiters := y.waiters.filter fun x => !x.1.same s.cur }

/-- MSGSEQ as it reads (R197): the context code and the count. -/
def State.msgSeq (s : State) : Word := setBits (s.csr Csr.msgseq) 63 62 s.cur.ctx

/-- MSGSEQ.COUNT advanced (R197). -/
def State.stepSeq (s : State) : State :=
  s.setCsr Csr.msgseq (setBits (s.csr Csr.msgseq) 61 0 (bits (s.csr Csr.msgseq) 61 0 + 1))

/-- A command that carries a notice takes its sequence number and one of the eight places of R199, and is counted (C6). -/
def State.takeSeq (s : State) (ntc : Bool) : State :=
  if ntc then (s.stepSeq.modMe fun c => { c with unacked := c.unacked + 1 }).count 6 1 else s

/-- An instruction waits for an entry of the string's queue and, with a notice, for one of the eight places (R199, R342); then it
goes on with the entry. In a handler it waits for neither: it traps where no entry is free (R202). -/
def State.withEntry (s : State) (ntc : Bool) (k : Nat → State → State) : State :=
  if s.inHandler then
    match (freeSlots s.myStr.queue).head? with
    | none => s.trap causeHandler
    | some n => k n s
  else if ntc && decide (8 ≤ s.me.unacked) then s
  else
    match s.entryFor with
    | none => s.joinWaiters
    | some n => k n s.leaveWaiters

/-- A command enters the string's queue, and the ticket goes to the destination where there is one. The command is made from the
state at its retirement. -/
def State.enter (s : State) (srcs : List (BitVec 5)) (dst : Option (BitVec 5)) (ntc : Bool) (n : Nat) (mk : State → Cmd) :
    State :=
  let c := { mk s with
    agent := { s.cur with rep := false }
    core := s.cur.core
    ident := s.agentId s.cur
    ticket := s.me.ticket
    launch := s.me.launch
    stamp := s.stamp
    seq := s.msgSeq
    win := s.window s.cur.die s.me.launch.pad.toNat }
  let s := s.modMyStr fun x => { x with queue := x.queue.set n c }
  let s := (s.takeSeq ntc).modMe fun x => { x with ticket := x.ticket + 1 }
  let s := match dst with
    | some d => s.put d (c.ticket.setWidth 64)
    | none => s
  s.finish srcs 4

/-- A command that needs nothing more once it has its entry. -/
def State.submit (s : State) (srcs : List (BitVec 5)) (dst : Option (BitVec 5)) (mk : State → Cmd) : State :=
  s.withEntry false fun n s => s.enter srcs dst false n mk

/-! ## CPY, CPY.T, CPY.DIG (R343 to R346) -/

/-- BFMT0 to BFMT7 of a core. -/
def State.bankRegs (s : State) (die core : Nat) : List Word :=
  (List.range 8).map fun b => (s.coreOf (coreKey die core)).csr.getD (Csr.bfmt + b) 0

/-- The core that DCORE names (R343). -/
def State.dcoreOf (s : State) (e2 : Word) : Nat := (s.physOf s.cur.die s.me.launch.pad.toNat (cpyCore e2)).getD s.cur.core

/-- A command as the copy instructions describe it, with the bank formats as they are at issue (R79, R80); one whose circuit is not
usable ends at once with STALE. -/
def State.cpyCmd (s : State) (kind : CmdKind) (src dst : Word) : Cmd :=
  let e2 := s.readE 2
  { kind := kind, src := src, dst := dst, e0 := s.readE 0, e1 := s.readE 1, e2 := e2, e3 := s.readE 3
    fmts := s.bankRegs s.cur.die s.cur.core ++ s.bankRegs s.cur.die (s.dcoreOf e2)
    ends := s.circuitEnds (cpyCid e2)
    fin := if s.cpyCircuitOk (cpyCid e2) then none else some (9, 0, 0) }

/-- The checks of R344, then those of R345 or R346, in order; none where they pass, otherwise the trap. -/
def State.cpyTrap (s : State) (kind : CmdKind) (src dst : Word) : Option State :=
  let e0 := s.readE 0
  let e1 := s.readE 1
  let e2 := s.readE 2
  let len := cpyLen e2
  if cpyReserved e2 || (kind != .cpyT && len == 0) || (cpyDls e2 && !s.goodCore (cpyCore e2)) then some (s.trap causeOperand)
  else if cpyFull e2 && !cpyDls e2 then some (s.trap causeOperand)
  else if kind != .cpyT && cpySls e2 && rowsOutside src e0 e1 false len then some (s.trapAt causeLsRange src)
  else if kind == .cpy && cpyDls e2 && rowsOutside dst e0 e1 true len then some (s.trapAt causeLsRange dst)
  else if kind == .cpyDig && cpyDls e2 && lsOutside dst 32 then some (s.trapAt causeLsRange dst)
  else if kind == .cpyDig && bits dst 2 0 != 0 then some (s.trapAt causeAlign dst)
  else if kind == .cpyT && bits src 3 0 != 0 then some (s.trapAt causeAlign src)
  else if kind == .cpyT && (e0 != 0 || e1 != 0 || len != 0 || cpySls e2 || bits (s.readE 3) 31 0 != 0) then
    some (s.trap causeOperand)
  else none

/-- The three copy instructions: checks, commit of a region's buffer (R367), entry into the queue. -/
def State.copyInstr (s : State) (kind : CmdKind) (g : BitVec 3) (c b a : BitVec 5) : State :=
  s.instr g [b, c] (some a) 4 fun vs s =>
    match s.cpyTrap kind (arg vs 0) (arg vs 1) with
    | some t => t
    | none => s.committing fun s => s.submit [b, c] (some a) fun s => s.cpyCmd kind (arg vs 0) (arg vs 1)

def execCpy (g : BitVec 3) (c b a : BitVec 5) (s : State) : Host.Outcome State Fault Refusal :=
  .next (s.copyInstr .cpy g c b a)
def execCpyT (g : BitVec 3) (c b a : BitVec 5) (s : State) : Host.Outcome State Fault Refusal :=
  .next (s.copyInstr .cpyT g c b a)
def execCpyDig (g : BitVec 3) (c b a : BitVec 5) (s : State) : Host.Outcome State Fault Refusal :=
  .next (s.copyInstr .cpyDig g c b a)

/-! ## DEAL (R347) -/

def execDeal (g : BitVec 3) (c b a : BitVec 5) (s : State) : Host.Outcome State Fault Refusal :=
  .next (s.instr g [b, c] (some a) 4 fun vs s =>
    let e2 := s.readE 2
    if bits (arg vs 0) 5 0 != 0 then s.trapAt causeAlign (arg vs 0)
    else if putReserved e2 || bits e2 62 0 != 0 then s.trap causeOperand
    else s.committing fun s => s.submit [b, c] (some a) fun s =>
      { kind := .deal, src := arg vs 0, dst := arg vs 1, e0 := s.readE 0, e1 := s.readE 1, e2 := s.readE 2
        ends := s.circuitEnds (bits (arg vs 1) 11 0)
        fin := if s.dealCircuitOk (arg vs 1) (s.readE 0) then none else some (9, 0, 0) })

/-! ## PUT (R348) -/

def putGlb (d : Word) : Bool := bit d 63
def putLen (d : Word) : Nat := bits d 48 32
def putOff (d : Word) : Nat := bits d 16 0

/-- A range translated page by page for an access of the copy engine: the first fault and its address (R345, R346, R348). -/
def State.engRange (s : State) (die str asid : Nat) (acc : Access) : Nat → Nat → Nat → Option (Word × XFault) × State
  | 0, _, _ => (none, s)
  | fuel + 1, va, n =>
    if n = 0 then (none, s)
    else
      let k := min n (4096 - va % 4096)
      match addrFault (word va) k with
      | some f => (some (word va, f), s)
      | none =>
        match s.engTranslate die str asid (word va) k acc with
        | (.error f, s) => (some (word va, f), s)
        | (.ok _, s) => State.engRange s die str asid acc fuel (va + k) (n - k)

/-- The checks of R348 that come before the translation. -/
def State.putTrap (s : State) (d dst : Word) : Option State :=
  let e2 := s.readE 2
  let len := putLen d
  if bits d 62 60 != 0 || bits d 31 17 != 0 || putReserved e2 || decide (len < 8) || decide (0x10000 < len) || len % 8 != 0
  then some (s.trap causeOperand)
  else if putGlb d && (bit e2 63 || bit e2 62) then some (s.trap causeOperand)
  else if !putGlb d && !s.goodCore (bits d 59 49) then some (s.trap causeOperand)
  else if putOff d % 8 != 0 then some (s.trapAt causeAlign (word (putOff d)))
  else if bits dst 2 0 != 0 then some (s.trapAt causeAlign dst)
  else if decide (2 ^ 17 < putOff d + len) then some (s.trapAt causeLsRange (word (putOff d)))
  else if !putGlb d && lsOutside dst len then some (s.trapAt causeLsRange dst)
  else none

/-- The translation of a global PUT before it is queued (R348). -/
def State.putTranslate (s : State) (d dst : Word) (k : State → State) : State :=
  if putGlb d then
    let asid := s.me.launch.asid.toNat
    match s.engRange s.cur.die s.strNo asid 1 18 dst.toNat (putLen d) with
    | (some (va, f), s) => s.trapReply (.xlat va (fltInfo f 1 1 asid va))
    | (none, s) => k s
  else k s

def execPut (g : BitVec 3) (c b a : BitVec 5) (s : State) : Host.Outcome State Fault Refusal :=
  .next (s.instr g [b, c] (some a) 4 fun vs s =>
    let d := arg vs 0
    match s.putTrap d (arg vs 1) with
    | some t => t
    | none => s.putTranslate d (arg vs 1) fun s => s.committing fun s => s.withEntry (bit (s.readE 2) 62) fun n s =>
      s.lsLoad (putOff d) (putLen d) 1 0 fun l s => s.enter [b, c] (some a) (bit (s.readE 2) 62) n fun s =>
        { kind := .put, src := d, dst := arg vs 1, e2 := s.readE 2, data := l })

/-! ## ACC.SEND (R335 to R337) -/

def execAccSend (c : BitVec 1) (b a : BitVec 5) (s : State) : Host.Outcome State Fault Refusal :=
  .next (if wrongWay s.cur.rep [b, a] none || s.inHandler then s.trap causeIllegal
    else s.needIdle fun s => s.withOps [b, a] none fun vs s =>
      let e2 := s.readE 2
      let off := arg vs 0
      if putReserved e2 || !s.goodCore (arg vs 1).toNat then s.trap causeOperand
      else if bits off 5 0 != 0 then s.trapAt causeAlign off
      else if lsOutside off imageSize then s.trapAt causeLsRange off
      else s.committing fun s => s.withEntry (bit e2 62) fun n s =>
        if s.accErr c then s.accTrap
        else ((s.accCorrect c).enter [b, a] none (bit e2 62) n fun s =>
          { kind := .accSend, src := word (field (arg vs 1).toNat 49), dst := off, e2 := e2, data := (s.acc c).image }).count 2 33)

/-! ## CPY.W (R350) -/

/-- The command of the present context that has a ticket is in the queue, not finished. -/
def State.cmdPending (s : State) (t : BitVec 16) : Bool :=
  s.myStr.queue.values.any fun c => c.agent.same s.cur && c.launch.uid == s.me.launch.uid && c.ticket == t

/-- The status of a ticket: kept for the last 32 commands, otherwise GONE (R342, R349). -/
def State.statusOf (s : State) (t : BitVec 16) : CmdStatus :=
  let gone : CmdStatus := { ticket := t, status := word (field 0x0F 56) }
  if (s.me.ticket - 1 - t).toNat < 32 then ((s.me.statuses.find? (·.ticket == t)).getD gone) else gone

/-- The fault values of a status go to their registers (R350). -/
def State.putDetails (s : State) (x : CmdStatus) : State :=
  match bits x.status 63 56 with
  | 1 => (s.setCsr Csr.fltva x.va).setCsr Csr.fltinfo x.info
  | 2 => (s.setCsr Csr.fltva x.va).setCsr Csr.merrinfo x.info
  | 3 => (s.setCsr Csr.fltva x.va).setCsr Csr.raceinfo x.info
  | _ => s

def execCpyW (g : BitVec 3) (b a : BitVec 5) (s : State) : Host.Outcome State Fault Refusal :=
  .next (s.instr g [b] (some a) 4 fun vs s =>
    if bits (arg vs 0) 63 16 != 0 then s.trap causeOperand
    else
      let t := (arg vs 0).setWidth 16
      if s.cmdPending t then (if s.inHandler then s.trap causeHandler else s)
      else ((s.putDetails (s.statusOf t)).put a (s.statusOf t).status).finish [b] 4)

def execCpyWPoll (g p : BitVec 3) (b a : BitVec 5) (s : State) : Host.Outcome State Fault Refusal :=
  .next (s.instr g [b] (some a) 4 fun vs s =>
    if bits (arg vs 0) 63 16 != 0 then s.trap causeOperand
    else
      let t := (arg vs 0).setWidth 16
      if s.cmdPending t then (s.writeP p false).finish [b] 4
      else (((s.putDetails (s.statusOf t)).put a (s.statusOf t).status).writeP p true).finish [b] 4)

end Sys2Proof.Machine
end

