-- ==== Sys2Proof/Machine/Paths.lean ====
section
/-!
DEFINITION. Sys2Proof/Machine/Paths.lean: the links of the wheel and the paths of circuits: link keys and delays (R45, R46,
R49), slot tables (R47, R51, R52), candidate paths (R55, R431, R451), and the slots that are free (R55).
-/

namespace Sys2Proof.Machine

/-! ## Links (R45, R46) -/

/-- The link key of an outgoing link: unit (dies 0 to 3, vault dies 4 to 7, link die 8), row, column, port as coded in R47.
Port 7 of a router (die, 0, c) stands for the attachment link from its port group. On the link die row 0 holds the mesh by
router number, row 1 the links to compute dies by 8 * die + j, row 2 the package links, row 3 their opposite directions. Units 10 to 13 hold the upward direction of
the vertical links, by the string's router (R77). -/
def linkKey (unit row col port : Nat) : Nat := ((unit * 32 + row) * 64 + col) * 8 + port
def keyUnit (k : Nat) : Nat := k / 16384
def keyRow (k : Nat) : Nat := k / 512 % 32
def keyCol (k : Nat) : Nat := k / 8 % 64
def keyPort (k : Nat) : Nat := k % 8

/-- A UCIe link: of a compute die by its edge, or of the link die (R46). -/
def isUcie (k : Nat) : Bool :=
  let r := keyRow k
  let c := keyCol k
  if keyUnit k < 4 then
    (keyPort k == 1 && c == 63 && decide (8 ≤ r) && decide (r ≤ 23)) ||
      (keyPort k == 0 && r == 31 && ((decide (24 ≤ c) && decide (c ≤ 39)) || (decide (48 ≤ c) && decide (c ≤ 55))))
  else keyUnit k == 8 && r == 1

/-- A package link, in either direction. -/
def isPackage (k : Nat) : Bool := keyUnit k == 8 && (keyRow k == 2 || keyRow k == 3)

/-- The outgoing and the incoming direction of package link n. -/
def packageOut (n : Nat) : Nat := linkKey 8 2 n 6
def packageIn (n : Nat) : Nat := linkKey 8 3 n 6

/-- The upward direction of a string's vertical link (R77). -/
def upLink (die str : Nat) : Nat := linkKey (10 + die) (str / 8) (str % 8 * 8) 5

/-- An outgoing port of a router, other than port 6, exists (R3, R45, R46). -/
def portExists (unit row col port : Nat) : Bool :=
  if unit < 4 then
    match port with
    | 0 => decide (row < 31) || isUcie (linkKey unit row col 0)
    | 1 => decide (col < 63) || isUcie (linkKey unit row col 1)
    | 2 => true
    | 3 => decide (0 < col)
    | 4 => true
    | 5 => col % 8 == 0
    | _ => false
  else if unit < 8 then
    decide (row < 8) && decide (col < 8) &&
      match port with
      | 0 => decide (row < 7)
      | 1 => decide (col < 7)
      | 2 => decide (0 < row)
      | 3 => decide (0 < col)
      | 4 => true
      | 5 => true
      | _ => false
  else unit == 8 && row == 0 && decide (port < 6) && Config.ldPort col port

/-- Link number j of a UCIe or package port (R46, R58). -/
def linkNo (k : Nat) : Nat :=
  if isPackage k then keyCol k
  else if !isUcie k then 0
  else if keyUnit k = 8 then keyCol k % 8
  else if keyPort k = 1 then keyRow k - 8
  else if keyCol k < 48 then keyCol k - 24
  else keyCol k - 48

def State.linkAt (s : State) (k : Nat) : LinkState := s.links.getD k {}

/-- Delay δ of a link in slots (R45). -/
def State.linkDelay (s : State) (k : Nat) : Nat :=
  if isPackage k then (s.linkAt (packageOut (keyCol k))).delay else if isUcie k then 8 else 1

/-- The offsets o_0 to o_n of a path (R49). -/
def State.offsetsFrom (s : State) (o : Nat) : List Nat → List Nat
  | [] => [o]
  | k :: l => o :: State.offsetsFrom s (o + s.linkDelay k) l

/-- The port opposite to a mesh port. -/
def oppositePort (p : Nat) : Nat :=
  match p with
  | 0 => 2
  | 1 => 3
  | 2 => 0
  | 3 => 1
  | p => p

/-- The link in the opposite direction (R46, R431). -/
def reverseLink (k : Nat) : Nat :=
  let u := keyUnit k
  let r := keyRow k
  let c := keyCol k
  let p := keyPort k
  if u = 8 then
    (if r = 1 then linkKey (c / 8) 31 (48 + c % 8) 0 else if r = 2 then packageIn c else if r = 3 then packageOut c else Config.ldReverse k)
  else if isUcie k then
    (if p = 1 then linkKey (u ^^^ 1) r c 1
     else if c < 48 then linkKey (u ^^^ 2) r c 0
     else linkKey 8 1 (u * 8 + (c - 48)) 6)
  else
    match p with
    | 0 => linkKey u (r + 1) c 2
    | 1 => linkKey u r (c + 1) 3
    | 2 => if r = 0 then linkKey u r c 7 else linkKey u (r - 1) c 0
    | 3 => linkKey u r (c - 1) 1
    | 7 => linkKey u r c 2
    | _ => k

/-- The input code IN by which a word arrives from a link (R47). -/
def arrivalIn (k : Nat) : Nat :=
  if isUcie k || isPackage k then 6
  else
    match keyPort k with
    | 7 => 6
    | 5 => 5
    | p => oppositePort p

/-! ## Slot tables (R47, R51, R52) -/

/-- The depth of a link of the configuration tree (R52): an existing link, at most 72 deep on a compute die and 40 on the link die;
on a compute die the links of depth 1 leave the router (0, 32), and no string's vertical link belongs to it. -/
def treeDepth (k : Nat) : Option Nat :=
  (Config.treeDepth k).filter fun d =>
    decide (1 ≤ d) && decide (d ≤ if keyUnit k = 8 then 40 else 72) &&
      (portExists (keyUnit k) (keyRow k) (keyCol k) (keyPort k) || isUcie k || isPackage k) &&
      !(decide (keyUnit k < 4) && keyPort k == 5) &&
      (keyUnit k == 8 || d != 1 || (decide (keyUnit k < 4) && keyRow k == 0 && keyCol k == 32))

/-- Slots that no circuit may hold: the exchange slot of UCIe and package links, the configuration slots of tree links, and the
slots that a package link does not carry. -/
def cfSlot (k slot : Nat) : Bool :=
  ((isUcie k || isPackage k) && slot == 0) || treeDepth k == some slot ||
    (match treeDepth (reverseLink k) with
      | some d => slot + d == 128
      | none => false)

def notCarried (k slot : Nat) : Bool := isPackage k && slot % 8 == 7

/-- The slot-table entry of a link. -/
def State.entry (s : State) (k slot : Nat) : BitVec 32 :=
  if cfSlot k slot then 0xC0000000 else (s.slots.getD k []).getD slot 0

def State.setEntry (s : State) (k slot : Nat) (e : BitVec 32) : State :=
  let m := s.slots.getD k []
  { s with slots := s.slots.set k (if e = 0 then m.erase slot else m.set slot e) }

/-- An entry that names a circuit's chain (R47). -/
def mkEntry (inp cid chain : Nat) : BitVec 32 := BitVec.ofNat 32 (field 1 31 + field inp 27 + field cid 12 + field chain 4)

/-- The link that a selector names, seen from a die (R47); none where there is no such router or port. Where several links share
port 6 of a router of the link die, or port V of a vault's router, the first of them is read. -/
def selectedLink (die : Nat) (sel : Word) : Option Nat :=
  let row := bits sel 21 17
  let col := bits sel 16 11
  let port := bits sel 10 8
  match bits sel 23 22 with
  | 0 => if portExists die row col port then some (linkKey die row col port) else none
  | 1 =>
    if !portExists (4 + die) row col port then none
    else if port = 5 then some (upLink die (32 * row + col))
    else some (linkKey (4 + die) row col port)
  | 2 =>
    if port = 6 ∧ row = 0 then
      ((List.range 68).find? fun i => Config.ldRouter i == col).map fun i =>
        if i < 32 then linkKey 8 1 i 6 else packageOut (i - 32)
    else if portExists 8 row col port then some (linkKey 8 0 col port)
    else none
  | _ => none

/-- The slot-table entry that a selector names, seen from a die (R47). -/
def State.slotEntry (s : State) (die : Nat) (sel : Word) : Word :=
  match selectedLink die sel with
  | some k => (s.entry k (bits sel 7 0)).setWidth 64
  | none => 0

/-! ## Free slots (R55) -/

/-- The slot of a link that a chain takes. -/
def Circuit.slotsAt (c : Circuit) (k : Nat) : List Nat :=
  (c.path.zip c.offs).flatMap fun p => if p.1 = k then c.chains.map fun ch => (ch.start + p.2) % 256 else []

/-- Every requested circuit of the package. -/
def State.circuits (s : State) : List Circuit := s.yards.values.flatMap fun y => y.circuits.values

/-- A requested circuit holds a slot of a link, or a removed chain's entry there is still to be cleared. -/
def State.slotHeld (s : State) (k slot : Nat) : Bool :=
  s.circuits.any (fun c => (c.slotsAt k).contains slot ||
    match c.resp with
    | some (path, start) => ((path.zip (s.offsetsFrom 0 path)).any fun p => p.1 == k && (start + p.2) % 256 == slot)
    | none => false) ||
    s.yards.values.any fun y => y.clears.any fun x => x.links.contains (k, slot)

/-- A slot of the vault circuit on a vertical link, which a circuit to a vault may borrow (R451). -/
def lendable (k slot : Nat) (e : BitVec 32) : Bool :=
  decide (keyUnit k < 4) && keyPort k == 5 && bits e 23 12 == 0 && slot % 64 != 0

/-- A slot of a link is free for a new chain. -/
def State.slotFree (s : State) (k slot : Nat) : Bool :=
  let l := s.linkAt k
  let e := s.entry k slot
  !cfSlot k slot && !notCarried k slot && !l.failed && !l.out && (!bit e 31 || lendable k slot e) && !s.slotHeld k slot

/-- The link, at which a chain from a start slot cannot be placed, first along the path: the slot is taken, or the segment grows
beyond 256 slots (R50, R55). -/
def State.blockedAt (s : State) (path : List Nat) (start : Nat) : Option (Nat × Nat) :=
  ((path.zip (s.offsetsFrom 0 path)).find? fun p => decide (256 < p.2) || !s.slotFree p.1 ((start + p.2) % 256)).map fun p =>
    (p.1, (start + p.2) % 256)

/-- Some segment of a path is longer than 256 slots. -/
def State.tooLong (s : State) (path : List Nat) : Bool := (path.zip (s.offsetsFrom 0 path)).any fun p => decide (256 < p.2)

/-- The start slots of a path that qualify, in ascending order. -/
def State.starts (s : State) (path : List Nat) : List Nat := (List.range 256).filter fun n => (s.blockedAt path n).isNone

/-- The next package has no room for the word of a start slot on a path that leaves by a package link (R53, R55): the blocking hop
there. -/
def State.farStop (s : State) (c : Circuit) (path : List Nat) (start : Nat) : Option Nat :=
  let k := path.getLastD 0
  if isPackage k then
    let o := ((s.offsetsFrom 0 path).dropLast).getLastD 0
    (c.farBad.find? fun x => x.1 == k && (x.2.1 == 256 || x.2.1 == (start + o) % 256)).map (·.2.2)
  else none

/-- The start slots of a path that qualify for a circuit: those that the next package has not refused. -/
def State.startsFor (s : State) (c : Circuit) (path : List Nat) : List Nat :=
  (s.starts path).filter fun n => (s.farStop c path n).isNone

/-- A path uses no link twice (R50). -/
def noRepeat : List Nat → Bool
  | [] => true
  | k :: l => !l.contains k && noRepeat l

/-! ## Endpoints and candidate paths (R54, R55, R431, R451) -/

def epKind (e : BitVec 32) : Nat := bits e 31 28
def epDie (e : BitVec 32) : Nat := bits e 27 26
def epRow (e : BitVec 32) : Nat := bits e 25 21
def epCol (e : BitVec 32) : Nat := bits e 20 15
def epPg (e : BitVec 32) : Nat := bits e 11 8
def epIdx (e : BitVec 32) : Nat := bits e 7 0

/-- Fields that an endpoint's kind does not use are zero, and those it uses are in range (R54). -/
def epFormed (e : BitVec 32) : Bool :=
  bits e 14 12 == 0 &&
    match epKind e with
    | 0 => epPg e == 0 && epIdx e == 0
    | 1 => epPg e == 0 && epIdx e == 0 && epCol e % 8 == 0
    | 2 => epPg e == 0 && epIdx e == 0 && epCol e % 8 == 0
    | 3 => epRow e == 0 && epCol e == 0 && epIdx e == 0
    | 4 => epRow e == 0 && epCol e == 0 && epPg e == 0 && decide (epIdx e < 64)
    | 5 => epRow e == 0 && epCol e == 0
    | _ => false

/-- Peer circuits end at port groups (kind 3), at the link die (kind 15) or at another package's link die (kind 14, with its
number in bits 11:0): codes of the model, which no software sees. -/
def peerPg (die pg : Nat) : BitVec 32 := BitVec.ofNat 32 (field 3 28 + field die 26 + field pg 8)
def peerLd : BitVec 32 := 0xF0000000
def peerFar (number : BitVec 12) : BitVec 32 := 0xE0000000 + number.setWidth 32

/-- Links along a row, and along a column, from a router towards another; fuel bounds their number. -/
def alongX (unit row : Nat) : Nat → Nat → Nat → List Nat
  | 0, _, _ => []
  | n + 1, c, c1 =>
    if c < c1 then linkKey unit row c 1 :: alongX unit row n (c + 1) c1
    else if c1 < c then linkKey unit row c 3 :: alongX unit row n (c - 1) c1
    else []

def alongY (unit col : Nat) : Nat → Nat → Nat → List Nat
  | 0, _, _ => []
  | n + 1, r, r1 =>
    if r < r1 then linkKey unit r col 0 :: alongY unit col n (r + 1) r1
    else if r1 < r then linkKey unit r col 2 :: alongY unit col n (r - 1) r1
    else []

/-- X then Y, and Y then X. -/
def routeXY (unit r c r1 c1 : Nat) : List Nat := alongX unit r 64 c c1 ++ alongY unit c1 32 r r1
def routeYX (unit r c r1 c1 : Nat) : List Nat := alongY unit c 32 r r1 ++ alongX unit r1 64 c c1
def routes : List (Nat → Nat → Nat → Nat → Nat → List Nat) := [routeXY, routeYX]

/-- Where a path may begin: the links before the first router, and that router. -/
def pathStarts (e : BitVec 32) : List (List Nat × Nat × Nat) :=
  if epKind e < 3 then [([], epRow e, epCol e)]
  else if epKind e = 3 then
    (List.range 4).map fun j => ([linkKey (epDie e) 0 (4 * epPg e + j) 7], 0, 4 * epPg e + j)
  else []

/-- Where a path may end on a die: the last router, and the links after it. A vault is reached by the vertical link of the
requester's string and, when it is not the string's own, over the lateral mesh (R451). -/
def pathEnds (e : BitVec 32) (die str : Nat) : List (Nat × Nat × List Nat) :=
  let row := str / 8
  let col := str % 8 * 8
  let own := vaultOf str
  match epKind e with
  | 3 => (List.range 4).map fun j => (0, 4 * epPg e + j, [linkKey die 0 (4 * epPg e + j) 2])
  | 5 => (List.range 4).map fun j => (0, 4 * epPg e + j, [linkKey die 0 (4 * epPg e + j) 2])
  | 4 => [(row, col, linkKey die row col 5 ::
      (if epIdx e = own then []
       else routeXY (4 + die) (own / 8) (own % 8) (epIdx e / 8) (epIdx e % 8) ++ [linkKey (4 + die) (epIdx e / 8) (epIdx e % 8) 4]))]
  | _ => [(epRow e, epCol e, [linkKey die (epRow e) (epCol e) 4])]

/-- A crossing between dies: where it leaves the first, the links between (X then Y and Y then X where it passes the link die), and
where it enters the other. -/
structure Crossing where
  r : Nat := 0
  c : Nat := 0
  ways : List (List Nat) := []
  r1 : Nat := 0
  c1 : Nat := 0
deriving DecidableEq, Repr, Inhabited

/-- The crossings of the direct edge of two neighbouring dies, in ascending j. -/
def directCrossings (a b : Nat) : List Crossing :=
  if b = (a ^^^ 1) then (List.range 16).map fun j =>
    { r := 8 + j, c := 63, ways := [[linkKey a (8 + j) 63 1]], r1 := 8 + j, c1 := 63 }
  else if b = (a ^^^ 2) then (List.range 16).map fun j =>
    { r := 31, c := 24 + j, ways := [[linkKey a 31 (24 + j) 0]], r1 := 31, c1 := 24 + j }
  else []

/-- The crossings through the link die. -/
def ldCrossings (a b : Nat) : List Crossing :=
  (List.range 8).flatMap fun j => (List.range 8).map fun j' =>
    { r := 31, c := 48 + j
      ways := [false, true].map fun y => linkKey a 31 (48 + j) 0 :: Config.ldPath y (a * 8 + j) (b * 8 + j') ++ [linkKey 8 1 (b * 8 + j') 6]
      r1 := 31, c1 := 48 + j' }

/-- Direction of the first hop from one package to another in the dimension order of the torus (R55): 0 X+, 1 X−, 2 Y+, 3 Y−,
4 Z+, 5 Z−; the shorter way round, the rising one where both are as long. -/
def torusDir (a b : BitVec 12) : Option Nat :=
  ((List.range 3).find? fun d => bits a (4 * d + 3) (4 * d) != bits b (4 * d + 3) (4 * d)).map fun d =>
    let n := Config.torusSize d
    let x := bits a (4 * d + 3) (4 * d)
    let y := bits b (4 * d + 3) (4 * d)
    2 * d + if (y + n - x) % n ≤ (x + n - y) % n then 0 else 1

/-- The package links of a direction, in ascending number: six to each torus neighbour (R7). -/
def linksTo (dir : Nat) : List Nat := (List.range 6).map (6 * dir + ·)

/-- The package links towards another package. -/
def State.pkgLinks (s : State) (number : BitVec 12) : List Nat :=
  match torusDir s.pkg.coords (Config.coordsOf number.toNat) with
  | some d => linksTo d
  | none => []

/-- The crossings to another package: through the link die to a package link; what lies beyond belongs to the other package. The link j to
the link die varies slower than the package link (log 137). -/
def State.farCrossings (s : State) (a : Nat) (number : BitVec 12) : List Crossing :=
  (List.range 8).flatMap fun j => (s.pkgLinks number).map fun n =>
    { r := 31, c := 48 + j
      ways := [false, true].map fun y => linkKey a 31 (48 + j) 0 :: Config.ldPath y (a * 8 + j) (32 + n) ++ [packageOut n] }

/-- Candidate paths within one die, in order. -/
def pathsWithin (src dst : BitVec 32) (die str : Nat) : List (List Nat) :=
  routes.flatMap fun ro => (pathStarts src).flatMap fun a => (pathEnds dst die str).map fun b =>
    a.1 ++ ro die a.2.1 a.2.2 b.1 b.2.1 ++ b.2.2

/-- Candidate paths over crossings, in order: the part on the source die varies slowest. -/
def pathsOver (src dst : BitVec 32) (a b str : Nat) (xs : List Crossing) : List (List Nat) :=
  xs.flatMap fun x => routes.flatMap fun ro => x.ways.flatMap fun way => routes.flatMap fun ro' =>
    (pathStarts src).flatMap fun p => (pathEnds dst b str).map fun q =>
      p.1 ++ ro a p.2.1 p.2.2 x.r x.c ++ way ++ ro' b x.r1 x.c1 q.1 q.2.1 ++ q.2.2

/-- Candidate paths to another package's link die, as far as they lie in this package. -/
def pathsOut (src : BitVec 32) (a : Nat) (xs : List Crossing) : List (List Nat) :=
  xs.flatMap fun x => routes.flatMap fun ro => x.ways.flatMap fun way =>
    (pathStarts src).map fun p => p.1 ++ ro a p.2.1 p.2.2 x.r x.c ++ way

/-- The candidate paths of a request, in the order of R55: source, destination, the destination's package and die, and the
requester's string. -/
def State.candidates (s : State) (src dst : BitVec 32) (xpkg : BitVec 12) (b str : Nat) : List (List Nat) :=
  let a := epDie src
  let l := if xpkg ≠ s.pkg.number then pathsOut src a (s.farCrossings a xpkg)
    else if a = b then pathsWithin src dst a str
    else pathsOver src dst a b str (directCrossings a b) ++ pathsOver src dst a b str (ldCrossings a b)
  (l.filter noRepeat).foldl (fun acc p => if acc.contains p then acc else acc ++ [p]) []

/-- Crossings in turn, with the part on the die between them. -/
def joinCrossings (m : Nat) (xs ys : List Crossing) : List Crossing :=
  xs.flatMap fun x => ys.map fun y =>
    { r := x.r, c := x.c, r1 := y.r1, c1 := y.c1
      ways := x.ways.flatMap fun a => routes.flatMap fun ro => y.ways.map fun b => a ++ ro m x.r1 x.c1 y.r y.c ++ b }

/-- Further candidates of a reroute, over the third die (R66): two edges in turn, and for an edge to the link die the
neighbouring compute die. -/
def State.detours (s : State) (src dst : BitVec 32) (xpkg : BitVec 12) (b str : Nat) : List (List Nat) :=
  let a := epDie src
  let via (m : Nat) (xs : List Crossing) : List Crossing := joinCrossings m (directCrossings a m) xs
  if xpkg ≠ s.pkg.number then [a ^^^ 1, a ^^^ 2].flatMap fun m => pathsOut src a (via m (s.farCrossings m xpkg))
  else if a = b then []
  else ([a ^^^ 1, a ^^^ 2].filter (· != b)).flatMap fun m =>
    pathsOver src dst a b str (via m (directCrossings m b)) ++ pathsOver src dst a b str (via m (ldCrossings m b))

/-- The reversed path of a circuit whose destination is of kind 5, for its response chain (R431). -/
def reversePath (path : List Nat) (src : BitVec 32) : List Nat :=
  let back := path.reverse.map reverseLink
  if epKind src = 3 then back else back ++ [linkKey (epDie src) (epRow src) (epCol src) 4]

/-- The slot-table writes of chains (number and start slot) along a path, from the destination end towards the source and hop by hop
(R56), with each die's number of the circuit; `inp` is the input that the first link takes its words from. What another package
writes is left out. -/
def chainWrites (path offs : List Nat) (inp : Nat) (chains : List (Nat × Nat)) (die cid req : Nat) (num : Nat → Nat) :
    List CfgWrite :=
  let ins := inp :: path.map arrivalIn
  ((path.zip offs).zip ins).reverse.flatMap fun p =>
    if keyUnit p.1.1 = 8 ∧ keyRow p.1.1 = 3 then [] else
    chains.map fun h =>
      { link := p.1.1, slot := (h.2 + p.1.2) % 256, entry := mkEntry p.2 (num p.1.1) h.1, die := die, cid := cid
        chain := h.1, num := req : CfgWrite }

/-- The candidate paths of the part in this package of a circuit that comes from another one by a package link: to its destination
here, or on to the next package (R55). -/
def State.segmentPaths (s : State) (link : Nat) (dst : BitVec 32) (xpkg : BitVec 12) : List (List Nat) :=
  if xpkg ≠ s.pkg.number then
    (s.pkgLinks xpkg).flatMap fun m => [false, true].map fun y => Config.ldPath y (32 + link) (32 + m) ++ [packageOut m]
  else
    let b := epDie dst
    (List.range 8).flatMap fun j => [false, true].flatMap fun y => routes.flatMap fun ro => (pathEnds dst b 0).map fun q =>
      Config.ldPath y (32 + link) (b * 8 + j) ++ [linkKey 8 1 (b * 8 + j) 6] ++ ro b 31 (48 + j) q.1 q.2.1 ++ q.2.2

end Sys2Proof.Machine
end

