-- ==== Sys2Proof/Machine/Copy.lean ====
section
/-!
DEFINITION. Sys2Proof/Machine/Copy.lean: the copy engine and the distributor at work (R39, R80, R82, R96 to R99, R343 to
R349): the events ENGINE_EXECUTE, DEAL_BLOCK, PAYLOAD_ARRIVAL and COMMAND_COMPLETE.
-/

namespace Sys2Proof.Machine

/-! ## Commands in the queue -/

def State.cmdAt (s : State) (die str slot : Nat) : Option Cmd := (s.strAt die str).queue.find? slot

/-- The command in a slot changed. -/
def State.modCmd (s : State) (die str slot : Nat) (f : Cmd → Cmd) : State :=
  match s.cmdAt die str slot with
  | some c => s.modStr die str fun x => { x with queue := x.queue.set slot (f c) }
  | none => s

/-- Who an access of a command belongs to (R134, R144): copy reads and writes of global memory are plain, PUT payloads are
not. -/
def Cmd.who (c : Cmd) : Who :=
  { agent := c.agent, launch := c.launch, cls := c.kind.cls, plain := c.kind != .put, stamp := c.stamp, ident := c.ident }

/-- The command ends: its status code, the bytes that stand, and the fault values. -/
def State.stopCmd (s : State) (die str slot code done : Nat) (va info : Word) : State :=
  s.modCmd die str slot fun c => { c with fin := some (BitVec.ofNat 8 code, va, info), done := done, wait := .idle }

/-- The command ends with the fault of an access (R39, R101, R148); a race counts in its launch's completion record. -/
def State.stopReply (s : State) (die str slot done : Nat) (c : Cmd) (r : Reply) : State :=
  match r with
  | .xlat va info => s.stopCmd die str slot 1 done va info
  | .mem va info => s.stopCmd die str slot 2 done va info
  | .race va info =>
    (s.modLaunch die c.launch fun l => { l with raceCnt := l.raceCnt + 1 }).stopCmd die str slot 3 done va info
  | _ => s

/-! ## Order among the commands of a context (R94, R135) -/

/-- A range of addresses that a command touches: space (0 global, core + 1 a local store), bounds, and whether it writes. -/
structure Footprint where
  space : Nat := 0
  lo : Int := 0
  hi : Int := 0
  writes : Bool := false
deriving DecidableEq, Repr, Inhabited

/-- The bounds of the rows of a side. -/
def rowBounds (base e0 e1 : Word) (dst : Bool) (len : Nat) : Int × Int :=
  let b (e : Word) : Int × Int :=
    let d := dimStride e dst * ((dimCount e : Int) - 1)
    (min 0 d, max 0 d)
  ((base.toNat : Int) + (b e0).1 + (b e1).1, (base.toNat : Int) + (b e0).2 + (b e1).2 + len)

/-- The bank register of a bank of the command's source core, or of its destination core, as it was at issue (R79). -/
def Cmd.bank (c : Cmd) (dst : Bool) (b : Nat) : Word := c.fmts.getD (b + if dst then 8 else 0) 0

/-- The format of the bank that holds an offset on a side of a command. -/
def Cmd.fmtAt (c : Cmd) (dst : Bool) (off : Word) : Nat := bits (c.bank dst (bankOf off.toNat)) 3 0

/-- Both sides are local stores, their banks hold two formats, and neither is raw (R80). -/
def Cmd.converts (c : Cmd) : Bool :=
  let f := c.fmtAt false c.src
  let g := c.fmtAt true c.dst
  cpySls c.e2 && cpyDls c.e2 && f != 0 && g != 0 && f != g

def dealDst (c : Cmd) : Nat := bits c.e0 63 47
def dealRstr (c : Cmd) : Nat := bits c.e0 46 30
def dealFirst (c : Cmd) : Nat := bits c.e0 29 19
def dealNt (c : Cmd) : Nat := bits c.e0 18 12
def dealBlk (c : Cmd) : Nat := bits c.e0 9 0
def dealNblk (c : Cmd) : Nat := bits c.e1 23 0
def dealTotal (c : Cmd) : Nat := dealNblk c * dealBlk c * 64

/-- What a command may still touch, by bounds; a converting copy of an Aster side reads or writes header arrays that may lie anywhere in
the store (R79). Of a chunk that is not yet decrypted, `now` takes only what it touches before that (R441). -/
def State.footprints (s : State) (c : Cmd) (now : Bool) : List Footprint :=
  let srcSpace := if cpySls c.e2 then c.core + 1 else 0
  let dstSpace := if cpyDls c.e2 then s.dcore c + 1 else 0
  let at_ (sp : Nat) (a : Word) (n : Nat) (w : Bool) : Footprint :=
    { space := sp, lo := a.toNat, hi := (a.toNat : Int) + n, writes := w }
  match c.kind with
  | .cpy =>
    let x := rowBounds c.src c.e0 c.e1 false (cpyLen c.e2)
    let y := rowBounds c.dst c.e0 c.e1 true (cpyLen c.e2)
    -- a converted row is at most eight times as long as its source
    [{ space := srcSpace, lo := x.1, hi := x.2 }, { space := dstSpace, lo := y.1, hi := y.2 + 8 * cpyLen c.e2, writes := true }] ++
      (if c.converts && isAster (c.fmtAt false c.src) then [at_ srcSpace 0 (2 ^ 17) false] else []) ++
      (if c.converts && isAster (c.fmtAt true c.dst) then [at_ dstSpace 0 (2 ^ 17) true] else [])
  | .cpyDig =>
    let x := rowBounds c.src c.e0 c.e1 false (cpyLen c.e2)
    [{ space := srcSpace, lo := x.1, hi := x.2 }, at_ dstSpace c.dst 32 true]
  | .cpyT =>
    if c.started then [at_ dstSpace c.dst c.data.length true]
    else at_ 0 c.src 65568 false :: if now then [] else [at_ dstSpace c.dst 65536 true]
  | .put => [at_ (if putGlb c.src then 0 else s.cmdCore c + 1) c.dst c.data.length true]
  | .accSend => [at_ (s.cmdCore c + 1) c.dst c.data.length true]
  | .deal =>
    at_ 0 c.src (dealTotal c) false ::
      ((List.range (min 64 (dealNt c))).filterMap fun t => s.physOf c.agent.die c.launch.pad.toNat (dealFirst c + t)).map fun core =>
        at_ (core + 1) (word (dealDst c)) ((dealNblk c - 1) / max 1 (dealNt c) * dealRstr c + dealBlk c * 64) true

def Footprint.clash (x y : Footprint) : Bool :=
  x.space == y.space && (x.writes || y.writes) && decide (x.lo < y.hi) && decide (y.lo < x.hi)

/-- An earlier command of the same context and class that may share an address is not complete (R94). -/
def State.mustWait (s : State) (die str : Nat) (c : Cmd) : Bool :=
  (s.strAt die str).queue.values.any fun e =>
    e.agent.same c.agent && e.launch.uid == c.launch.uid && e.kind.cls == c.kind.cls && c.ticket != e.ticket &&
      decide ((c.ticket - e.ticket).toNat < 32768) &&
      (s.footprints e false).any fun x => (s.footprints c true).any fun y => x.clash y

/-! ## Places on the two sides (R343) -/

/-- Source and destination of a row. -/
def Cmd.rowAt (c : Cmd) (r : Nat) : Word × Word :=
  let n1 := dimCount c.e0
  (c.src + iword (rowDist c.e0 c.e1 false (r / n1) (r % n1)), c.dst + iword (rowDist c.e0 c.e1 true (r / n1) (r % n1)))

/-- The address of a source byte by its place in linear order, and the bytes of its row from there on. -/
def Cmd.srcRun (c : Cmd) (p : Nat) : Word × Nat :=
  if c.kind = .cpyT then (c.src + word p, c.goal - p)
  else ((c.rowAt (p / cpyLen c.e2)).1 + word (p % cpyLen c.e2), cpyLen c.e2 - p % cpyLen c.e2)

/-- The same of a destination byte. -/
def Cmd.dstRun (c : Cmd) (p : Nat) : Word × Nat :=
  if c.kind = .cpy then ((c.rowAt (p / cpyLen c.e2)).2 + word (p % cpyLen c.e2), cpyLen c.e2 - p % cpyLen c.e2)
  else (c.dst + word p, c.data.length - p)

/-! ## Circuits that carry words (R48, R49, R51, R65, R66) -/

def State.circuit? (s : State) (die cid : Nat) : Option Circuit := (s.yardAt die).circuits.find? cid

def State.setCircuit (s : State) (die : Nat) (c : Circuit) : State :=
  s.modYard die fun y => { y with circuits := y.circuits.set c.cid c }

def State.modCircuit (s : State) (die cid : Nat) (f : Circuit → Circuit) : State :=
  match s.circuit? die cid with
  | some c => s.setCircuit die (f c)
  | none => s

/-- The next wheel time, from a given one on, at which a chain starts. -/
def Chain.next (h : Chain) (t : Nat) : Nat :=
  let m := max t h.since
  m + (h.start + 256 - m % 256) % 256

/-- The words of a circuit's chains, or (`back`) of its response chain (R431). -/
def Circuit.lane (c : Circuit) (back : Bool) : Lane :=
  if back then c.back else { tx := c.tx, rx := c.rx, words := c.words, last := c.last }

def Circuit.setLane (c : Circuit) (back : Bool) (l : Lane) : Circuit :=
  if back then { c with back := l } else { c with tx := l.tx, rx := l.rx, words := l.words, last := l.last }

/-- The chains that those words ride, and their path. -/
def Circuit.laneChains (c : Circuit) (back : Bool) : List Chain :=
  if back then c.resp.toList.map fun r => { num := 255, start := r.2, live := c.st != .pending } else c.chains

def Circuit.lanePath (c : Circuit) (back : Bool) : List Nat := if back then (c.resp.map (·.1)).getD [] else c.path

/-- The slot of a circuit's next word: the earliest start of a chain on which its source may inject, after the slot taken last
(R48). -/
def Circuit.nextSlot (c : Circuit) (back : Bool) (now : Nat) : Option Nat :=
  ((c.laneChains back).filter (·.live)).foldl (fun best h =>
    let t := h.next (max now ((c.lane back).last + 1))
    match best with
    | none => some t
    | some b => some (min b t)) none

/-- A word of a circuit that waits at its source for its start slot. -/
def firstFlit (die : Nat) (x : Circuit) (back : Bool) (seq : BitVec 16) (t : Nat) : Flit :=
  let k := (x.lanePath back).headD 0
  { unit := keyUnit k, row := keyRow k, col := keyCol k, inp := if x.seg.isSome && !back then 6 else 4, die := die, cid := x.cid, seq := seq
    wt := word t, src := true, back := back }

/-- The source still has to keep a word: its receiver has not had it, or it was sent within two revolutions (R65). -/
def Lane.keeps (c : Lane) (now : Nat) (w : CircWord) : Bool :=
  decide ((w.seq - c.rx).toNat < 32768) || decide (now < w.at_ + 512)

/-- A word takes the next sequence number of its circuit and waits for the circuit's next slot (R48, R51); while the source injects
nothing, it waits among the words to be sent. -/
def State.inject (s : State) (die cid : Nat) (back : Bool) (l : Load) : State :=
  match s.circuit? die cid with
  | none => s
  | some c =>
    let now := s.wt.toNat
    let q := c.lane back
    let q := { q with words := q.words.filter (q.keeps now) }
    match (if c.suspended then none else c.nextSlot back now) with
    | none => s.setCircuit die (c.setLane back { q with tx := q.tx + 1, words := q.words ++ [{ seq := q.tx, at_ := now, load := l }] })
    | some t =>
      { s.setCircuit die (c.setLane back
          { q with tx := q.tx + 1, last := t, words := q.words ++ [{ seq := q.tx, at_ := t, load := l }] }) with
        flits := s.flits ++ [firstFlit die c back q.tx t] }

/-- What a leg of a command reaches. -/
inductive Leg where
  | hbm (pg : Nat)
  | vault (v : Nat)
  | peer (pg idx : Nat)
  | store (core : Nat)
deriving DecidableEq, Repr, Inhabited

/-- An endpoint is where a leg goes. -/
def Leg.reaches (e : BitVec 32) : Leg → Bool
  | .hbm pg => epKind e == 3 && epPg e == pg
  | .vault v => epKind e == 4 && epIdx e == v
  | .peer pg i => epKind e == 5 && epPg e == pg && epIdx e == i
  | .store core => (epKind e == 0 && epRow e * 64 + epCol e == core) || (epKind e == 1 && epRow e * 8 + epCol e / 8 == strOf core)

/-- How a leg goes: over standing circuits or the peer path, over the command's circuit, not now, or not any more (R343). -/
inductive Ride where
  | standing
  | carried
  | held
  | ended (code : Nat)
deriving DecidableEq, Repr, Inhabited

/-- The slots that a circuit borrows from a vault circuit carry images at present (R451). -/
def State.lentHeld (s : State) (c : Circuit) : Bool :=
  epKind c.dst == 4 && c.path.any fun k =>
    let p := (s.strAt (keyUnit k) (keyRow k * 8 + keyCol k / 8)).pre
    decide (keyUnit k < 4) && keyPort k == 5 &&
      (p.writing || p.releasing || ((p.choice == some .save || p.choice == some .discard) && !p.held))

/-- How a circuit that a leg rides takes it (R343, R66, R68, R451): the circuit is the one that the command named at issue. -/
def State.rideOn (s : State) (die : Nat) (c : Cmd) (cid : Nat) : Ride :=
  match s.circuit? die cid with
  | none => .ended 9
  | some x =>
    if (x.src, x.dst) ≠ c.ends || x.pad != c.launch.pad then .ended 9
    else if x.st = .failed then .ended 8
    else if (x.chains.filter (·.live)).isEmpty && !x.suspended then .ended 9
    else if x.suspended || s.lentHeld x then .held
    else .carried

/-- How the circuit that a command names takes a leg away from the string's copy engine (`up`) or to it. -/
def State.rideOf (s : State) (die str : Nat) (c : Cmd) (cid : Nat) (up : Bool) (leg : Leg) : Ride :=
  let ends := if up then c.ends else (c.ends.2, c.ends.1)
  if cid = 0 || ends.1 != engineEnd die str || !leg.reaches ends.2 then .standing else s.rideOn die c cid

/-- How the circuit that a deal names takes the words of a port group for a core's string (R97, R347). -/
def State.rideOfDeal (s : State) (die : Nat) (c : Cmd) (cid pg core : Nat) : Ride :=
  if cid = 0 || !(Leg.hbm pg).reaches c.ends.1 || c.ends.2 != engineEnd die (strOf core) then .standing else s.rideOn die c cid

/-- The circuit that a command names for its legs: none for a PUT or ACC.SEND. -/
def Cmd.cid (c : Cmd) : Nat :=
  match c.kind with
  | .cpy => cpyCid c.e2
  | .cpyT => cpyCid c.e2
  | .cpyDig => cpyCid c.e2
  | .deal => bits c.dst 11 0
  | _ => 0

/-! ## Accesses of the engine -/

/-- The request of an engine access at a place of the command's linear order. -/
def State.engReq (s : State) (die str slot : Nat) (c : Cmd) (p : Nat) (va : Word) (n : Nat) (op : MemOp) : Req :=
  { agent := c.agent, launch := c.launch, ten := c.launch.ten, pg := pgOf va, va := va, runs := [(va.toNat, n)]
    op := op, plain := c.who.plain, stamp := c.stamp, ipkg := s.pkg.number, idie := die, ident := c.ident
    slot := some (str, slot), ticket := c.ticket, pos := p }

/-- The answer of a read goes to the read that was asked for. -/
def EngRead.take (y : EngRead) (pos n : Nat) (x : Reply) : EngRead :=
  if y.wait = .sent ∧ y.pos = pos ∧ y.n = n then { y with wait := .performed x } else y

/-- An answer is with the stream or the command that waits for it, and the access is performed. -/
def State.handReply (s : State) (r : Req) (x : Reply) : State :=
  match r.slot with
  | some (str, n) => s.modCmd r.idie str n fun c =>
      if !c.agent.same r.agent || c.launch.uid != r.launch.uid || c.ticket != r.ticket then c
      else if r.op.acc = 0 then { c with reads := c.reads.map (·.take r.pos r.op.size x) }
      else { c with wait := if c.wait = .sent then .performed x else c.wait }
  | none => s.modCtx (ctxKey r.agent.die r.agent.core r.agent.ctx) fun c =>
      if c.launch.uid != r.launch.uid then c
      else if r.agent.rep then { c with waitRep := if c.waitRep = .sent then .performed x else c.waitRep }
      else { c with wait := if c.wait = .sent then .performed x else c.wait }

/-- A word of an access sets out on the circuit that carries it; where the circuit is closed or has failed, its command ends (R343). -/
def State.sendOn (s : State) (die cid : Nat) (r : Req) (l : Load) : State :=
  match s.circuit? die cid with
  | none => s.handReply r (.word 9)
  | some c =>
    if c.st = .failed then s.handReply r (.word 8)
    else if (c.chains.filter (·.live)).isEmpty && !c.suspended then s.handReply r (.word 9)
    else s.inject die cid false l

/-- A response sets out on the response chain of the circuit that has carried its access (R431). -/
def State.sendBack (s : State) (die cid : Nat) (r : Req) (x : Reply) : State :=
  match s.circuit? die cid with
  | none => s.handReply r (.word 9)
  | some c =>
    if c.st = .failed then s.handReply r (.word 8)
    else if c.resp.isNone && !c.suspended then s.handReply r (.word 9)
    else s.inject die cid true (.reply r x)

/-- 128 B words that carry the data of an answer, two lines each (R45, R427). -/
def Req.replyWords (r : Req) (x : Reply) : Nat :=
  match x with
  | .data _ => max 1 ((max r.pieces.length (r.runs.flatMap fun y => lineParts 1026 y.1 y.2).length + 1) / 2)
  | _ => 1

/-- An answer sets out: on the circuit that carries a command's data, on the response chain of the circuit that carried the access, or
on standing circuits (R343, R431). -/
def State.answerReq (s : State) (r : Req) (x : Reply) : State :=
  if r.via ≠ 0 then
    ((List.range (r.replyWords x - 1)).foldl (fun s _ => s.sendOn r.idie r.via r .part) s).sendOn r.idie r.via r (.reply r x)
  else if r.up ≠ 0 ∧ r.peer then s.sendBack r.idie r.up r x
  else s.handReply r x

/-- An access sent on the circuit of its command, unless its string's port holds such requests. -/
def State.sendCarried (s : State) (die cid : Nat) (held : Bool) (str : Nat) (r : Req) : State :=
  if held then s.modStr die str fun y => { y with held := y.held ++ [{ r with up := cid }] }
  else s.inject die cid false (.access { r with up := cid })

/-- Where a translated access goes. -/
def Req.leg (r : Req) : Leg :=
  if r.peer then .peer (pgOf r.va) (bits r.va 46 39)
  else
    match r.pieces with
    | p :: _ => if p.vault then .vault p.unit else .hbm p.unit
    | [] => .hbm r.pg

/-- A translated access of a command goes its way: a write on the circuit that carries it; otherwise to its port group, its
exporter or its vault. A read's data ride the circuit that carries them (R343). `sent` notes that it is under way; `now` takes an
answer that comes at once. -/
def State.engSend (s : State) (die str : Nat) (c : Cmd) (r : Req) (sent : State → State) (now : Reply → State → State) : State :=
  let up := r.op.acc != 0
  match s.rideOf die str c c.cid up r.leg with
  | .ended code => now (.word (word code)) s
  | .held => s
  | ride =>
    if ride = .carried ∧ up then
      let stopped := match r.leg with
        | .hbm pg => (s.strAt die str).stops.contains (r.ten.toNat * 16 + pg)
        | .peer pg _ => r.tos.any (s.peerStopped die str pg)
        | _ => false
      sent (s.sendCarried die c.cid stopped str r)
    else
      let r := if ride = .carried then { r with via := c.cid } else r
      if r.peer then sent (s.sendPeer die str r)
      else if r.pieces.any fun p => !p.vault then sent (s.sendHbm die str r)
      else
        match s.performPieces die c.who r.va r.op r.pieces with
        | (x, s) => if r.via = 0 then now x s else (sent s).answerReq r x

/-! ## Portions of a side (R35, R39, R425) -/

/-- Ranges of one 4 KiB page each that make up n bytes from an address. -/
def pageParts : Nat → Nat → Nat → List (Nat × Nat)
  | 0, _, _ => []
  | fuel + 1, va, n =>
    if n = 0 then [] else
      let k := min n (4096 - va % 4096)
      (va, k) :: pageParts fuel (va + k) (n - k)

/-- Lines of one page translated by an engine and their port groups: the places, or the first fault and its address. -/
def State.linePieces (s : State) (die str asid : Nat) (acc : Access) :
    List (Nat × Nat) → Except (Word × XFault) (List Piece) × State
  | [] => (.ok [], s)
  | (va, n) :: rest =>
    match s.pieces die (.engine str) asid acc [(va, n)] with
    | (.error f, s) => (.error (word va, f), s)
    | (.ok l, s) =>
      match State.linePieces s die str asid acc rest with
      | (.error f, s) => (.error f, s)
      | (.ok l', s) => (.ok (l ++ l'), s)

/-- Pages translated in turn. -/
def State.pagePieces (s : State) (die str asid : Nat) (acc : Access) :
    List (Nat × Nat) → Except (Word × XFault) (List Piece × SMap PeerTo) × State
  | [] => (.ok ([], []), s)
  | (va, n) :: rest =>
    match addrFault (word va) n with
    | some f => (.error (word va, f), s)
    | none =>
      match (if bit (word va) 47 then
          match s.peerTos die (.engine str) asid acc [(va, n)] with
          | (.error f, s) => (Except.error f, s)
          | (.ok l, s) => (.ok (([] : List Piece), l.map fun x => (va / 4096, x)), s)
        else
          match s.linePieces die str asid acc (lineParts 66 va n) with
          | (.error f, s) => (.error f, s)
          | (.ok l, s) => (.ok (l, []), s)) with
      | (.error f, s) => (.error f, s)
      | (.ok x, s) =>
        match State.pagePieces s die str asid acc rest with
        | (.error f, s) => (.error f, s)
        | (.ok y, s) => (.ok (x.1 ++ y.1, x.2 ++ y.2), s)

/-- A portion translated: the place of its first byte, its address and its length. -/
def State.openPart (s : State) (die str : Nat) (c : Cmd) (acc : Access) (p : Nat) (a : Word) (n : Nat) :
    Except (Word × XFault) EngPart × State :=
  match s.pagePieces die str c.launch.asid.toNat acc (pageParts 20 a.toNat n) with
  | (.error f, s) => (.error f, s)
  | (.ok x, s) => (.ok { pos := p, va := a, n := n, pieces := x.1, tos := x.2 }, s)

def EngPart.has (x : EngPart) (p : Nat) : Bool := decide (x.pos ≤ p) && decide (p < x.pos + x.n)

/-- The part of a piece within a range of addresses. -/
def Piece.within (p : Piece) (a n : Nat) : Option Piece :=
  let lo := max p.va.toNat a
  let hi := min (p.va.toNat + p.n) (a + n)
  if lo < hi then some { p with va := word lo, pa := p.pa + (lo - p.va.toNat), n := hi - lo } else none

/-- The portion of a side that holds a place: the present one, or, once that is behind, the next, translated afresh and kept until all
of it has been moved (R35, R425). -/
def State.withPart (s : State) (die str slot : Nat) (c : Cmd) (write : Bool) (p : Nat) (fail : Word × XFault → State → State)
    (k : EngPart → State → State) : State :=
  match (if write then c.dstPart else c.srcPart).filter (·.has p) with
  | some x => k x s
  | none =>
    let (a, n) := if write then c.dstRun p else c.srcRun p
    match s.openPart die str c (bnat write) p a (min n (4096 - a.toNat % 4096)) with
    | (.error f, s) => fail f s
    | (.ok x, s) => k x (s.modCmd die str slot fun c => if write then { c with dstPart := some x } else { c with srcPart := some x })

/-- The request of an access within a portion. -/
def State.partReq (s : State) (die str slot : Nat) (c : Cmd) (x : EngPart) (p n : Nat) (op : MemOp) : Req :=
  let a := x.va + word (p - x.pos)
  let tos := (x.tos.find? (a.toNat / 4096)).toList
  { s.engReq die str slot c p a n op with
    peer := !tos.isEmpty, tos := tos, pieces := x.pieces.filterMap fun y => y.within a.toNat n }

/-! ## Reads (R426) -/

/-- Bytes of a range before the first word with an uncorrectable error. -/
def State.soundBytes (s : State) (a n : Nat) : Nat :=
  ((List.range n).find? fun j => s.bad.contains ((a + j) / 8)).getD n

/-- A read of the issuer's local store; one that meets an uncorrectable error gives the words before it first (R101). -/
def State.localRead (s : State) (die : Nat) (c : Cmd) (a : Word) (n : Nat) : Nat × Reply × State :=
  let g := lsBase die c.core + a.toNat
  let m := s.soundBytes g n
  if m = 0 then (1, .mem a (merrInfo 2 1 0 0), s.eccCount die)
  else
    match (s.eccCorrect die g m).view c.agent 1 g ((s.eccCorrect die g m).bytesAt g m) with
    | (l, s) => (m, .data (s.seen c.agent a.toNat l), s)

/-- A read of a copy engine that goes to a port group. -/
def Req.engRead (r : Req) : Bool := r.slot.isSome && !r.peer && r.op.acc == 0

/-- Fewer than eight request words have gone to a port group in a revolution (R426). -/
def Str.askable (x : Str) (rev pg : Nat) : Bool :=
  match x.asks.find? pg with
  | some (r, n) => r != rev || decide (n < 8)
  | none => true

/-- The engine may send a port group one more request word: eight in a revolution; while its port holds them, eight wait there
(R71, R426). -/
def State.mayAsk (s : State) (die str ten pg : Nat) : Bool :=
  let x := s.strAt die str
  if x.stops.contains (ten * 16 + pg) then
    decide ((x.held.filter fun r => r.engRead && r.pg == pg).length < 8)
  else x.askable s.rev pg

/-- It has sent one. -/
def State.noteAsk (s : State) (die str pg : Nat) : State :=
  s.modStr die str fun x =>
    { x with asks := x.asks.set pg (s.rev, match x.asks.find? pg with
      | some (rev, n) => if rev = s.rev then n + 1 else 1
      | none => 1) }

/-- The next read of a command: of its local store at most a line, otherwise the part of one naturally aligned 256 B unit that the
portion holds (R426). -/
def State.askRead (s : State) (die str slot : Nat) (c : Cmd) : State :=
  let p := c.asked
  let put (n : Nat) (aim : Aim) (w : Wait) (s : State) : State :=
    s.modCmd die str slot fun x => { x with reads := x.reads ++ [{ pos := p, va := (c.srcRun p).1, n := n, aim := aim, wait := w }] }
  if c.goal ≤ p || (c.short != 0 && !c.reads.isEmpty) || c.reads.any (·.failed) then s
  else if c.localSrc then
    if !c.reads.isEmpty then s
    else
      let (a, n) := c.srcRun p
      match s.rideOf die str c c.cid false (.store c.core) with
      | .ended code => put 1 {} (.answered (.word (word code))) s
      | .held => s
      | _ =>
        match s.localRead die c a (min n (64 - a.toNat % 64)) with
        | (m, x, s) => put m {} (.answered x) s
  else
    s.withPart die str slot c false p
      (fun f s => put 1 {} (.answered (.xlat f.1 (fltInfo f.2 1 0 c.launch.asid.toNat f.1))) s) fun x s =>
        let a := x.va + word (p - x.pos)
        let n := min (x.pos + x.n - p) (256 - a.toNat % 256)
        let n := if c.short = 0 then n else min n c.short
        let r := s.partReq die str slot c x p n (.read n)
        let hbm := r.pieces.any fun y => !y.vault
        if hbm && !s.mayAsk die str r.ten.toNat (pgOf a) then s
        else s.engSend die str c r
          (fun s =>
            let s := put n x.aim .sent s
            if hbm && !(s.strAt die str).stops.contains (r.ten.toNat * 16 + pgOf a) then s.noteAsk die str (pgOf a) else s)
          fun y s => put n x.aim (.answered y) s

/-- The length at which a failed read is made again: the words before an uncorrectable error, the lines before a race; 0 where it
stands at its first (R101, R148). -/
def Cmd.retry (c : Cmd) (r : EngRead) : Nat :=
  let a := (c.srcRun r.pos).1.toNat
  match r.reply with
  | some (.mem _ _) => (a + r.n - 1) / 8 * 8 - a
  | some (.race _ _) => (a + r.n - 1) / 64 * 64 - a
  | _ => 0

/-- The oldest read taken once it is answered: its bytes join the staged ones. A failure ends the command when the bytes before it are
written. -/
def State.takeRead (s : State) (die str slot : Nat) (c : Cmd) : State :=
  match c.reads with
  | [] => s
  | r :: rest =>
    match r.reply with
    | none => s
    | some (.data l) => s.modCmd die str slot fun x =>
        { x with reads := rest, short := 0, data := x.data ++ l, pos := if x.kind = .cpy then x.pos else x.pos + l.length }
    | some y =>
      if c.retry r ≠ 0 then s.modCmd die str slot fun x => { x with reads := [], short := c.retry r }
      else if c.kind = .cpy && !c.data.isEmpty then s
      else
        let done := if c.kind = .cpyT then 0 else c.pos
        match y with
        | .word w => s.stopCmd die str slot w.toNat done 0 0
        | y => s.stopReply die str slot done c y

/-- A step of a command that has not ended, on the command as it then stands. -/
def State.onCmd (s : State) (die str slot : Nat) (f : Cmd → State → State) : State :=
  match s.cmdAt die str slot with
  | some c => if c.fin.isSome then s else f c s
  | none => s

/-- The oldest read taken, and the next one asked for. -/
def State.readStep (s : State) (die str slot : Nat) (c : Cmd) : State :=
  (s.takeRead die str slot c).onCmd die str slot fun c s => s.askRead die str slot c

/-! ## Writes -/

/-- Bytes on their way to a local store, at most 64 B in a word (R82), as their leg rides; `lin` is what stands of the command if
they are lost. `gone` is taken where the circuit is no longer there. -/
def State.sendBy (s : State) (die str slot : Nat) (c : Cmd) (ride : Ride) (core off lin : Nat) (l : List Byte)
    (gone : Nat → State → State) (k : State → State) : State :=
  let parts := lineParts 2048 off l.length
  let p (x : Nat × Nat) : Payload :=
    { str := str, slot := slot, agent := c.agent, uid := c.launch.uid, core := core, off := x.1
      bytes := (l.drop (x.1 - off)).take x.2, full := cpyFull c.e2, cls := BitVec.ofNat 3 c.kind.cls, ident := c.ident, lin := lin }
  let more (s : State) : State := s.modCmd die str slot fun x => { x with out := x.out + parts.length }
  match ride with
  | .ended code => gone code s
  | .held => s
  | .carried => k (more (parts.foldl (fun s x => s.inject die c.cid false (.payload (p x))) s))
  | .standing => k (more (s.modDie die fun d => { d with payloads := d.payloads ++ parts.map p }))

/-- Bytes of a copy, PUT or ACC.SEND sent to a local store; where the circuit is gone the command ends there. -/
def State.sendPayload (s : State) (die str slot : Nat) (c : Cmd) (core off lin : Nat) (l : List Byte) (k : State → State) : State :=
  s.sendBy die str slot c (s.rideOf die str c c.cid true (.store core)) core off lin l
    (fun code s => s.stopCmd die str slot code lin 0 0) k

/-- A write of the bytes at the command's place; `k` runs once it is performed or sent to its local store. -/
def State.engWrite (s : State) (die str slot : Nat) (c : Cmd) (l : List Byte) (done : Nat) (k : State → State) : State :=
  if c.localDst then s.sendPayload die str slot c (s.dstCore c) (c.dstRun c.pos).1.toNat done l k
  else
    let now (r : Reply) (s : State) : State :=
      let s := s.modCmd die str slot fun x => { x with wait := .idle }
      match r with
      | .data _ => k s
      | .word w => s.stopCmd die str slot w.toNat done 0 0
      | r => s.stopReply die str slot done c r
    match c.wait with
    | .answered r => now r s
    | .performed r => now r s
    | .sent => s
    | .idle =>
      s.withPart die str slot c true c.pos
        (fun f s => s.stopCmd die str slot 1 done f.1 (fltInfo f.2 1 1 c.launch.asid.toNat f.1)) fun x s =>
          s.engSend die str c (s.partReq die str slot c x c.pos l.length (.write l))
            (fun s => s.modCmd die str slot fun x => { x with wait := .sent }) now

/-- The bytes at the command's place that one write takes: within a row, and within one 64 B line of the destination. -/
def Cmd.writeRoom (c : Cmd) : Nat :=
  let (b, n) := c.dstRun c.pos
  min n (64 - b.toNat % 64)

/-! ## CPY -/

/-- Offset of the header of the block at an offset of a side's local store (R79). An Aster range that does not start on a block
boundary, or that runs on into a next bank of the same format, takes its headers in turn from that of the block that holds its first
byte (log 124). -/
def Cmd.hdrAt (c : Cmd) (dst : Bool) (off : Nat) : Nat :=
  bankOf off * 2 ^ 14 + 4 * bits (c.bank dst (bankOf off)) 27 16 + 4 * (off % 2 ^ 14 / blockBytes (c.fmtAt dst (word off)))

/-- Bytes lie in the local store and in banks of one format, with the headers of their blocks in the store; a header array may run on
into a bank of another format (log 139). -/
def Cmd.inFormat (c : Cmd) (dst : Bool) (a : Word) (n fmt : Nat) : Bool :=
  n == 0 || (!lsOutside a n &&
    ((List.range ((a.toNat + n - 1) / 2 ^ 14 + 1 - a.toNat / 2 ^ 14)).all fun j =>
      c.fmtAt dst (word ((a.toNat / 2 ^ 14 + j) * 2 ^ 14)) == fmt) &&
    (!isAster fmt || decide (c.hdrAt dst a.toNat + 4 * (n / blockBytes fmt) ≤ 2 ^ 17)))

/-- The conversion is refused before any byte is written (R80). -/
def Cmd.convRefused (c : Cmd) : Bool :=
  let f := c.fmtAt false c.src
  let g := c.fmtAt true c.dst
  let len := cpyLen c.e2
  let n := len * 8 / elemBits f
  isIntFmt f != isIntFmt g || len * 8 % elemBits f != 0 || ((isAster f || isAster g) && n % 32 != 0) ||
    (List.range (dimCount c.e1 * dimCount c.e0)).any fun r =>
      !c.inFormat false (c.rowAt r).1 len f || !c.inFormat true (c.rowAt r).2 (colBytes g n) g

/-- The blocks of a row up to the first with tag 10 (R80). -/
def goodBlocks (hdrs : List Nat) : Nat := (hdrs.takeWhile fun h => hdrTag h != 2).length

/-- One row converted and sent to its destination (R80, R344). -/
def State.convertRowStep (s : State) (die str slot : Nat) (c : Cmd) : State :=
  let f := c.fmtAt false c.src
  let g := c.fmtAt true c.dst
  let len := cpyLen c.e2
  let (a, b) := c.rowAt (c.pos / len)
  let base := lsBase die c.core
  let h := c.hdrAt false a.toNat
  let nb := if isAster f then len / blockBytes f else 0
  if s.eccHit (base + a.toNat) len || s.eccHit (base + h) (4 * nb) then
    (s.eccCount die).stopCmd die str slot 2 c.pos a (merrInfo 2 1 0 0)
  else
    let s := (s.eccCorrect die (base + a.toNat) len).eccCorrect die (base + h) (4 * nb)
    let (hb, s) := s.view c.agent 1 (base + h) (s.bytesAt (base + h) (4 * nb))
    let hdrs := unpackHdrs hb
    let whole := goodBlocks hdrs == nb
    let n := if whole then len * 8 / elemBits f else 32 * goodBlocks hdrs
    let (eb, s) := s.view c.agent 1 (base + a.toNat) (s.bytesAt (base + a.toNat) (n * elemBits f / 8))
    match convertRow f g (unpackElems f n (s.seen c.agent a.toNat eb)) (hdrs.take (n / 32)) with
    | none => s.stopCmd die str slot 5 c.pos 0 0
    | some (e, h) =>
      s.sendPayload die str slot c (s.dcore c) b.toNat c.pos (packElems g e) fun s =>
        let next (s : State) : State :=
          if whole then s.modCmd die str slot fun x => { x with pos := x.pos + len }
          else s.stopCmd die str slot 5 (c.pos + goodBlocks hdrs * blockBytes f) 0 0
        if isAster g then s.sendPayload die str slot c (s.dcore c) (c.hdrAt true b.toNat) c.pos (packHdrs h) next else next s

/-- The staged bytes written as far as they fill a line of the destination; fewer where no more can come. -/
def State.copyWrite (s : State) (die str slot : Nat) (c : Cmd) : State :=
  let stuck := (c.reads.head?.map (·.failed)).getD false
  if c.data.isEmpty || (decide (c.data.length < c.writeRoom) && !stuck) then s
  else
    let l := c.data.take c.writeRoom
    s.engWrite die str slot c l c.pos fun s =>
      s.modCmd die str slot fun x => { x with pos := x.pos + l.length, data := x.data.drop l.length }

/-- One step of a copy: the end, a converted row, or the taking of a read, a write and the next read. -/
def State.cpyStep (s : State) (die str slot : Nat) (c : Cmd) : State :=
  if c.pos = c.total then s.stopCmd die str slot 0 c.total 0 0
  else if c.converts then
    (if c.pos = 0 && c.convRefused then s.stopCmd die str slot 4 0 0 0 else s.convertRowStep die str slot c)
  else
    ((s.takeRead die str slot c).onCmd die str slot fun c s => s.copyWrite die str slot c).onCmd die str slot fun c s =>
      s.askRead die str slot c

/-! ## PUT and ACC.SEND -/

/-- A write of the bytes that a command holds, from its place on: a line of the destination, or the end. -/
def State.resultStep (s : State) (die str slot : Nat) (c : Cmd) (done : Nat → Nat) : State :=
  if c.pos = c.data.length then s.stopCmd die str slot 0 (done c.pos) 0 0
  else
    let l := (c.data.drop c.pos).take c.writeRoom
    s.engWrite die str slot c l (done c.pos) fun s => s.modCmd die str slot fun x => { x with pos := x.pos + l.length }

/-! ## CPY.DIG and CPY.T -/

/-- The whole destination translated with W before a result is written (R345, R346). -/
def State.resultReady (s : State) (die str slot : Nat) (c : Cmd) (l : List Byte) (done : Nat) : State :=
  let go (x : Option EngPart) (s : State) : State := s.modCmd die str slot fun c =>
    { c with data := l, pos := 0, started := true, done := done, dstPart := x }
  if cpyDls c.e2 then go none s
  else
    match s.openPart die str c 1 0 c.dst l.length with
    | (.error f, s) => s.stopCmd die str slot 1 done f.1 (fltInfo f.2 1 1 c.launch.asid.toNat f.1)
    | (.ok x, s) => go (some x) s

/-- One step of CPY.DIG (R345): a portion of the source read, the digest taken, or a portion of it written. -/
def State.digStep (s : State) (die str slot : Nat) (c : Cmd) : State :=
  if c.started then s.resultStep die str slot c fun _ => c.done
  else if c.pos = c.total then s.resultReady die str slot c (shake256 32 c.data) c.total
  else s.readStep die str slot c

/-- The chunk header is refused (R346). -/
def chunkBad (c : Cmd) (hdr : List Byte) : Bool :=
  let n := chunkLen hdr
  n == 0 || decide (65536 < n) || bytesNat ((hdr.drop 12).take 4) != 0 || (cpyDls c.e2 && lsOutside c.dst n)

/-- The stream of an identifier bound to an ASID (R405). -/
def Die.streamOf (d : Die) (id : BitVec 32) (asid : BitVec 11) : Option Stream :=
  d.streams.find? fun x => x.id == id && x.asid == asid

/-- The checks and the decryption of a chunk whose bytes have all been read (R346). -/
def State.chunkStep (s : State) (die str slot : Nat) (c : Cmd) : State :=
  let id : BitVec 32 := BitVec.ofNat 32 (bits c.e3 63 32)
  let hdr := c.data.take 16
  let n := chunkLen hdr
  let ctr := word (bytesNat (hdr.take 8))
  match (s.dieAt die).streamOf id c.launch.asid with
  | none => s.stopCmd die str slot 0x0C 0 0 0
  | some x =>
    if ctr ≤ x.last then s.stopCmd die str slot 0x0B 0 0 0
    else
      let s := s.modDie die fun d =>
        { d with streams := d.streams.map fun y => if y.id == id && y.asid == c.launch.asid then { y with last := ctr } else y }
      match gcmOpen x.key (beBytes 4 id.toNat ++ beBytes 8 ctr.toNat) hdr ((c.data.drop 16).take n) (c.data.drop (16 + n)) with
      | none => s.stopCmd die str slot 0x0A 0 0 0
      | some l => s.resultReady die str slot c l 0

/-- One step of CPY.T (R346). -/
def State.chunkCopyStep (s : State) (die str slot : Nat) (c : Cmd) : State :=
  if c.started then s.resultStep die str slot c id
  else
    if c.pos = 16 && chunkBad c c.data then s.stopCmd die str slot 0x0D 0 0 0
    else if 16 ≤ c.pos && c.pos = c.goal then s.chunkStep die str slot c
    else s.readStep die str slot c

/-! ## DEAL (R96 to R98) -/

/-- The pattern is refused (R96, R98); R96 has DST and RSTR multiples of 64, and R98 names no outcome for others: here they count as
out of range (log 123). -/
def State.patternBad (s : State) (c : Cmd) : Bool :=
  decide (dealNt c < 1) || decide (64 < dealNt c) || decide (dealBlk c < 1) || decide (256 < dealBlk c) ||
    dealNblk c == 0 || bits c.e0 11 10 != 0 || bits c.e1 63 24 != 0 || dealDst c % 64 != 0 || dealRstr c % 64 != 0 ||
    ((List.range (dealNt c)).any fun t => (s.physOf c.agent.die c.launch.pad.toNat (dealFirst c + t)).isNone) ||
    decide (2 ^ 17 < dealDst c + (dealNblk c - 1) / dealNt c * dealRstr c + dealBlk c * 64)

/-- Some page of the source translates and is not of HBM kind (R98). -/
def State.dealKindBad (s : State) (die : Nat) (c : Cmd) : Bool :=
  (List.range ((c.src.toNat % 4096 + dealTotal c + 4095) / 4096)).any fun j =>
    let va := if j = 0 then c.src else word ((c.src.toNat / 4096 + j) * 4096)
    bit va 47 || match (s.pgTranslate die (pgOf va) c.launch.asid.toNat va 1 0).1 with
      | .ok e => e.kind != 0
      | .error _ => false

/-- The checks made once before any byte moves (R98). -/
def State.dealStart (s : State) (die str slot : Nat) (c : Cmd) : State :=
  if s.patternBad c then s.stopCmd die str slot 6 0 0 0
  else if s.dealKindBad die c then s.stopCmd die str slot 7 0 0 0
  else s.modCmd die str slot fun x => { x with started := true }

/-- Where a byte of the source goes (R97). -/
def State.dealTarget (s : State) (c : Cmd) (pos : Nat) : Nat × Nat :=
  let i := pos / (dealBlk c * 64)
  ((s.physOf c.agent.die c.launch.pad.toNat (dealFirst c + i % dealNt c)).getD 0,
    dealDst c + i / dealNt c * dealRstr c + pos % (dealBlk c * 64))

/-- A port group's distributor reads the next 64 B line of a deal, if it serves it and its tenant's turn has come, and sends it
(R71, R97). -/
def State.dealLine (s : State) (die str slot pg : Nat) : State :=
  match s.cmdAt die str slot with
  | none => s
  | some c =>
    let va := c.src + word c.pos
    let asid := c.launch.asid.toNat
    let fault (f : XFault) : State → State := fun s => s.stopCmd die str slot 1 c.pos va (fltInfo f 3 0 asid va)
    if c.kind != .deal || c.fin.isSome || !c.started || pgOf va != pg || !s.mayServe die pg c.launch.ten.toNat then s
    else
      let (core, off) := s.dealTarget c c.pos
      match s.rideOfDeal die c c.cid pg core with
      | .held => s
      | .ended code => s.stopCmd die str slot code c.pos 0 0
      | ride =>
        match addrFault va 64 with
        | some f => fault f s
        | none =>
          match s.pgTranslate die pg asid va 64 0 with
          | (.error f, s) => fault f s
          | (.ok e, s) =>
            if e.kind != 0 then s.stopCmd die str slot 7 c.pos 0 0
            else
              match s.perform die .ports c.who va [(va.toNat, 64)] (.read 64) with
              | (.data l, s) =>
                s.sendBy die str slot c ride core off c.pos l (fun code s => s.stopCmd die str slot code c.pos 0 0) fun s =>
                  let s := s.modCmd die str slot fun x => { x with pos := x.pos + 64 }
                  if c.pos + 64 = dealTotal c then s.stopCmd die str slot 0 (dealTotal c) 0 0 else s
              | (r, s) => s.stopReply die str slot c.pos c r

/-! ## The events -/

/-- One step of a command. -/
def State.cmdStep (s : State) (die str slot : Nat) : State :=
  match s.cmdAt die str slot with
  | none => s
  | some c =>
    if c.fin.isSome || s.mustWait die str c then s
    else
      match c.kind with
      | .cpy => s.cpyStep die str slot c
      | .cpyDig => s.digStep die str slot c
      | .cpyT => s.chunkCopyStep die str slot c
      | .put => s.resultStep die str slot c id
      | .accSend => s.resultStep die str slot c id
      | .deal => if c.started then s else s.dealStart die str slot c

/-- A number of steps of a command. -/
def State.cmdSteps (s : State) (die str slot : Nat) : Nat → State
  | 0 => s
  | n + 1 => State.cmdSteps (s.cmdStep die str slot) die str slot n

/-- ENGINE_EXECUTE (R343): the engine makes a number of steps of the command in a slot. -/
def execEngineExecute (die : BitVec 2) (str : BitVec 8) (slot : BitVec 4) (n : Nat) (s : State) :
    Host.Outcome State Fault Refusal := .next (s.cmdSteps die.toNat str.toNat slot.toNat n)

/-- DEAL_BLOCK (R97): a port group reads and sends the bytes it serves of the 256 B at the command's place. -/
def execDealBlock (die : BitVec 2) (str : BitVec 8) (slot pg : BitVec 4) (s : State) : Host.Outcome State Fault Refusal :=
  let one (s : State) : State := s.dealLine die.toNat str.toNat slot.toNat pg.toNat
  .next (one (one (one (one s))))

/-- Byte mask of a word that a range covers. -/
def wordMask (w a n : Nat) : BitVec 8 :=
  BitVec.ofNat 8 (joinFields 1 ((List.range 8).map fun j => bnat (decide (a ≤ 8 * w + j) && decide (8 * w + j < a + n))))

/-- The store that a write to a core reaches: its own, or the image of the task that CTX.SAVE has saved of it while no other runs there
(R337). -/
def State.storeDie (s : State) (die core : Nat) : Nat :=
  if (s.images.find? (coreKey (slotDie die) core)).isSome && !(s.task die core).live then slotDie die else die

/-- The words of a payload with FULL, once all their bytes are written by the command, become full (R82). -/
def State.markFull (s : State) (die : Nat) (p : Payload) : State :=
  let a := lsBase (s.storeDie die p.core) p.core + p.off
  (wordsOf a p.bytes.length).foldl (fun s w =>
    let old := ((s.cmdAt die p.str p.slot).map fun c => c.got.getD w 0).getD 0
    let m := old ||| wordMask w a p.bytes.length
    let s := s.modCmd die p.str p.slot fun c => { c with got := c.got.set w m }
    if m = 0xFF then (s.setTag w true).fill w else s) s

/-- The bytes of an engine write put into a local store; those of an erroneous word covered only in part stay, and are
logged with an operation field of zero and class 0 (R100, R101; log 119). Into a saved core they go to its image (R337). -/
def State.putPayload (s : State) (die : Nat) (p : Payload) : State :=
  let home := s.storeDie die p.core
  let a := lsBase home p.core + p.off
  let bad (j : Nat) : Bool := s.badByte a p.bytes.length (a + j)
  let s' := (s.lsPutFor p.agent p.uid p.cls.toNat home p.core p.off
    ((List.range p.bytes.length).map fun j => if bad j then s.byte (a + j) else p.bytes.getD j 0)).nameWrite a p.bytes.length
      (((s.cmdAt die p.str p.slot).map (·.ticket)).getD 0)
  if (List.range p.bytes.length).any bad then
    match s.cmdAt die p.str p.slot with
    | some c => (s'.eccCount die).logFault p.agent c.launch p.ident (word p.off) (word (bytesNat (p.bytes.take 8))) 0x21 0 0
    | none => s'.eccCount die
  else s'

/-- The arrival notice of a PUT or ACC.SEND whose whole payload is written (R99, R196). -/
def State.raiseNotice (s : State) (die str slot : Nat) : State :=
  match s.cmdAt die str slot with
  | none => s
  | some c =>
    let sends := (c.kind == .put && !putGlb c.src) || c.kind == .accSend
    if sends && bit c.e2 62 && !c.noted && c.out == 0 && c.pos == c.data.length then
      let core := s.cmdCore c
      let m : Msg :=
        { kind := if c.kind == .put then 1 else 2, sender := c.ident, src := c.agent, core := core
          chan := BitVec.ofNat 3 (bits c.e2 61 59), payload := natBytes 8 c.dst.toNat ++ natBytes 8 c.data.length
          seq := c.seq, win := c.win, haddr := word (field (bits c.e2 47 1) 1), launch := c.launch, relay := strOf core }
      ((s.settle (lsBase (s.storeDie die core) core + c.dst.toNat) c.data.length).modDie die fun d => { d with msgs := d.msgs ++ [m] }).modCmd die str slot fun x => { x with noted := true }
    else s

/-- Two payloads of one agent share bytes. -/
def Payload.clash (p q : Payload) : Bool :=
  p.agent.same q.agent && p.core == q.core && decide (p.off < q.off + q.bytes.length) && decide (q.off < p.off + p.bytes.length)

/-- PAYLOAD_ARRIVAL (R82): the payload at a position of the die's list is written, unless an earlier one of the same agent
shares bytes with it (R94). -/
def execPayloadArrival (die : BitVec 2) (i : Nat) (s : State) : Host.Outcome State Fault Refusal :=
  let d := die.toNat
  .next (match (s.dieAt d).payloads[i]? with
    | none => s
    | some p =>
      if ((s.dieAt d).payloads.take i).any (·.clash p) then s
      else
        let s := (s.modDie d fun x => { x with payloads := dropAt x.payloads i }).putPayload d p
        let s := if p.full then s.markFull d p else s
        (s.modCmd d p.str p.slot fun c => { c with out := c.out - 1 }).raiseNotice d p.str p.slot)

/-- COMMAND_COMPLETE (R349): a command that has ended and whose writes have all arrived leaves the queue, and its status is
kept with those of its context's last 32 commands. -/
def execCommandComplete (die : BitVec 2) (str : BitVec 8) (slot : BitVec 4) (s : State) : Host.Outcome State Fault Refusal :=
  let d := die.toNat
  .next (match s.cmdAt d str.toNat slot.toNat with
    | none => s
    | some c =>
      match c.fin with
      | none => s
      | some (code, va, info) =>
        if c.out ≠ 0 then s
        else
          let st : CmdStatus :=
            { ticket := c.ticket, status := word (field code.toNat 56 + c.done % 2 ^ 48), va := va, info := info }
          let s := s.modStr d str.toNat fun x => { x with queue := x.queue.erase slot.toNat }
          s.modCtx (ctxKey d c.agent.core c.agent.ctx) fun x =>
            if x.launch.uid != c.launch.uid then x
            else { x with statuses := (st :: x.statuses).filter fun y => decide ((x.ticket - 1 - y.ticket).toNat < 32) })

end Sys2Proof.Machine
end

