-- ==== Sys2Proof/Machine/Message.lean ====
section
/-!
DEFINITION. Sys2Proof/Machine/Message.lean: messages, channels, the lean-to, handler runs and ordered batches (R63, R195 to
R205, R353 to R355).
-/

namespace Sys2Proof.Machine

/-! ## Channels (R195) -/

def Core.chCfg (c : Core) (n : Nat) : Word := c.csr.getD (Csr.chcfg + n) 0
def Core.chHnd (c : Core) (n : Nat) : Word := c.csr.getD (Csr.chhnd + n) 0
def Core.chPtr (c : Core) (n : Nat) : Word := c.csr.getD (Csr.chptr + n) 0
def Core.setCh (c : Core) (r n : Nat) (w : Word) : Core := { c with csr := c.csr.set (r + n) w }

def chEn (w : Word) : Bool := bit w 63
def chBase (w : Word) : Nat := bits w 59 43
def chCap (w : Word) : Nat := bits w 42 31 * 64
def ptrHead (w : Word) : Nat := bits w 50 34
def ptrTail (w : Word) : Nat := bits w 33 17
def ptrLean (w : Word) : Nat := bits w 16 0
def mkPtr (head tail lt : Nat) : Word := word (field (head % 2 ^ 17) 34 + field (tail % 2 ^ 17) 17 + min lt 0x1FFFF)

/-- Bytes of a record: the header and the padded payload (R196). -/
def Msg.need (m : Msg) : Nat := 16 + (m.payload.length + 15) / 16 * 16

/-- The record of a message (R196), with HD = 0. -/
def Msg.record (m : Msg) : List Byte :=
  natBytes 8 (field m.chan.toNat 60 + field m.sender.toNat 47 + field m.payload.length 38 + field m.kind.toNat 36 +
      m.win % 2 ^ 32) ++
    natBytes 8 m.seq.toNat ++ m.payload ++ List.replicate (m.need - 16 - m.payload.length) 0

/-- A pad record of a size (R196). -/
def padRecord (chan size : Nat) : List Byte :=
  natBytes 8 (field 1 63 + field chan 60 + field (size - 16) 38) ++ natBytes 8 0

/-- Where a message goes in its queue (R198): none where it must be diverted, otherwise the offset of a pad record, if one is
written, and the offset of the record. -/
def placeAt (cfg ptr : Word) (need : Nat) : Option (Option Nat × Nat) :=
  let cap := chCap cfg
  let head := ptrHead ptr
  let tail := ptrTail ptr
  let free : Int := (cap : Int) - 16 - ((tail : Int) - head) % cap
  if !chEn cfg then none
  else if head ≤ tail ∧ cap - tail < need then
    (if ((cap - tail : Nat) : Int) + need ≤ free then some (some tail, 0) else none)
  else if (need : Int) ≤ free then some (none, tail)
  else none

/-- The message written into its queue, if it fits (R198). -/
def State.place (s : State) (die core : Nat) (m : Msg) : Option State :=
  let n := m.chan.toNat
  let c := s.coreOf (coreKey die core)
  let cfg := c.chCfg n
  let ptr := c.chPtr n
  (placeAt cfg ptr m.need).map fun p =>
    let s := match p.1 with
      | some at_ => s.lsPutSeen die core (chBase cfg + at_) (padRecord n (chCap cfg - at_))
      | none => s
    (s.lsPutSeen die core (chBase cfg + p.2) m.record).modCore (coreKey die core) fun c =>
      ({ c with recs := c.recs ++ [{ chan := m.chan, off := p.2, msg := m }] } : Core).setCh Csr.chptr n
        (mkPtr (ptrHead ptr) ((p.2 + m.need) % chCap cfg) (ptrLean ptr))

/-! ## The lean-to (R198, R199) -/

/-- Bytes that a core's lean-to holds: diverted messages, and barrier arrivals as records of 16 bytes (R199). -/
def Core.leanBytes (c : Core) : Nat := (c.lean.map Msg.need).foldl (· + ·) (16 * c.leanBars.length)

/-- The lean-to has room for so many bytes more. -/
def Core.leanRoom (c : Core) (n : Nat) : Bool := decide (c.leanBytes + n ≤ 180224)

/-- LTCNT changed by one. -/
def Core.leanCount (c : Core) (n : Nat) (up : Bool) : Core :=
  let p := c.chPtr n
  c.setCh Csr.chptr n (mkPtr (ptrHead p) (ptrTail p) (if up then ptrLean p + 1 else ptrLean p - 1))

/-- A message diverted to the lean-to; none where it is full (R199). -/
def State.divert (s : State) (die core : Nat) (m : Msg) : Option State :=
  let c := s.coreOf (coreKey die core)
  if !c.leanRoom m.need then none
  else some (s.setCoreOf (coreKey die core) (({ c with lean := c.lean ++ [m] } : Core).leanCount m.chan.toNat true))

/-- A handler run of a core is of a message that it handles from the lean-to. -/
def State.leanRun (s : State) (die core : Nat) (m : Msg) : Bool :=
  [1, 2].any fun x =>
    match (s.ctxOf (ctxKey die core x)).run with
    | some r => r.lean && m.chan == r.chan && m.sender == r.sender && m.seq == r.seq
    | none => false

/-- Messages of a channel moved from the lean-to into its queue, in their arrival order, up to the first that does not fit
(R198). One that is being handled stays until its run ends (R205). -/
def State.moveLean (s : State) (die core n : Nat) : Nat → State
  | 0 => s
  | fuel + 1 =>
    let c := s.coreOf (coreKey die core)
    match c.lean.findIdx? fun m => m.chan.toNat == n && !s.leanRun die core m with
    | none => s
    | some i =>
      match c.lean[i]? with
      | none => s
      | some m =>
        match s.place die core m with
        | none => s
        | some s => State.moveLean (s.modCore (coreKey die core) fun c => ({ c with lean := dropAt c.lean i } : Core).leanCount n false)
            die core n fuel

/-- The string of a core takes no arrivals into its queues: it is being saved or held (R385, R387), or its paddock is being
destroyed (R399). -/
def State.coreHeld (s : State) (die core : Nat) : Bool :=
  let p := (s.strAt die (strOf core)).pre
  p.writing || p.held || (((s.padOfCore die core).bind (s.pad? die)).map fun p => p.phase != 0).getD false

/-- CTX.SAVE has saved a task of the core, whose image stands in the core's slot (R364). -/
def State.savedOn (s : State) (die core : Nat) : Bool := (s.images.find? (coreKey (slotDie die) core)).isSome

/-- An arrival on a channel that CHAN.CFG has written in the open region of the core's task ends its discardability (R355). -/
def State.noteArrival (s : State) (die core n : Nat) : State :=
  s.modCtx (ctxKey die core 0) fun c =>
    { c with region := c.region.map fun r => if r.chanCfg.contains n then { r with disc := false, broken := true } else r }

/-- A message accepted at its core: into its queue where it fits and nothing waits before it, otherwise into the lean-to; none
where it is refused (R198, R199, R387). One for a task that CTX.SAVE has saved waits in the lean-to with its image (R215). -/
def State.accept (s : State) (die : Nat) (m : Msg) : Option State :=
  let c := s.coreOf (coreKey die m.core)
  let n := m.chan.toNat
  let r := if s.savedOn die m.core && !chEn (c.chCfg n) then s.divert (slotDie die) m.core m
    else if s.coreHeld die m.core || ptrLean (c.chPtr n) != 0 then s.divert die m.core m
    else
      match s.place die m.core m with
      | some s => some s
      | none => s.divert die m.core m
  r.map fun s => s.noteArrival die m.core n

/-! ## Relays and arrivals -/

/-- The next relay of a message: first along the row, then along the column (R63). -/
def nextRelay (src dst : Nat) : Nat :=
  if src % 8 < dst % 8 then src + 1
  else if dst % 8 < src % 8 then src - 1
  else if src / 8 < dst / 8 then src + 8
  else if dst / 8 < src / 8 then src - 8
  else src

/-- RELAY_FORWARD (R63): a message moves one relay on. -/
def execRelayForward (die : BitVec 2) (i : Nat) (s : State) : Host.Outcome State Fault Refusal :=
  .next (s.modDie die.toNat fun d =>
    match d.msgs[i]? with
    | none => d
    | some m => if m.refused.isSome then d
        else { d with msgs := setAt d.msgs i { m with relay := nextRelay m.relay (strOf m.core) } })

/-- A record of an ordered launch that arrives after its batch was formed: ORDER.LATE (R205). -/
def State.noteLate (s : State) (die : Nat) (m : Msg) : State :=
  if m.parks && decide (m.win + 2 ≤ (s.coreOf (coreKey die m.core)).batchWin) then
    s.modLaunch die m.launch fun l => { l with olate := true }
  else s

/-- The message at a place of the list, if it is there for its target's core. -/
def Die.arrived (d : Die) (i : Nat) (task : Bool) : Option Msg :=
  (d.msgs[i]?).filter fun m => m.relay == strOf m.core && m.refused.isNone && (m.kind == 3) == task

/-- MESSAGE_ARRIVAL (R198, R199): accepted, and the acceptance goes back to the sender; or refused. -/
def execMessageArrival (die : BitVec 2) (i : Nat) (s : State) : Host.Outcome State Fault Refusal :=
  let d := die.toNat
  .next (match (s.dieAt d).arrived i false with
    | none => s
    | some m =>
      match s.accept d m with
      | some t => (t.modDie d fun x => { x with msgs := dropAt x.msgs i, acks := x.acks ++ [m.src] }).noteLate d m
      | none => s.modDie d fun x => { x with msgs := setAt x.msgs i { m with refused := some s.wt } })

/-- MESSAGE_ACK (R199). -/
def execMessageAck (die : BitVec 2) (i : Nat) (s : State) : Host.Outcome State Fault Refusal :=
  let d := die.toNat
  .next (match (s.dieAt d).acks[i]? with
    | none => s
    | some a =>
      (s.modDie d fun x => { x with acks := dropAt x.acks i }).modCtx (ctxKey a.die a.core a.ctx) fun c =>
        { c with unacked := c.unacked - 1 })

/-- MESSAGE_RESEND (R199): one revolution after its refusal the sender sends the message again. -/
def execMessageResend (die : BitVec 2) (i : Nat) (s : State) : Host.Outcome State Fault Refusal :=
  .next (s.modDie die.toNat fun d =>
    match d.msgs[i]? with
    | none => d
    | some m =>
      match m.refused with
      | none => d
      | some t => if s.wt.toNat < t.toNat + 256 then d
          else { d with msgs := setAt d.msgs i { m with refused := none, relay := strOf m.src.core } })

/-! ## SEND and SENDN (R353) -/

/-- The checks of R353 on the message word and the payload's offset. -/
def State.sendCheck (s : State) (w off : Word) : Option State :=
  let len := bits w 40 32
  if bits w 63 41 != 0 || bits w 31 15 != 0 || bit w 11 || decide (496 < len) || !s.goodCore (bits w 10 0) then
    some (s.trap causeOperand)
  else if bits off 2 0 != 0 then some (s.trapAt causeAlign off)
  else if decide (2 ^ 17 < off.toNat + len) then some (s.trapAt causeLsRange off)
  else none

/-- The message sent with the payload's bytes; the instruction retires. -/
def State.sendNow (s : State) (srcs : List (BitVec 5)) (w off : Word) : State :=
  s.lsLoad off.toNat (bits w 40 32) 0 0 fun l s =>
    let core := (s.physOf s.cur.die s.me.launch.pad.toNat (bits w 10 0)).getD s.cur.core
    let m : Msg :=
      { kind := 0, sender := s.agentId s.cur, src := { s.cur with rep := false }, core := core
        chan := BitVec.ofNat 3 (bits w 14 12), payload := l, seq := s.msgSeq
        win := s.window s.cur.die s.me.launch.pad.toNat, launch := s.me.launch, relay := s.strNo }
    ((s.takeSeq true).modMyDie fun d => { d with msgs := d.msgs ++ [m] }).finish srcs 4

def execSend (g : BitVec 3) (b a : BitVec 5) (s : State) : Host.Outcome State Fault Refusal :=
  .next (s.instr g [b, a] none 4 fun vs s =>
    if s.inHandler then s.trap causeHandler
    else
      match s.sendCheck (arg vs 1) (arg vs 0) with
      | some t => t
      | none =>
        if decide (8 ≤ s.me.unacked) then s
        else s.committing fun s => s.sendNow [b, a] (arg vs 1) (arg vs 0))

def execSendn (g p : BitVec 3) (b a : BitVec 5) (s : State) : Host.Outcome State Fault Refusal :=
  .next (s.instr g [b, a] none 4 fun vs s =>
    match s.sendCheck (arg vs 1) (arg vs 0) with
    | some t => t
    | none =>
      if decide (8 ≤ s.me.unacked) then (s.writeP p false).finish [b, a] 4
      else s.committing fun s =>
        let t := s.sendNow [b, a] (arg vs 1) (arg vs 0)
        -- a memory error in the payload traps and leaves the predicate
        if t.me.st == .running then t.writeP p true else t)

/-! ## Handler runs (R200, R201) -/

/-- A channel of a core has a handler run that has not returned. -/
def State.chanBusy (s : State) (die core n : Nat) : Bool :=
  s.runChan die core 1 == some n || s.runChan die core 2 == some n

/-- The record that a free handler context takes in throughput mode: the oldest of the highest channel without a running
handler (R200). -/
def State.waitingRec (s : State) (die core : Nat) : Option QRec :=
  let c := s.coreOf (coreKey die core)
  ((List.range 8).reverse.filter fun n => !s.chanBusy die core n).findSome? fun n =>
    c.recs.find? fun r => r.chan.toNat == n && !r.msg.parks

/-- The registers of a handler run at its start (R201, R203): general registers as given, the sequence counter and the
registers of the last trap as they were. -/
def Regs.forRun (r : Regs) (pc s3 s4 s5 s6 s7 stamp : Word) : Regs :=
  let kept := [Csr.msgseq, Csr.fltva, Csr.fltinfo, Csr.merrinfo, Csr.raceinfo, Csr.tcause, Csr.tepc, Csr.tstat]
  { pc := pc
    s := ((((((Vector.replicate 28 0).setIfInBounds 3 s3).setIfInBounds 4 s4).setIfInBounds 5 s5).setIfInBounds 6 s6).setIfInBounds 7 s7)
    csr := SMap.set (r.csr.filter fun p => kept.contains p.1) Csr.rphase stamp }

/-- Where a record that is handled from the lean-to shows: within its channel's queue where the queue can hold it (log 59). -/
def leanPlace (cfg : Word) (m : Msg) : Nat :=
  let free := Config.leanOffset m.sender.toNat m.seq.toNat m.win
  if m.need ≤ chCap cfg then chBase cfg + 16 * (free % ((chCap cfg - m.need) / 16 + 1))
  else 16 * (free % ((2 ^ 17 - m.need) / 16 + 1))

/-- A handler run starts on a message (R201). `off` is the record's offset in its queue; a record handled from the lean-to has
none, and shows to its run at a free offset (log 59). -/
def State.startRun (s : State) (die core ctx : Nat) (m : Msg) (off : Option Nat) : State :=
  let c := s.coreOf (coreKey die core)
  let key := ctxKey die core ctx
  let notice := m.kind != 0
  let cfg := c.chCfg m.chan.toNat
  let at_ := off.elim (leanPlace cfg m) (chBase cfg + ·)
  let s3 := if notice then word (bytesNat (m.payload.take 8)) else word (at_ + 16)
  let s4 := if notice then word (bytesNat (m.payload.drop 8)) else word m.payload.length
  let pc := if notice then m.haddr else c.chHnd m.chan.toNat
  let stamp := (s.ctxOf (ctxKey die core 0)).regs.getCsr Csr.rphase
  s.modCtx key fun x =>
    { x with
      st := .running
      regs := x.regs.forRun pc s3 s4 (m.sender.setWidth 64) m.seq (word (field (m.win % 2 ^ 32) 32 + m.chan.toNat)) stamp
      id := { wid := word (m.sender.toNat * 2 ^ 51 + m.seq.toNat % 2 ^ 51) }
      launch := m.launch
      run := some { chan := m.chan, off := off.getD 0, lean := off.isNone, sender := m.sender, seq := m.seq, win := BitVec.ofNat 32 m.win
                    shown := if off.isNone then m.record else [], shownAt := at_ }
      wait := .idle
      pendFp := false
      cnt := x.cnt.setIfInBounds 0 0 }

/-- Where the message of a batch lies: in a queue at an offset, or in the lean-to. -/
def Core.whereIs (c : Core) (m : Msg) : Option Nat := (c.recs.find? fun r => r.msg == m).map (·.off)

/-- HANDLER_START (R200, R205): a dormant handler context starts a run on a waiting record; in ordered mode handler context 0
takes the first record of the batch, and context 1 stays dormant while there is one. -/
def execHandlerStart (die : BitVec 2) (core : BitVec 11) (hc : Bool) (s : State) : Host.Outcome State Fault Refusal :=
  let d := die.toNat
  let k := core.toNat
  let ctx := if hc then 2 else 1
  let c := s.coreOf (coreKey d k)
  .next (if s.coreHeld d k || (s.ctxOf (ctxKey d k ctx)).live || s.pkg.tripped then s
    else
      match c.batch with
      | m :: _ => if hc || (s.ctxOf (ctxKey d k 2)).live then s else s.startRun d k 1 m (c.whereIs m)
      | [] =>
        match s.waitingRec d k with
        | some r => s.startRun d k ctx r.msg (some r.off)
        | none => s)

/-- The number of the delivery window under way for a core's launch (R204). -/
def State.coreWindow (s : State) (die core : Nat) : Nat :=
  s.window die (((s.coreOf (coreKey die core)).last.map (·.pad.toNat)).getD ((s.padOfCore die core).getD 0))

/-- The order of a batch (R205): by stamp, sender and sequence number. -/
def Msg.before (x y : Msg) : Bool :=
  decide (x.win < y.win) || (x.win == y.win && (decide (x.sender < y.sender) || (x.sender == y.sender && decide (x.seq < y.seq))))

/-- The batch that a receiver forms on its restore (R205): every parked record whose window lies at least two back, after the one
whose handler run goes on. -/
def State.rebatch (s : State) (die core : Nat) : State :=
  let k := coreKey die core
  let j := s.coreWindow die core
  let c := s.coreOf k
  let now := if (s.ctxOf (ctxKey die core 1)).run.isSome then c.batch.take 1 else []
  s.setCoreOf k { c with batch := now ++ sortBy Msg.before ((c.parked j).filter fun m => !now.contains m), batchWin := j }

/-- BATCH (R205): at a window's start the parked records whose window lies at least two before it are put in order of (stamp,
SENDER, SEQ). -/
def execBatch (die : BitVec 2) (core : BitVec 11) (s : State) : Host.Outcome State Fault Refusal :=
  let d := die.toNat
  let k := core.toNat
  let c := s.coreOf (coreKey d k)
  let j := s.coreWindow d k
  .next (if !c.batch.isEmpty || decide (j ≤ c.batchWin) || s.coreHeld d k then s
    else s.setCoreOf (coreKey d k) { c with batch := sortBy Msg.before (c.parked j), batchWin := j })

/-! ## The end of a run (R198, R354) -/

/-- HEAD moved past records whose HD is 1 and past pad records (R198); the fuel bounds the number of records. -/
def State.passHead (s : State) (die core : Nat) (cfg : Word) (tail : Nat) : Nat → Nat → Nat
  | 0, head => head
  | fuel + 1, head =>
    if head = tail then head
    else
      let w := word (bytesNat (s.bytesAt (lsBase die core + chBase cfg + head) 8))
      let size := 16 + (bits w 46 38 + 15) / 16 * 16
      if bit w 63 || bit w 35 then
        State.passHead s die core cfg tail fuel ((if bit w 63 then 0 else head + size) % max 1 (chCap cfg))
      else head

/-- HEAD of a channel advanced as far as it goes, and messages moved in from the lean-to (R198). -/
def State.freeHead (s : State) (die core n : Nat) : State :=
  let k := coreKey die core
  let cfg := (s.coreOf k).chCfg n
  let ptr := (s.coreOf k).chPtr n
  let head := s.passHead die core cfg (ptrTail ptr) 8192 (ptrHead ptr)
  let s := s.modCore k fun c => c.setCh Csr.chptr n (mkPtr head (ptrTail ptr) (ptrLean ptr))
  if s.coreHeld die core then s else s.moveLean die core n (s.coreOf k).lean.length

/-- The record of a handler run freed, and its context made dormant (R198, R201, R205). -/
def State.endRun (s : State) (die core ctx : Nat) : State :=
  let key := ctxKey die core ctx
  let k := coreKey die core
  match (s.ctxOf key).run with
  | none => s.modCtx key fun x => { x with st := .dormant, wait := .idle, waitRep := .idle }
  | some r =>
    let s := s.modCtx key fun x => { x with st := .dormant, run := none, wait := .idle, waitRep := .idle }
    let mine (m : Msg) : Bool := m.chan == r.chan && m.sender == r.sender && m.seq == r.seq
    let s := s.modCore k fun c => { c with batch := if (c.batch.head?.map mine).getD false then c.batch.tail else c.batch }
    let n := r.chan.toNat
    let c := s.coreOf k
    if r.lean then
      match c.lean.findIdx? mine with
      | some i => s.setCoreOf k (({ c with lean := dropAt c.lean i } : Core).leanCount n false)
      | none => s
    else
      let a := lsBase die core + chBase (c.chCfg n) + r.off
      let w := bytesNat (s.bytesAt a 8)
      let s := s.putBytes a (natBytes 8 (setBits (word w) 35 35 1).toNat)
      (s.modCore k fun c => { c with recs := c.recs.filter fun x => !(x.chan == r.chan && x.off == r.off) }).freeHead die core n

/-- HRET (R354). -/
def execHret (g : BitVec 3) (s : State) : Host.Outcome State Fault Refusal :=
  .next (s.guarded g 4 fun s =>
    if s.inHandler then (s.retire 4).endRun s.cur.die s.cur.core s.cur.ctx else s.trap causeIllegal)

/-! ## CHAN.CFG (R355) -/

/-- The checks of R355 after that of the context. -/
def State.chanTrap (s : State) (n cfg hnd : Word) : Option State :=
  let c := s.myCore
  if decide (7 < n.toNat) || bits cfg 62 60 != 0 || bits cfg 30 0 != 0 || bits hnd 63 48 != 0 || bit hnd 0 then
    some (s.trap causeOperand)
  else if chEn cfg && (decide (bits cfg 42 31 < 2) || decide (2048 < bits cfg 42 31)) then some (s.trap causeOperand)
  else if chEn cfg && chBase cfg % 64 != 0 then some (s.trap causeOperand)
  else if chEn cfg && decide (2 ^ 17 < chBase cfg + chCap cfg) then some (s.trapAt causeLsRange (word (chBase cfg)))
  else if chEn (c.chCfg n.toNat) && (ptrHead (c.chPtr n.toNat) != ptrTail (c.chPtr n.toNat) || ptrLean (c.chPtr n.toNat) != 0)
  then some (s.trap causeOperand)
  else none

/-- Both registers installed, the queue empty, and messages of the lean-to moved into an enabled queue. -/
def State.chanSet (s : State) (n : Nat) (cfg hnd : Word) : State :=
  let s := s.modMyCore fun c =>
    (((c.setCh Csr.chcfg n cfg).setCh Csr.chhnd n hnd).setCh Csr.chptr n (mkPtr 0 0 (ptrLean (c.chPtr n))))
  let s := s.modMe fun c => { c with region := c.region.map fun r => { r with chanCfg := insertNat r.chanCfg n } }
  if chEn cfg then s.moveLean s.cur.die s.cur.core n s.myCore.lean.length else s

def execChanCfg (g : BitVec 3) (c b a : BitVec 5) (s : State) : Host.Outcome State Fault Refusal :=
  .next (if wrongWay s.cur.rep [b, c, a] none then s.trap causeIllegal
    else s.guarded g 4 fun s =>
      if s.inHandler then s.trap causeIllegal
      else s.withOps [b, c, a] none fun vs s =>
        match s.chanTrap (arg vs 1) (arg vs 2) (arg vs 0) with
        | some t => t
        | none => (s.chanSet (arg vs 1).toNat (arg vs 2) (arg vs 0)).finish [b, c, a] 4)

end Sys2Proof.Machine
end

