-- ==== Sys2Proof/Machine/Task.lean ====
section
/-!
DEFINITION. Sys2Proof/Machine/Task.lean: tasks from their start to their end (R81, R161, R173, R185, R266), spawned records and
where they run (R187 to R192, R203, R356), and joining (R193, R194, R357).
-/

namespace Sys2Proof.Machine

/-! ## The start of a task -/

/-- The registers that a context keeps from one launch to the next, when its core runs its first task of a launch: its queues
and MSGSEQ are cleared (R161, R197). -/
def Regs.newLaunch (r : Regs) : Regs := { r with q := Vector.replicate 4 [], csr := r.csr.erase Csr.msgseq }

/-- A context when its core runs its first task of a launch: its commands are numbered from 0 again (R342). -/
def Ctx.newLaunch (c : Ctx) : Ctx := { c with regs := c.regs.newLaunch, ticket := 0, statuses := [] }

/-- A core when it runs its first task of a launch: tiles, accumulators, BFMT registers and barriers are reset, and TSCR with
the ring it describes (R81, R161, R206, R374). -/
def Core.newLaunch (c : Core) (l : LaunchInfo) : Core :=
  { c with
    csr := c.csr.filter fun p => p.1 != Csr.tscr && !(decide (Csr.bfmt ≤ p.1) && decide (p.1 < Csr.bfmt + 8))
    tiles := [], acc0 := {}, acc1 := {}, badTiles := [], badAccs := [], softTiles := [], softAccs := [], bars := []
    last := some l }

/-- A range of memory bytes cleared. -/
def State.clearBytes (s : State) (a n : Nat) : State :=
  { s with
    mem := s.mem.filter fun p => !(decide (a ≤ p.1) && decide (p.1 < a + n))
    bad := s.bad.filter fun w => !(decide (a / 8 ≤ w) && decide (w < (a + n) / 8))
    soft := s.soft.filter fun w => !(decide (a / 8 ≤ w) && decide (w < (a + n) / 8))
    older := s.older.filter fun p => !(decide (a / 8 ≤ p.1) && decide (p.1 < (a + n) / 8)) }

/-- A core's local store zeroed and every tag empty (R81). -/
def State.clearLs (s : State) (die core : Nat) : State :=
  let a := lsBase die core
  let s := s.clearBytes a (2 ^ 17)
  { s with full := s.full.filter fun w => !(decide (a / 8 ≤ w) && decide (w < a / 8 + 2 ^ 14)) }

/-- What a core's first task of a launch finds (R81, R161, R197, R206, R342, R374): a task is the first where the core's task before it
belongs to another launch (log 142). -/
def State.firstTask (s : State) (die core : Nat) (l : LaunchInfo) : State :=
  if ((s.coreOf (coreKey die core)).last.map (·.uid)) == some l.uid then s
  else
    let s := (s.clearLs die core).modCore (coreKey die core) (·.newLaunch l)
    [0, 1, 2].foldl (fun s x => s.modCtx (ctxKey die core x) (·.newLaunch)) s

/-- The registers of a task at its start (R161): those of the last trap, MSGSEQ, the selectors and the queues stay. -/
def Regs.forTask (r : Regs) (entry : Word) (args : List Word) (stamp : BitVec 16) : Regs :=
  let zeroed := [Csr.fflags, Csr.fenab, Csr.rngctr, Csr.taskj, Csr.tilepos, Csr.reppos]
  { pc := entry
    q := r.q
    s := (List.range 4).foldl (fun v j => v.setIfInBounds (3 + j) (args.getD j 0)) ((Vector.replicate 28 0).setIfInBounds 2 0x20000)
    csr := SMap.set (r.csr.filter fun p => !(zeroed.contains p.1)) Csr.rphase (stamp.setWidth 64) }

/-- A task starts on a core (R161, R185): member `gang` of its string's gang, or a spawned task of its own. -/
def State.startTask (s : State) (die core : Nat) (l : LaunchInfo) (id : TaskId) (entry : Word) (args : List Word)
    (stamp : BitVec 16) (gang : Option Nat) : State :=
  (s.firstTask die core l).modCtx (ctxKey die core 0) fun c =>
    { c with
      st := .running
      regs := c.regs.forTask entry args stamp
      id := id
      launch := l
      region := none
      wait := .idle
      waitRep := .idle
      prog := none
      progRep := none
      pendFp := false
      pendFpRep := false
      member := gang.isSome
      gangPos := gang.getD 0
      att := gang.isSome
      wpos := 0
      arrived := false
      halted := false
      saving := none
      run := none
      cnt := c.cnt.setIfInBounds 0 0 }

/-- The task context of a core has no task under way (R167, R185); one that halted after its task is free once its log is empty
(R105). -/
def Ctx.free (c : Ctx) : Bool :=
  c.st == .dormant || c.st == .ended || c.st == .terminated || (c.st == .parked && c.halted && c.flog.isEmpty)

/-! ## Records in the deque (R190, R192) -/

/-- The deque and the spill area can take no record (R190). -/
def Core.dequeFull (c : Core) : Bool := decide (64 ≤ c.deque.length) && decide (1024 < c.spill.length + 32)

/-- A record on top of the deque; a full deque first moves its oldest 32 records to the spill area. -/
def Core.push (c : Core) (t : TaskRec) : Core :=
  let c := if 64 ≤ c.deque.length then { c with deque := c.deque.take 32, spill := c.deque.drop 32 ++ c.spill } else c
  { c with deque := t :: c.deque }

/-- An empty deque refilled from the spill area, newest first. -/
def Core.refill (c : Core) : Core :=
  if c.deque.isEmpty then { c with deque := c.spill.take 64, spill := c.spill.drop 64 } else c

/-- The order in which an ordered launch's records start: (D, WID, PATHHI, PATHLO) (R192). -/
def TaskRec.before (x y : TaskRec) : Bool :=
  let k (t : TaskRec) : List Nat := [bits t.id.path 7 0, t.id.wid.toNat, bits t.id.path 127 64, bits t.id.path 63 0]
  k x < k y

/-- The record that an idle core takes next, and what is left: the newest of its deque, or, where that is one of an ordered
launch, the first of its ordered records. -/
def Core.pop (c : Core) : Option (TaskRec × Core) :=
  let c := c.refill
  match c.deque with
  | [] => none
  | t :: rest =>
    if t.launch.ordered then
      match sortBy TaskRec.before ((c.deque ++ c.spill).filter (·.launch.ordered)) with
      | [] => none
      | x :: _ => some (x, { c with deque := c.deque.erase x, spill := if c.deque.contains x then c.spill else c.spill.erase x })
    else some (t, { c with deque := rest })

/-- A core has a record. -/
def Core.hasRecord (c : Core) : Bool := !(c.deque.isEmpty && c.spill.isEmpty)

/-- TASK_START (R190, R211): a core that the manger has granted a record, and that is idle, takes one and starts its task, but not while
a trip stops its clock (R422). -/
def execTaskStart (die : BitVec 2) (core : BitVec 11) (s : State) : Host.Outcome State Fault Refusal :=
  let d := die.toNat
  let k := core.toNat
  let c := s.coreOf (coreKey d k)
  .next (if !c.granted || !(s.ctxOf (ctxKey d k 0)).free || s.coreHeld d k || s.pkg.tripped then s
    else
      match c.pop with
      | none => s.setCoreOf (coreKey d k) { c with granted := false }
      | some (t, c) =>
        (s.setCoreOf (coreKey d k) { c with granted := false }).startTask d k t.launch t.id t.entry t.args t.stamp none)

/-! ## Stealing (R191) -/

/-- STEALCTL of a core. -/
def Core.stealctl (c : Core) : Word := c.csr.getD Csr.stealctl 6

/-- The cores a thief asks, in order: its string's, then its vault region's, then its paddock's, up to its scope. -/
def State.victims (s : State) (die core : Nat) : List Nat :=
  let pad := (s.padOfCore die core).getD 0
  let all := (s.lcores die pad).filter (· != core)
  let scope := bits (s.coreOf (coreKey die core)).stealctl 3 0
  let str := all.filter fun x => strOf x == strOf core
  let reg := all.filter fun x => vaultOf (strOf x) == vaultOf (strOf core) && strOf x != strOf core
  let far := all.filter fun x => vaultOf (strOf x) != vaultOf (strOf core)
  str ++ (if scope = 2 then [] else reg) ++ (if scope = 6 then far else [])

/-- STEAL_REQUEST (R191): once per revolution an idle core without records asks the next victim. -/
def execStealRequest (die : BitVec 2) (core : BitVec 11) (s : State) : Host.Outcome State Fault Refusal :=
  let d := die.toNat
  let k := core.toNat
  let c := s.coreOf (coreKey d k)
  let v := s.victims d k
  .next (if c.hasRecord || c.granted || bit c.stealctl 4 || !(s.ctxOf (ctxKey d k 0)).free || s.coreHeld d k ||
      decide (s.rev ≤ c.stealRev) || (s.dieAt d).steals.any (·.1 == k) || v.isEmpty || !c.on then s
    else
      (s.setCoreOf (coreKey d k) { c with stealRev := s.rev, stealPos := (c.stealPos + 1) % v.length }).modDie d fun x =>
        { x with steals := x.steals ++ [(k, v.getD (c.stealPos % v.length) k)] })

/-- The oldest record that may be moved: from the spill area before the deque, and none of an ordered launch (R191, R192). -/
def Core.oldest (c : Core) : Option (TaskRec × Core) :=
  match c.spill.reverse.find? fun t => !t.launch.ordered with
  | some t => some (t, { c with spill := (c.spill.reverse.erase t).reverse })
  | none =>
    match c.deque.reverse.find? fun t => !t.launch.ordered with
    | some t => some (t, { c with deque := (c.deque.reverse.erase t).reverse })
    | none => none

/-- STEAL_REPLY (R191): the victim's deque answers with its oldest record, or empty. -/
def execStealReply (die : BitVec 2) (i : Nat) (s : State) : Host.Outcome State Fault Refusal :=
  let d := die.toNat
  .next (match (s.dieAt d).steals[i]? with
    | none => s
    | some (thief, victim) =>
      let s := s.modDie d fun x => { x with steals := dropAt x.steals i }
      let v := s.coreOf (coreKey d victim)
      if bit v.stealctl 4 then s
      else
        match v.oldest with
        | none => s
        | some (t, v) => (s.setCoreOf (coreKey d victim) v).modCore (coreKey d thief) (·.push t))

/-! ## SPAWN (R356) -/

/-- TASKJ fields (R189). -/
def State.spcnt (s : State) : Nat := bits (s.csr Csr.taskj) 8 0
def State.jfirst (s : State) : Nat := bits (s.csr Csr.taskj) 25 17

/-- Offset of the join word of a child. -/
def State.joinOff (s : State) (x : Nat) : Nat := bits (s.csr Csr.taskj) 63 47 + 8 * x

/-- The logical core of an ordered launch's record (R192). -/
def placeHash (wid : Word) (path : BitVec 128) : Word :=
  let lo := word (bits path 63 0)
  let hi := word (bits path 127 64)
  let x := wid ^^^ lo ^^^ hi.rotateLeft 29
  let x := x ^^^ (x >>> 31)
  let x := x * 0x9E3779B97F4A7C15
  x ^^^ (x >>> 29)

/-- The record that the present context's SPAWN forms (R187, R188, R203). -/
def State.spawnRec (s : State) (entry : Word) : TaskRec :=
  let path := s.me.id.path
  let d := bits path 7 0 + 1
  { stamp := s.stamp
    entry := entry
    args := (List.range 4).map s.readE
    id :=
      { wid := s.me.id.wid
        path := BitVec.ofNat 128 (path.toNat / 256 * 256 + d + s.spcnt * 2 ^ (8 * d))
        pagent := s.agentId s.cur
        joff := if s.inHandler then 0 else BitVec.ofNat 17 (s.joinOff s.spcnt)
        jv := !s.inHandler }
    launch := s.me.launch }

/-- The checks of R356 that trap. -/
def State.spawnTrap (s : State) (entry : Word) : Option State :=
  if bit entry 0 || bits entry 63 47 != 0 then some (s.trap causeOperand)
  else if bits s.me.id.path 7 0 == 15 || s.spcnt == 256 then some (s.trap causeFork)
  else if !s.inHandler && decide (2 ^ 17 < s.joinOff s.spcnt + 8) then some (s.trapAt causeLsRange (word (s.joinOff s.spcnt)))
  else none

/-- There is room for a record: in the deque, or among the eight messages that await acceptance (R190, R199). -/
def State.spawnRoom (s : State) : Bool :=
  if s.me.launch.ordered then decide (s.me.unacked < 8) else !s.myCore.dequeFull

/-- The record goes to the deque, or to the core that R192 names. -/
def State.sendRec (s : State) (t : TaskRec) : State :=
  if t.launch.ordered then
    let cores := s.lcores s.cur.die t.launch.pad.toNat
    let core := cores.getD ((placeHash t.id.wid t.id.path).toNat % max 1 cores.length) s.cur.core
    let m : Msg :=
      { kind := 3, sender := s.agentId s.cur, src := { s.cur with rep := false }, core := core
        payload := List.replicate 80 0, win := s.window s.cur.die t.launch.pad.toNat, launch := t.launch, task := t
        relay := s.strNo }
    (s.modMe fun c => { c with unacked := c.unacked + 1 }).modMyDie fun d => { d with msgs := d.msgs ++ [m] }
  else s.modMyCore (·.push t)

/-- The record formed and sent, the join word emptied, SPCNT advanced; the instruction retires (R356). -/
def State.spawnNow (s : State) (srcs : List (BitVec 5)) (dst : BitVec 5) (entry : Word) : State :=
  let t := s.spawnRec entry
  let n := s.spcnt
  let s := if s.inHandler then s else s.setTag (lsWord s.cur.die s.cur.core (s.joinOff n)) false
  let s := s.modLaunch s.cur.die s.me.launch fun l => { l with live := l.live + 1 }
  let s := (s.setCsr Csr.taskj (setBits (s.csr Csr.taskj) 8 0 (n + 1))).sendRec t
  ((s.count 6 1).put dst (word n)).finish srcs 4

def execSpawn (g : BitVec 3) (b a : BitVec 5) (s : State) : Host.Outcome State Fault Refusal :=
  .next (s.instr g [b] (some a) 4 fun vs s =>
    if s.inHandler then s.trap causeHandler
    else
      match s.spawnTrap (arg vs 0) with
      | some t => t
      | none => if s.spawnRoom then s.committing fun s => s.spawnNow [b] a (arg vs 0) else s)

def execSpawnn (g p : BitVec 3) (b a : BitVec 5) (s : State) : Host.Outcome State Fault Refusal :=
  .next (s.instr g [b] (some a) 4 fun vs s =>
    match s.spawnTrap (arg vs 0) with
    | some t => t
    | none =>
      if s.spawnRoom then s.committing fun s => (s.spawnNow [b] a (arg vs 0)).writeP p true
      else (s.writeP p false).finish [b] 4)

/-- TASK_RECORD_ARRIVAL (R192): the record stands in its target's deque or spill area, or is refused where both are full
(R199). -/
def execTaskRecordArrival (die : BitVec 2) (i : Nat) (s : State) : Host.Outcome State Fault Refusal :=
  let d := die.toNat
  .next (match (s.dieAt d).arrived i true with
    | none => s
    | some m =>
      if (s.coreOf (coreKey d m.core)).dequeFull then
        s.modDie d fun x => { x with msgs := setAt x.msgs i { m with refused := some s.wt } }
      else
        (s.modCore (coreKey d m.core) (·.push m.task)).modDie d fun x =>
          { x with msgs := dropAt x.msgs i, acks := x.acks ++ [m.src] })

/-! ## JOIN (R194, R357) -/

/-- The identity of a join operation. -/
def joinIdentity (op : Nat) : Word :=
  match op with
  | 1 => 0x7FFFFFFFFFFFFFFF
  | 2 => 0x8000000000000000
  | 3 => 0xFFFFFFFFFFFFFFFF
  | _ => 0

/-- A join operation on two values. -/
def joinOp (op : Nat) (v w : Word) : Word :=
  match op with
  | 0 => v + w
  | 1 => if v.toInt ≤ w.toInt then v else w
  | 2 => if v.toInt ≤ w.toInt then w else v
  | 3 => v &&& w
  | 4 => v ||| w
  | 5 => v ^^^ w
  | 6 => word (Fmt.f32.add .rne 0 (bits v 31 0) (bits w 31 0)).1
  | _ => w

/-- Global word numbers of the join words that are not yet merged. -/
def State.joinWords (s : State) : List Nat :=
  (List.range (s.spcnt - s.jfirst)).map fun j => lsWord s.cur.die s.cur.core (s.joinOff (s.jfirst + j))

/-- Every unmerged join word is full. -/
def State.joinReady (s : State) : Bool := s.joinWords.all s.tag

/-- The unmerged join words set empty. -/
def State.joinEmpty (s : State) : State := s.joinWords.foldl (fun s w => s.setTag w false) s

/-- JFIRST := SPCNT. -/
def State.joinAll (s : State) : State := s.setCsr Csr.taskj (setBits (s.csr Csr.taskj) 25 17 s.spcnt)

/-- The words merged in ascending child index and set empty (R194); an uncorrectable error traps (R101). -/
def State.joinNow (s : State) (op : Nat) (dst : BitVec 5) (k : State → State) : State :=
  let n := 8 * (s.spcnt - s.jfirst)
  s.lsLoad (s.joinOff s.jfirst) n 0 0 fun l s =>
    let v := (groupsOf 8 (n / 8) l).foldl (fun v w => joinOp op v (word w)) (joinIdentity op)
    k (((s.joinEmpty.joinAll).endDisc.put dst v).finish [] 4)

def execJoin (g o : BitVec 3) (a : BitVec 5) (s : State) : Host.Outcome State Fault Refusal :=
  .next (s.instr g [] (some a) 4 fun _ s =>
    if s.inHandler then s.trap causeHandler
    else if s.joinReady then s.joinNow o.toNat a id
    else s)

/-- JOINN (R357); in a handler run there is nothing to wait for (R203). -/
def execJoinn (g p o : BitVec 3) (a : BitVec 5) (s : State) : Host.Outcome State Fault Refusal :=
  .next (s.instr g [] (some a) 4 fun _ s =>
    if s.inHandler then ((s.joinAll.put a (joinIdentity o.toNat)).writeP p true).finish [] 4
    else if s.joinReady then s.joinNow o.toNat a fun s => s.writeP p true
    else (s.writeP p false).finish [] 4)

/-! ## DONE (R173, R193, R266) -/

/-- The value that a task's end, or its termination, sends to its join word (R193, R376). -/
def State.joinWrite (s : State) (die core : Nat) (v : Word) : State :=
  let c := s.ctxOf (ctxKey die core 0)
  let home := homeDie die
  if c.id.jv then
    match s.agentOf home c.launch.pad.toNat c.id.pagent with
    | none => s
    | some a =>
      s.modDie home fun d =>
        { d with joins := d.joins ++ [{ agent := { die := home, core := core }, uid := c.launch.uid, core := a.core,
                                        off := c.id.joff.toNat, bytes := natBytes 8 v.toNat, full := true }] }
  else s

/-- A task ends (R173, R185): it holds its string's window no longer and counts as arrived at every later muster. -/
def State.endTask (s : State) (die core : Nat) (st : RunState) : State :=
  let c := s.ctxOf (ctxKey die core 0)
  let s := s.setCtxOf (ctxKey die core 0) { c with st := st, att := false, arrived := false, region := none, wait := .idle, waitRep := .idle }
  let s := s.modLaunch (homeDie die) c.launch fun l => { l with live := l.live - 1 }
  (s.modCore (coreKey die core) fun x => { x with idleSince := s.wt }).musterCheck (homeDie die) (strOf core)

/-- DONE once the region is committed and no child is unjoined. -/
def State.doneNow (s : State) (len : Nat) : State :=
  if s.joinReady then
    ((s.joinEmpty.retire len).joinWrite s.cur.die s.cur.core (s.readS 3)).endTask s.cur.die s.cur.core .ended
  else s

/-- DONE, either length (R266). A region is committed and closed as IDEM.END does: its stores are performed, and a non-empty fault
log halts (R104). -/
def State.done (s : State) (len : Nat) : State :=
  if s.inHandler then s.trap causeIllegal
  else
    s.needIdle fun s =>
      if s.me.region.isSome then
        s.closing fun s =>
          if s.me.flog.isEmpty then (s.modMe fun c => { c with region := none }).doneNow len else s.trap causeAsync
      else s.doneNow len

def execDone (s : State) : Host.Outcome State Fault Refusal := .next (s.done 4)
def execCDone (s : State) : Host.Outcome State Fault Refusal := .next (s.done 2)

/-- The store that holds a join word: that of the parent's core, or the image of the parent where CTX.SAVE has saved it and it has
children unmerged (R215). -/
def State.joinDie (s : State) (die : Nat) (p : Payload) : Nat :=
  let c := s.task (slotDie die) p.core
  let j := c.regs.getCsr Csr.taskj
  if s.savedOn die p.core && c.launch.uid == p.uid && decide (bits j 25 17 < bits j 8 0) then slotDie die else die

/-- JOIN_WORD_WRITE (R193): the value arrives in the join word, which becomes full. -/
def execJoinWordWrite (die : BitVec 2) (i : Nat) (s : State) : Host.Outcome State Fault Refusal :=
  let d := die.toNat
  .next (match (s.dieAt d).joins[i]? with
    | none => s
    | some p =>
      let h := s.joinDie d p
      ((s.modDie d fun x => { x with joins := dropAt x.joins i }).lsPutSeen h p.core p.off p.bytes).setTag (lsWord h p.core p.off) true)

end Sys2Proof.Machine
end

