-- ==== Sys2Proof/Machine/Barrier.lean ====
section
/-!
DEFINITION. Sys2Proof/Machine/Barrier.lean: barriers (R206, R207, R361, R362) and the advance of the phase stamp (R144).
-/

namespace Sys2Proof.Machine

/-! ## Barriers at their host -/

/-- The value that BARDAT reads (R206). -/
def Bar.word (b : Bar) : Word := BitVec.ofNat 64 (field b.count.toNat 52 + field b.arrived.toNat 40 + field b.phase.toNat 24)

/-- A barrier of a core; one never initialised holds zero. -/
def State.bar (s : State) (die core num : Nat) : Bar := (s.coreOf (coreKey die core)).bars.getD num {}

/-- An arrival counted (R207): the phase advances when the last participant arrives. -/
def Bar.arrive (b : Bar) : Bar :=
  if b.arrived + 1 = b.count then { b with arrived := 0, phase := b.phase + 1 } else { b with arrived := b.arrived + 1 }

/-- A phase has passed (R207). -/
def phasePassed (phase p : BitVec 16) : Bool :=
  let d := (phase - p).toNat
  decide (1 ≤ d) && decide (d ≤ 32767)

/-- The reply to an arrival that was not counted (R207). -/
def notCounted : Word := word (2 ^ 63)

/-- A barrier message at a position of the die's list. -/
def State.bmsg (s : State) (die i : Nat) : Option BMsg := (s.dieAt die).bmsgs[i]?

/-- The reply to a barrier message is on its way. -/
def State.barReply (s : State) (die i : Nat) (m : BMsg) (w : Word) : State :=
  s.modDie die fun d => { d with bmsgs := setAt d.bmsgs i { m with reply := some w } }

/-- An arrival counted by its host, and the reply that goes back. -/
def State.countArrival (s : State) (die : Nat) (m : BMsg) : State × Word :=
  let b := s.bar die m.core m.num.toNat
  if b.count = 0 then (s, notCounted)
  else (s.modCore (coreKey die m.core) fun c => { c with bars := c.bars.set m.num.toNat b.arrive }, b.phase.setWidth 64)

/-- Where arrivals for a barrier wait, if they do: in the lean-to of a core that is being saved or held, or with the image of a task
that CTX.SAVE has saved together with the barrier (R215). -/
def State.barWaits (s : State) (die : Nat) (m : BMsg) : Option Nat :=
  if s.coreHeld die m.core then some die
  else if s.savedOn die m.core && ((s.coreOf (coreKey die m.core)).bars.find? m.num.toNat).isNone then some (slotDie die)
  else none

/-- An arrival goes to the lean-to of its host, or is refused where that is full (R199). -/
def State.leanArrival (s : State) (die at_ i : Nat) (m : BMsg) : State :=
  let k := coreKey at_ m.core
  if (s.coreOf k).leanRoom 16 then
    (s.modDie die fun d => { d with bmsgs := dropAt d.bmsgs i }).modCore k fun c =>
      { c with leanBars := c.leanBars ++ [{ m with refused := none }] }
  else s.modDie die fun d => { d with bmsgs := setAt d.bmsgs i { m with refused := some s.wt } }

/-- BARRIER_ARRIVAL (R207): the host counts an arrival; one whose host is being saved or held goes to its lean-to (R215). A refused
one is sent again a revolution later (R199). -/
def execBarrierArrival (die : BitVec 2) (i : Nat) (s : State) : Host.Outcome State Fault Refusal :=
  let d := die.toNat
  .next (match s.bmsg d i with
    | none => s
    | some m =>
      if m.kind != 0 || m.reply.isSome || (m.refused.map fun t => decide (s.wt.toNat < t.toNat + 256)).getD false then s
      else
        match s.barWaits d m with
        | some at_ => s.leanArrival d at_ i m
        | none =>
          match s.countArrival d m with
          | (s, w) => s.barReply d i m w)

/-- The arrivals that have waited in a core's lean-to counted on its restore, in order (R215, R387). -/
def State.countWaiting (s : State) (die core : Nat) : State :=
  let l := (s.coreOf (coreKey die core)).leanBars
  l.foldl (fun s m =>
    let m := { m with core := core }
    match s.countArrival die m with
    | (s, w) => s.modDie die fun d => { d with bmsgs := d.bmsgs ++ [{ m with reply := some w }] })
    (s.modCore (coreKey die core) fun c => { c with leanBars := [] })

/-- BARRIER_QUERY (R362): the host answers a BAR.WAIT once its phase has passed, a BAR.TEST with the current phase, and a
read of BARDAT with the barrier's word (R206). -/
def execBarrierQuery (die : BitVec 2) (i : Nat) (s : State) : Host.Outcome State Fault Refusal :=
  let d := die.toNat
  .next (match s.bmsg d i with
    | none => s
    | some m =>
      let b := s.bar d m.core m.num.toNat
      if m.reply.isSome || (s.barWaits d m).isSome then s
      else if m.kind = 1 then (if phasePassed b.phase m.phase then s.barReply d i m (b.phase.setWidth 64) else s)
      else if m.kind = 2 then s.barReply d i m (b.phase.setWidth 64)
      else if m.kind = 3 then s.barReply d i m b.word
      else s)

/-- BARRIER_REPLY (R207): the reply reaches the issuing core, and its instruction completes when it executes again. -/
def execBarrierReply (die : BitVec 2) (i : Nat) (s : State) : Host.Outcome State Fault Refusal :=
  let d := die.toNat
  .next (match s.bmsg d i with
    | none => s
    | some m =>
      match m.reply with
      | none => s
      | some w =>
        (s.modDie d fun x => { x with bmsgs := dropAt x.bmsgs i }).answerWait m.agent w)

/-! ## The instructions (R362) -/

/-- The host that a barrier reference names, if it is a good one (R361). -/
def State.barHost (s : State) (ref : Word) : Option Nat :=
  if bits ref 63 27 != 0 || bits ref 15 9 != 0 then none
  else s.physOf s.cur.die s.me.launch.pad.toNat (bits ref 26 16)

/-- A message to the host of a barrier sent; the instruction waits. -/
def State.barSend (s : State) (host : Nat) (ref : Word) (kind : BitVec 2) (phase : BitVec 16) : State :=
  (s.modMyDie fun d =>
    { d with bmsgs := d.bmsgs ++ [{ agent := { s.cur with rep := false }, core := host, num := BitVec.ofNat 9 (bits ref 8 0), kind := kind, phase := phase }] }).setWait .sent

def execBarInit (g : BitVec 3) (b a : BitVec 5) (s : State) : Host.Outcome State Fault Refusal :=
  .next (s.instr g [b, a] none 4 fun vs s =>
    let n := (arg vs 1).toNat
    let count := (arg vs 0).toNat
    if decide (511 < n) || count = 0 || decide (4095 < count) then s.trap causeOperand
    else
      (s.modMyCore fun c => { c with bars := c.bars.set n { count := BitVec.ofNat 12 count } }).finish [b, a] 4)

/-- BAR.ARR: the buffer of a region is committed, the arrival is sent, and its reply gives the phase it counted for. -/
def execBarArr (g : BitVec 3) (b a : BitVec 5) (s : State) : Host.Outcome State Fault Refusal :=
  .next (s.instr g [b] (some a) 4 fun vs s =>
    match s.barHost (arg vs 0) with
    | none => s.trap causeOperand
    | some host =>
      match s.waiting with
      | .answered (.word w) => if w = notCounted then s.trap causeOperand else ((s.setWait .idle).put a w).finish [b] 4
      | .sent => s
      | _ => s.committing fun s => s.barSend host (arg vs 0) 0 0)

/-- The barrier is the race barrier of the present context's launch (R144). -/
def State.isRaceBar (s : State) (ref : Word) : Bool :=
  s.me.launch.rbv && s.me.launch.rbcore.toNat == bits ref 26 16 && s.me.launch.rbnum.toNat == bits ref 8 0

/-- A BAR.WAIT or a true BAR.TEST completes: on the race barrier the buffer of a region is committed, and the stamp advances
(R144, R362). -/
def State.barPassed (s : State) (ref : Word) (k : State → State) : State :=
  if s.isRaceBar ref then
    (s.setWait .idle).committing fun s => k (s.setCsr Csr.rphase ((s.stamp + 1).setWidth 64))
  else k (s.setWait .idle)

/-- The rest of a commit that a completing BAR.WAIT or BAR.TEST has begun; the query is then sent anew. -/
def State.barCommit (s : State) : State := s.commitBuf 65 id

def execBarWait (g : BitVec 3) (b a : BitVec 5) (s : State) : Host.Outcome State Fault Refusal :=
  .next (s.instr g [b, a] none 4 fun vs s =>
    if s.inHandler then s.trap causeHandler
    else
      match s.barHost (arg vs 1) with
      | none => s.trap causeOperand
      | some host =>
        match s.waiting with
        | .answered (.word _) => s.barPassed (arg vs 1) fun s => s.finish [b, a] 4
        | .answered _ => s.barCommit
        | .idle => s.barSend host (arg vs 1) 1 ((arg vs 0).setWidth 16)
        | _ => s)

def execBarTest (g : BitVec 3) (c b : BitVec 5) (d : BitVec 3) (s : State) : Host.Outcome State Fault Refusal :=
  .next (s.instr g [b, c] none 4 fun vs s =>
    match s.barHost (arg vs 0) with
    | none => s.trap causeOperand
    | some host =>
      match s.waiting with
      | .answered (.word w) =>
        if phasePassed (w.setWidth 16) ((arg vs 1).setWidth 16) then
          s.barPassed (arg vs 0) fun s => (s.writeP d true).finish [b, c] 4
        else ((s.setWait .idle).writeP d false).finish [b, c] 4
      | .answered _ => s.barCommit
      | .idle => s.barSend host (arg vs 0) 2 0
      | _ => s)

end Sys2Proof.Machine
end

