-- ==== Sys2Proof/Machine/Manger.lean ====
section
/-!
DEFINITION. Sys2Proof/Machine/Manger.lean: launch queues and their intake (R208 to R210, R406, R407), launch headers (R157 to
R160), the dealing of gangs (R164 to R167), dispatch rounds (R211 to R214), core-time (R212), LAUNCH (R358) and completion
records (R153, R359, R360).
-/

namespace Sys2Proof.Machine

/-! ## Memory as the manger reaches it -/

/-- The manger as the maker of accesses of a launch: context code 3, which names no context (R132). -/
def manger (die : Nat) (l : LaunchInfo) : Who := { agent := { die := die, ctx := 3 }, launch := l, plain := false }

/-- n bytes read under a launch's ASID (R157, R208). -/
def State.mangerRead (s : State) (die : Nat) (l : LaunchInfo) (va : Word) (n : Nat) : Option (List Byte) × State :=
  if bit va 47 then (none, s)
  else
    match s.perform die .ports (manger die l) va [(va.toNat, n)] (.read n) with
    | (.data b, s) => (some b, s)
    | (_, s) => (none, s)

/-- Bytes written under a launch's ASID, or false where they cannot be (R359). -/
def State.mangerWrite (s : State) (die : Nat) (l : LaunchInfo) (va : Word) (b : List Byte) : Bool × State :=
  if bit va 47 then (false, s)
  else
    match s.perform die .ports (manger die l) va [(va.toNat, b.length)] (.write b) with
    | (.data _, s) => (true, s)
    | (_, s) => (false, s)

/-! ## Launch queues (R208) -/

/-- A function's memory space answers while its interface is not in ERROR: the physical function's once PCIe trains (R411), a virtual
function's while its paddock lives (R406, R409). -/
def State.fnOpen (s : State) (die fn : Nat) : Bool :=
  let f := (s.dieAt die).funcs.getD fn {}
  f.tdisp != .error && if fn = 0 then decide (3 ≤ s.pkg.boot) else f.enabled && decide (fn < 17)

/-- The paddock that a function's launches run in (R406, R407). -/
def Die.fnPad (d : Die) (fn : Nat) : Option Nat :=
  if fn = 0 then d.operator else if (d.pads.find? (fn - 1)).isSome then some (fn - 1) else none

def LQueue.en (q : LQueue) : Bool := bit q.cfg 63
def LQueue.asid (q : LQueue) : Nat := bits q.cfg 15 5
def LQueue.entries (q : LQueue) : Nat := 2 ^ bits q.cfg 3 0

/-- A queue disabled with ERR. -/
def LQueue.fail (q : LQueue) : LQueue := { q with cfg := setBits q.cfg 63 62 1 }

def State.lq (s : State) (die fn q : Nat) : LQueue := ((s.dieAt die).funcs.getD fn {}).lqs.getD q {}

def State.setLq (s : State) (die fn q : Nat) (x : LQueue) : State :=
  s.modDie die fun d => { d with funcs := d.funcs.modify fn {} fun f => { f with lqs := f.lqs.set q x } }

/-- The fill level of a queue with a given TAIL: where HEAD lies outside a ring made smaller, it is above any size (log 122). -/
def LQueue.fill (q : LQueue) (tail : Nat) : Nat :=
  if q.entries ≤ q.head.toNat then 2 ^ 16 else (tail + q.entries - q.head.toNat) % q.entries

/-- DOORBELL (R208, R407): a write of LQnTAIL. -/
def execDoorbell (die : BitVec 2) (fn : BitVec 5) (q : BitVec 3) (v : BitVec 64) (s : State) :
    Host.Outcome State Fault Refusal :=
  let d := die.toNat
  let f := fn.toNat
  let x := s.lq d f q.toNat
  let t := bits v 15 0
  .next (if !s.fnOpen d f || (s.dieAt d).held then s
    else if decide (x.entries ≤ t) || decide (x.entries < x.fill t) || (f == 0 && (s.dieAt d).operator.isNone) then s.setLq d f q.toNat x.fail
    else s.setLq d f q.toNat { x with tail := BitVec.ofNat 16 t })

/-- The ASID may be named by a queue of a function (R406, R407). -/
def Die.queueAsidOk (d : Die) (fn asid : Nat) : Bool :=
  match (d.fnPad fn).bind d.pads.find? with
  | none => false
  | some p => (decide (p.asidB ≤ asid) && decide (asid < p.asidB + p.asidN)) || (fn == 0 && asid == 0)

/-- LQ_CONFIG_WRITE (R208, R406): a write of LQnCFG; one that would enable a queue with LOG2 below 3, or that gives an ASID
outside the range, leaves EN clear and sets ERR. -/
def execLqConfigWrite (die : BitVec 2) (fn : BitVec 5) (q : BitVec 3) (v : BitVec 64) (s : State) :
    Host.Outcome State Fault Refusal :=
  let d := die.toNat
  let f := fn.toNat
  let x := s.lq d f q.toNat
  let cfg := word (field (bits v 15 5) 5 + bits v 3 0)
  .next (if !s.fnOpen d f || (s.dieAt d).held then s
    else if bit v 63 then
      (if decide (bits v 3 0 < 3) || !(s.dieAt d).queueAsidOk f (bits v 15 5) then
        s.setLq d f q.toNat ({ x with cfg := cfg } : LQueue).fail
      else s.setLq d f q.toNat { x with cfg := setBits cfg 63 63 1 })
    else if !(s.dieAt d).queueAsidOk f (bits v 15 5) then s.setLq d f q.toNat ({ x with cfg := cfg } : LQueue).fail
    else s.setLq d f q.toNat { x with cfg := setBits cfg 62 62 (bits x.cfg 62 62) })

/-! ## Entries of the pending-launch store (R210) -/

/-- The lowest free entry. -/
def Die.freeLid (d : Die) : Option Nat := (List.range 4096).find? fun n => (d.launches.find? n).isNone

/-- The number of the present millisecond of wheel time. -/
def State.milli (s : State) : Nat := s.wt.toNat / 2000000

/-- A paddock may take in another launch in the present millisecond (R398). -/
def State.rateOk (s : State) (die pad : Nat) : Bool :=
  match s.pad? die pad with
  | none => false
  | some p => p.lrate = 0 || p.admitMs != s.milli || decide (p.admitted < p.lrate)

/-- The race records and the newest stamp of a launch index cleared (R147). -/
def Races.clearLid (r : Races) (lid : BitVec 12) : Races :=
  { recs := r.recs.filter fun p => p.2.lid != lid, newest := r.newest.erase lid.toNat }

/-- The race records of a launch index cleared in every memory of a die (R147, R210). -/
def State.clearLid (s : State) (die : Nat) (lid : BitVec 12) : State :=
  { s with
    pgs := s.pgs.mapValues fun k p => if k / 16 = die then { p with races := p.races.clearLid lid } else p
    vaults := s.vaults.mapValues fun k v => if k / 64 = die then { v with races := v.races.clearLid lid } else v }

/-- A launch placed in an entry, and counted against its paddock's rate. -/
def State.takeLaunch (s : State) (die lid : Nat) (l : LaunchInfo) (hdr tag : Word) (bad : Bool) : State :=
  let uid := (s.dieAt die).launchSerial
  (s.clearLid die (BitVec.ofNat 12 lid)).modDie die fun d =>
    { d with
      launchSerial := uid + 1
      launches := d.launches.set lid
        { info := { l with uid := uid, lid := BitVec.ofNat 12 lid }, hdr := hdr, tag := tag, bad := bad, order := uid }
      pads := match d.pads.find? l.pad.toNat with
        | some p => d.pads.set l.pad.toNat
            { p with admitted := if p.admitMs = s.milli then p.admitted + 1 else 1, admitMs := s.milli }
        | none => d.pads }

/-- A record taken from a queue (R208, R209). -/
def State.takeRecord (s : State) (die fn q pad lid : Nat) : State :=
  let x := s.lq die fn q
  let l : LaunchInfo :=
    { asid := BitVec.ofNat 11 x.asid, pad := BitVec.ofNat 4 pad, pf := fn == 0
      ten := BitVec.ofNat 8 (((s.pad? die pad).map (·.ten)).getD 0) }
  match s.mangerRead die l (x.base + word (32 * x.head.toNat)) 32 with
  | (none, s) => s.setLq die fn q x.fail
  | (some b, s) =>
    let w := groupsOf 8 4 b
    let hdr := word (w.getD 0 0)
    (s.setLq die fn q { x with head := BitVec.ofNat 16 ((x.head.toNat + 1) % x.entries) }).takeLaunch die lid l hdr (word (w.getD 1 0))
      (w.getD 2 0 != 0 || w.getD 3 0 != 0 || bits hdr 5 0 != 0)

/-- The queue that intake turns to: the first from the given place on that is enabled, not empty and within its paddock's
launch rate. Queues are numbered 8 * function + queue. -/
def State.intakeQueue (s : State) (die : Nat) : Option Nat :=
  let d := s.dieAt die
  ((List.range 136).map fun j => (d.intake + j) % 136).find? fun n =>
    let x := s.lq die (n / 8) (n % 8)
    x.en && x.head != x.tail && match d.fnPad (n / 8) with
      | some p => s.rateOk die p
      | none => true

/-- LAUNCH_INTAKE (R210): the manger moves the next record of the next queue into a free entry. -/
def execLaunchIntake (die : BitVec 2) (s : State) : Host.Outcome State Fault Refusal :=
  let d := die.toNat
  .next (match (s.dieAt d).freeLid, s.intakeQueue d with
    | some lid, some n =>
      let s := s.modDie d fun x => { x with intake := (n + 1) % 136 }
      match (s.dieAt d).fnPad (n / 8) with
      | some p => s.takeRecord d (n / 8) (n % 8) p lid
      | none => s.setLq d (n / 8) (n % 8) (s.lq d (n / 8) (n % 8)).fail
    | _, _ => s)

/-! ## LAUNCH and LAUNCHN (R358) -/

/-- A free entry, if the store is not full and the paddock's launch rate allows one (R210, R398). -/
def State.launchRoom (s : State) : Option Nat :=
  if s.rateOk s.cur.die s.me.launch.pad.toNat then s.myDie.freeLid else none

/-- The launch record of LAUNCH written (R358): the issuer's ASID and paddock. -/
def State.launchNow (s : State) (lid : Nat) (hdr tag : Word) : State :=
  let l := s.me.launch
  s.takeLaunch s.cur.die lid { asid := l.asid, pad := l.pad, pf := l.pf, ten := l.ten } hdr tag (bits hdr 5 0 != 0)

def execLaunch (g : BitVec 3) (b a : BitVec 5) (s : State) : Host.Outcome State Fault Refusal :=
  .next (if wrongWay s.cur.rep [b, a] none then s.trap causeIllegal
    else s.guarded g 4 fun s =>
      if s.inHandler then s.trap causeIllegal
      else s.withOps [b, a] none fun vs s =>
        match s.launchRoom with
        | none => s
        | some _ => s.committing fun s =>
          match s.launchRoom with
          | none => s
          | some lid => (s.launchNow lid (arg vs 1) (arg vs 0)).finish [b, a] 4)

def execLaunchn (g : BitVec 3) (c b : BitVec 5) (d : BitVec 3) (s : State) : Host.Outcome State Fault Refusal :=
  .next (if wrongWay s.cur.rep [b, c] none then s.trap causeIllegal
    else s.guarded g 4 fun s =>
      if s.inHandler then s.trap causeIllegal
      else s.withOps [b, c] none fun vs s =>
        match s.launchRoom with
        | none => (s.writeP d false).finish [b, c] 4
        | some _ => s.committing fun s =>
          match s.launchRoom with
          | none => (s.writeP d false).finish [b, c] 4
          | some lid => ((s.launchNow lid (arg vs 0) (arg vs 1)).writeP d true).finish [b, c] 4)

/-! ## Launch headers (R157 to R160) -/

/-- Codes of launch statuses (R360). -/
def stOk := 0x00
def stFaulted := 0x01
def stFatal := 0x02
def stAborted := 0x03
def stTrapped := 0x04
def stBadHdr := 0x10
def stBadNbv := 0x11
def stBadWid := 0x12
def stBadPlace := 0x13
def stNoCores := 0x14

/-- Field f of a header's widths, 0 for a field of no name. -/
def hdrWidth (w : List Word) (f : Nat) : Nat := bits (w.getD 1 0) (41 - 7 * f) (35 - 7 * f)

/-- Placement scope of boundary b, from 1 to 5. -/
def hdrPlace (w : List Word) (b : Nat) : Nat := bits (w.getD 8 0) (47 - 4 * b) (44 - 4 * b)

/-- Some inner constrained boundary names a larger scope than an outer one. -/
def placesRise : List Nat → Nat → Bool
  | [], _ => false
  | p :: l, outer => if p = 15 then placesRise l outer else decide (outer < p) || placesRise l p

/-- The first failing check of R159 after the header has been read, for a paddock with n good cores. -/
def headerStatus (w : List Word) (n : Nat) : Option Nat :=
  let w0 := w.getD 0 0
  let w8 := w.getD 8 0
  let nf := bits (w.getD 1 0) 44 42
  let widths := (List.range 6).map (hdrWidth w)
  let places := (List.range 5).map fun b => hdrPlace w (b + 1)
  if bits w0 52 48 != 0 || bit w0 0 || bit w0 47 || bits (w.getD 1 0) 63 45 != 0 || bits w8 63 48 != 0 || bits w8 23 21 != 0 ||
      bits (w.getD 11 0) 31 0 != 0 || bits (w.getD 10 0) 5 0 != 0 || decide (11 < bits w8 47 44) then some stBadHdr
  else if bits w0 63 56 != 1 && bits w0 63 56 != 2 then some stBadNbv
  else if nf == 0 || decide (6 < nf) || ((List.range 6).any fun f =>
      if f < nf then widths.getD f 0 == 0 || decide (2 ^ widths.getD f 0 < (w.getD (2 + f) 0).toNat)
      else widths.getD f 0 != 0 || w.getD (2 + f) 0 != 0) || decide (64 < widths.foldl (· + ·) 0) then some stBadWid
  else if (places.any fun p => p != 2 && p != 3 && p != 4 && p != 15) ||
      ((List.range 5).any fun b => decide (nf ≤ b + 1) && places.getD b 15 != 15) || placesRise places 15 then some stBadPlace
  else if bit w8 20 && decide (n ≤ bits w8 19 9) then some stBadPlace
  else if n == 0 then some stNoCores
  else none

/-- The launch with what its header gives it. -/
def Launch.withHeader (x : Launch) (w : List Word) : Launch :=
  let w0 := w.getD 0 0
  let w8 := w.getD 8 0
  let nf := bits (w.getD 1 0) 44 42
  let widths := (List.range nf).map (hdrWidth w)
  let limits := (List.range nf).map fun f => if w.getD (2 + f) 0 = 0 then 2 ^ hdrWidth w f else (w.getD (2 + f) 0).toNat
  { x with
    checked := true
    places := (List.range 5).map fun b => hdrPlace w (b + 1)
    entry := word (field (bits w0 47 1) 1)
    info := { x.info with
      nbv := BitVec.ofNat 8 (bits w0 63 56), ordered := bit w0 55, prio := BitVec.ofNat 2 (bits w0 54 53)
      widths := widths, limits := limits, nw := limits.foldl (· * ·) 1
      cscope := BitVec.ofNat 4 (bits w8 47 44), rbv := bit w8 20, rbcore := BitVec.ofNat 11 (bits w8 19 9)
      rbnum := BitVec.ofNat 9 (bits w8 8 0), args := w.getD 9 0, compl := w.getD 10 0
      ctbud := BitVec.ofNat 32 (bits (w.getD 11 0) 63 32)
      key := BitVec.ofNat 256 (bytesNat ((w.drop 12).flatMap fun x => natBytes 8 x.toNat)) } }

/-- The header of a launch read as it stands in memory, if it can be (R157). -/
def State.readHeader (s : State) (die : Nat) (x : Launch) : Option (List Word) × State :=
  match (if bits x.hdr 5 0 = 0 then s.mangerRead die x.info x.hdr 128 else (none, s)) with
  | (none, s) => (none, s)
  | (some b, s) => (some ((groupsOf 8 16 b).map word), s)

/-- The header of a launch read and checked (R159). A launch whose header could not be read keeps `checked` false; one of a bad
record (R209) fails whatever its header holds, which names the place of its completion record. -/
def State.checkHeader (s : State) (die lid : Nat) (x : Launch) : State :=
  let put (s : State) (y : Launch) : State := s.modDie die fun d => { d with launches := d.launches.set lid y }
  match s.readHeader die x with
  | (none, s) => put s { x with failed := some (BitVec.ofNat 8 stBadHdr) }
  | (some w, s) =>
    put s { x.withHeader w with
      failed := if x.bad then some (BitVec.ofNat 8 stBadHdr)
        else (headerStatus w (s.lcores die x.info.pad.toNat).length).map (BitVec.ofNat 8) }

/-! ## Dealing (R160, R164 to R166) -/

/-- The digits of an enumeration index in mixed radix, field 0 first (R160). -/
def digits (limits : List Nat) (e : Nat) : List Nat :=
  (limits.foldr (fun l (r : List Nat × Nat) => (r.2 % max 1 l :: r.1, r.2 / max 1 l)) ([], e)).1

/-- The work identifier of digits (R160). -/
def widOf (widths digs : List Nat) : Nat := (widths.zip digs).foldl (fun w p => w * 2 ^ p.1 + p.2) 0

/-- The unit of a kind that a core lies in (R137, R164). -/
def unitNo (kind core : Nat) : Nat :=
  match kind with
  | 2 => strOf core
  | 3 => vaultOf (strOf core)
  | _ => core / 64 / 16 * 2 + core % 64 / 32

/-- The units of a kind within a unit given as its cores in logical order, by their smallest logical core (R164). -/
def subUnits (kind : Nat) (u : List Nat) : List (List Nat) :=
  (u.map (unitNo kind)).eraseDups.map fun n => u.filter fun c => unitNo kind c == n

/-- The constrained boundaries of a launch and their scopes, in ascending order. -/
def Launch.constraints (x : Launch) : List (Nat × Nat) :=
  ((List.range 5).map fun b => (b + 1, x.places.getD b 15)).filter fun p => p.2 != 15

/-- The unit of an enumeration index (R165): the boundaries, the previous boundary and the unit so far. -/
def unitOf (limits digs : List Nat) : List (Nat × Nat) → Nat → List Nat → List Nat
  | [], _, u => u
  | (b, kind) :: rest, prev, u =>
    let k := ((List.range (b - prev)).map (prev + ·)).foldl (fun k f => k * limits.getD f 1 + digs.getD f 0) 0
    let us := subUnits kind u
    unitOf limits digs rest b (us.getD (k % max 1 us.length) [])

/-- A work identifier starts a group at a constrained boundary. -/
def Launch.startsGroup (x : Launch) (digs : List Nat) : Bool :=
  x.constraints.any fun p => (digs.drop p.1).all (· == 0)

/-- The gang being formed is assigned to its string. -/
def Launch.flush (x : Launch) : Launch :=
  if x.forming.isEmpty then x else { x with formed := x.formed ++ [(x.formStr, x.forming)], forming := [] }

/-- One work identifier dealt (R166). The last one also assigns its gang. -/
def Launch.dealOne (d : Die) (cores : List Nat) (x : Launch) : Launch :=
  let digs := digits x.info.limits x.next
  let x := if x.forming.length = (d.goodCores x.formStr).length || x.startsGroup digs then x.flush else x
  let x : Launch :=
    if x.forming.isEmpty then
      let u := unitOf x.info.limits digs x.constraints 0 cores
      let strs := (u.map strOf).eraseDups
      let key := u.headD 0
      let i := x.cursors.getD key 0
      { x with formStr := strs.getD (i % max 1 strs.length) 0, cursors := x.cursors.set key ((i + 1) % max 1 strs.length) }
    else x
  let x : Launch := { x with forming := x.forming ++ [widOf x.info.widths digs], next := x.next + 1 }
  if x.next = x.info.nw then x.flush else x

/-- Dealing goes on until a string has a gang, or every work identifier is dealt; the fuel bounds their number. -/
def Launch.dealFor (d : Die) (cores : List Nat) (str : Nat) : Nat → Launch → Launch
  | 0, x => x
  | fuel + 1, x =>
    if (x.formed.any (·.1 == str)) || decide (x.info.nw ≤ x.next) then x
    else Launch.dealFor d cores str fuel (x.dealOne d cores)

/-- The next gang of a string. -/
def Launch.gangOf (x : Launch) (str : Nat) : Option (List Nat) := (x.formed.find? (·.1 == str)).map (·.2)

/-! ## Candidates (R211, R213, R398) -/

/-- Work is withheld from a string: its row is marked hot or over budget, or its paddock has used its energy (R213, R398). -/
def State.withheld (s : State) (die str pad : Nat) : Bool :=
  let r := s.pkg.rows.getD (die * 128 + vrowOf (coreAt str 0)) {}
  r.excess || r.therm != .normal || s.pkg.tripped || match s.pad? die pad with
    | some p => p.phase != 0 || p.eq != 0 && decide (p.eq * 1000000000 ≤ p.usage.energy)
    | none => true

/-- A pre-emption request has the string: nothing is dispatched to it (R379, R382). -/
def Str.taken (x : Str) : Bool := x.pre.choice.isSome || x.pre.writing || x.pre.held || x.pre.releasing || x.pre.restored

/-- A core's switch and clock are on (R413). -/
def State.clocked (s : State) (die core : Nat) : Bool :=
  let c := s.coreOf (coreKey die core)
  c.on && c.div != 0

/-- A core may be given work: its switch and clock are on, its task context is free, and no record is granted to it (R185, R413). -/
def State.coreReady (s : State) (die core : Nat) : Bool :=
  s.clocked die core && !(s.coreOf (coreKey die core)).granted && (s.ctxOf (ctxKey die core 0)).free

/-- A string is free (R167): no member of its gang is left, saved by CTX.SAVE or not. -/
def State.strReady (s : State) (die str : Nat) : Bool :=
  !(s.strAt die str).taken && ((s.dieAt die).goodCores str).all (s.coreReady die) && (s.liveMembers die str).isEmpty && !((s.dieAt die).goodCores str).isEmpty

/-- A context still holds fault-log entries of another launch (R105). -/
def Ctx.logLeft (c : Ctx) (l : LaunchInfo) : Bool := !c.flog.isEmpty && c.launch.uid != l.uid

/-- A context of the core, the handler contexts among them, still holds fault-log entries of an earlier launch (R105). -/
def State.logLeft (s : State) (die core : Nat) (l : LaunchInfo) : Bool :=
  [0, 1, 2].any fun x => (s.ctxOf (ctxKey die core x)).logLeft l

/-- The contexts whose logs are not empty halt before their next launch starts (R105). -/
def State.haltLog (s : State) (die core : Nat) (l : LaunchInfo) : State :=
  [0, 1, 2].foldl (fun s x =>
    let c := s.ctxOf (ctxKey die core x)
    if c.live || !c.logLeft l then s
    else s.onBehalf { die := die, core := core, ctx := x } fun s => (s.modMe fun c => { c with halted := true }).trap causeAsync) s

/-- A candidate of a round. -/
structure Cand where
  /-- 0 a gang, 1 a record, 2 a restored string -/
  kind : Nat := 0
  str : Nat := 0
  core : Nat := 0
  lid : Nat := 0
  ten : Nat := 0
  prio : Nat := 0
  aged : Bool := false
  order : Nat := 0
deriving DecidableEq, Repr, Inhabited

/-- The launches of a paddock that have tasks to deal, in the order of their arrival. -/
def Die.pending (d : Die) (pad : Nat) : List (Nat × Launch) :=
  sortBy (fun x y => decide (x.2.order < y.2.order))
    (d.launches.filter fun p => p.2.info.pad.toNat == pad && p.2.checked && p.2.failed.isNone && !p.2.aborted)

/-- The gang candidates of a free string: in every class the earliest launch that has a gang for it (R211). A gang whose
cores still hold fault-log entries of another launch waits for their contexts, which halt (R105). -/
def State.gangCands (s : State) (die pad str : Nat) : List (Nat × Launch) → List Nat → State × List Cand
  | [], _ => (s, [])
  | (lid, x) :: rest, classes =>
    if classes.contains x.info.prio.toNat then State.gangCands s die pad str rest classes
    else
      let d := s.dieAt die
      let x := x.dealFor d (s.lcores die pad) str (x.info.nw - x.next)
      let s := s.modDie die fun d => { d with launches := d.launches.set lid x }
      match x.gangOf str with
      | none => State.gangCands s die pad str rest classes
      | some g =>
        let left := ((d.goodCores str).take g.length).filter fun c => s.logLeft die c x.info
        let s1 := left.foldl (fun s c => s.haltLog die c x.info) s
        let c : Cand :=
          { str := str, lid := lid, ten := x.info.ten.toNat, prio := x.info.prio.toNat
            aged := decide (64 ≤ x.passed.getD str 0), order := x.order }
        let r := State.gangCands s1 die pad str rest (x.info.prio.toNat :: classes)
        (r.1, if left.isEmpty then c :: r.2 else r.2)

/-- The record candidate of a core (R211): it is idle and has a ready record. Contexts that still hold fault-log entries of another
launch halt first (R105). -/
def State.recCand (s : State) (die core : Nat) : State × List Cand :=
  if (s.strAt die (strOf core)).taken || !s.coreReady die core then (s, [])
  else
    match (s.coreOf (coreKey die core)).pop with
    | none => (s, [])
    | some (t, _) =>
      if s.logLeft die core t.launch then (s.haltLog die core t.launch, [])
      else
        let order := (((s.dieAt die).launches.find? t.launch.lid.toNat).map (·.order)).getD 0
        (s, [{ kind := 1, str := strOf core, core := core, lid := t.launch.lid.toNat, ten := t.launch.ten.toNat
               prio := t.launch.prio.toNat, order := order }])

/-- The candidate of a restored string (R387): it counts as aged. -/
def State.restCand (s : State) (die str : Nat) : List Cand :=
  if (s.strAt die str).pre.restored && ((s.dieAt die).goodCores str).all (s.clocked die) then
    let cs := (List.range 24).map fun j => s.ctxOf (ctxKey die (coreAt str (j / 3)) (j % 3))
    let ls := (cs.filter Ctx.live).map (·.launch)
    [{ kind := 2, str := str, ten := (ls.headD {}).ten.toNat, prio := (ls.map (·.prio.toNat)).foldl max 0, aged := true
       order := (ls.headD {}).uid }]
  else []

/-- The candidates of a paddock. -/
def State.padCands (s : State) (die pad : Nat) (p : Paddock) : State × List Cand :=
  let strs := (regionStrs p.vreg).filter fun k => !s.withheld die k pad
  strs.foldl (fun (r : State × List Cand) k =>
    let g := if r.1.strReady die k then r.1.gangCands die pad k ((r.1.dieAt die).pending pad) [] else (r.1, [])
    ((s.dieAt die).goodCores k).foldl (fun (q : State × List Cand) c =>
      let x := q.1.recCand die c
      (x.1, q.2 ++ x.2)) (g.1, r.2 ++ g.2 ++ g.1.restCand die k)) (s, [])

/-- The order of candidates (R211, R214). -/
def Cand.before (t : Tokens) (last : Nat) (x y : Cand) : Bool :=
  let key (c : Cand) : List Nat :=
    [3 - c.prio, if c.aged then 0 else 1, if !c.aged && decide ((t.bucket c.ten).b ≤ 0) then 1 else 0,
      (c.ten + 511 - last) % 256, c.order, c.str, c.core]
  key x < key y

/-! ## Dispatch (R166, R167, R211) -/

/-- A gang starts on its string (R161, R166). -/
def State.startGang (s : State) (die lid str : Nat) (x : Launch) (g : List Nat) : State :=
  let x := { x with
    formed := x.formed.eraseP (·.1 == str)
    passed := x.passed.erase str
    live := x.live + g.length
    tstart := if x.tstart = 0 then s.wt else x.tstart }
  let s := s.modDie die fun d => { d with launches := d.launches.set lid x }
  let s := s.modStr die str fun y => { y with gang := some { uid := x.info.uid, size := g.length }, muster := none, brLog := [], window := [] }
  let cores := (s.dieAt die).goodCores str
  -- no member of the previous gang takes part any more
  let s := cores.foldl (fun s c => s.modCtx (ctxKey die c 0) fun k => { k with member := false }) s
  ((cores.zip g).zip (List.range 8)).foldl (fun s p =>
    s.startTask die p.1.1 x.info { wid := word p.1.2 } x.entry [x.info.args, word p.1.2] 0 (some p.2)) s

/-- A candidate dispatched. -/
def State.dispatch (s : State) (die : Nat) (c : Cand) : State :=
  let s := s.modDie die fun d => { d with lastTenant := c.ten }
  match c.kind with
  | 0 =>
    match (s.dieAt die).launches.find? c.lid with
    | none => s
    | some x =>
      match x.gangOf c.str with
      | none => s
      | some g => s.startGang die c.lid c.str x g
  | 1 => s.modCore (coreKey die c.core) fun k => { k with granted := true }
  | _ => s.modStr die c.str fun x => { x with pre := { x.pre with restored := false } }

/-- A tenant has pending demand for core-time: a ready gang or record (R212). -/
def State.coreDemand (s : State) (die ten : Nat) : Bool :=
  (s.dieAt die).launches.values.any (fun x =>
    x.info.ten.toNat == ten && x.checked && x.failed.isNone && !x.aborted && !x.dealt) ||
    s.cores.any fun p => p.1 / 2048 == die && (p.2.deque.any (fun t => t.launch.ten.toNat == ten) ||
      p.2.spill.any fun t => t.launch.ten.toNat == ten)

/-- The core-time tokens of a die with its tenants' demand as it stands now. -/
def State.coreTokens (s : State) (die : Nat) : Tokens :=
  (s.dieAt die).tenants.foldl (fun t ten =>
    let b := t.bucket ten
    let dem := s.coreDemand die ten
    t.setBucket ten { b with demand := dem, wasDemand := b.wasDemand || dem }) (s.dieAt die).coreTime

/-- Two candidates want the same cores. -/
def Cand.clash (x y : Cand) : Bool := x.str == y.str && (x.kind != 1 || y.kind != 1 || x.core == y.core)

/-- Up to n candidates dispatched in order (R211): an aged one whatever its tenant's bucket holds, another only while its
tenant can draw or borrow (R212, R214). The gangs dispatched are given back. -/
def State.dispatchAll (s : State) (die : Nat) (tens : List Nat) : Nat → Nat → List Cand → State × List Cand
  | 0, _, _ => (s, [])
  | _, 0, _ => (s, [])
  | fuel + 1, n + 1, cs =>
    let d := s.dieAt die
    let t := s.coreTokens die
    match sortBy (Cand.before t d.lastTenant) cs with
    | [] => (s, [])
    | c :: _ =>
      if c.aged || t.canTake tens c.ten then
        let r := State.dispatchAll (s.dispatch die c) die tens fuel n (cs.filter fun x => !x.clash c)
        (r.1, c :: r.2)
      else State.dispatchAll s die tens fuel (n + 1) (cs.erase c)

/-- Rounds for which the gangs of a launch have been passed over, after a round (R214). -/
def agePassed (lid : Nat) (x : Launch) (cands : List Cand) : SMap Nat :=
  (cands.filter fun c => c.kind == 0 && c.lid == lid).foldl (fun m c => m.set c.str (x.passed.getD c.str 0 + 1)) []

/-- DISPATCH_ROUND (R211): once per revolution. -/
def execDispatchRound (die : BitVec 2) (s : State) : Host.Outcome State Fault Refusal :=
  let n := die.toNat
  .next (if s.rev ≤ (s.dieAt n).round then s
    else
      let s := s.modDie n fun d => { d with round := s.rev }
      let s := (s.dieAt n).launches.foldl (fun s p => if p.2.checked || p.2.failed.isSome then s else s.checkHeader n p.1 p.2) s
      let (s, cands) := (s.dieAt n).pads.foldl (fun (r : State × List Cand) p =>
        let q := r.1.padCands n p.1 p.2
        (q.1, r.2 ++ q.2)) (s, [])
      let tens := (s.dieAt n).tenants
      let s := s.modDie n fun d => { d with coreTime := s.coreTokens n }
      let (s, done) := s.dispatchAll n tens (cands.length + 32) 32 cands
      let left := cands.filter fun c => !done.contains c
      s.modDie n fun d => { d with launches := d.launches.mapValues fun lid x => { x with passed := agePassed lid x left } })

/-! ## Core-time (R212) -/

/-- The core-time share of a tenant under the allowance. -/
def Die.coreShare (d : Die) (allow ten : Nat) : Nat := d.share (·.cts) ten * allow / 1000

/-- CORE_TIME_REFILL (R212): every 64 µs, with the allowance that the arbiter gives at that instant (R416), under R73 with shares of ⌊CT × A / 1,000⌋ of 131,072 core-µs × A / 1,000. -/
def execCoreTimeRefill (die : BitVec 2) (s : State) : Host.Outcome State Fault Refusal :=
  let n := die.toNat
  let p := s.wt.toNat / 128000
  .next (if p < (s.dieAt n).coreTime.period || decide (s.pkg.period < p) then s
    else s.modDie n fun d =>
      { d with coreTime := (s.coreTokens n).refill d.tenants (d.coreShare s.pkg.allow) (131072 * s.pkg.allow / 1000) (p + 1) })

/-- The shares of core-time that borrowing and debts go by (R72, R73). -/
def State.coreShares (s : State) (die : Nat) : Nat → Nat :=
  (s.dieAt die).coreTime.shareOf ((s.dieAt die).coreShare s.pkg.allow)

/-- One core-µs of a context drawn from its tenant's bucket, or added to its deficit (R71, R212), and entered in the usage of
its paddock. -/
def State.drawCoreTime (s : State) (die : Nat) (l : LaunchInfo) : State :=
  let d := s.dieAt die
  let c := s.coreTokens die
  let (t, ok) := c.take d.tenants (s.coreShares die) l.ten.toNat
  let b := c.bucket l.ten.toNat
  let t := if ok then t else c.setBucket l.ten.toNat { b with deficit := b.deficit + 1 }
  (s.modDie die fun d => { d with coreTime := t }).modUsage die l.pad.toNat fun u => { u with charge := u.charge + 1 }

/-- Of the core-µs due at one time on a die, the one drawn next: of a tenant with tokens of its own, or else of the one that goes
first among those that borrow (R72, R212). -/
def State.nextDraw (s : State) (die : Nat) (l : List LaunchInfo) : Option Nat :=
  let t := s.coreTokens die
  match l.findIdx? fun x => decide (0 < (t.bucket x.ten.toNat).b) with
  | some i => some i
  | none => l.findIdx? fun x => l.all fun y => t.before (s.coreShares die) x.ten.toNat y.ten.toNat

/-- The core-µs due at one time on a die drawn in turn. -/
def State.drawAll (s : State) (die : Nat) : Nat → List LaunchInfo → State
  | 0, _ => s
  | fuel + 1, l =>
    match (s.nextDraw die l).bind fun i => (l[i]?).map fun x => (i, x) with
    | none => s
    | some (i, x) => State.drawAll (s.drawCoreTime die x) die fuel (dropAt l i)

/-! ## Completion (R153, R359, R360) -/

/-- Something of a launch is still under way (R153). -/
def State.launchBusy (s : State) (die : Nat) (l : LaunchInfo) : Bool :=
  let d := s.dieAt die
  let scope := l.cscope.toNat
  s.allPosted.any (fun p => (!p.peer || p.ipkg == s.pkg.number) && p.agent.die == die && p.launch.uid == l.uid) ||
    ((List.range 256).any fun k => (s.strAt die k).queue.values.any fun c =>
      c.launch.uid == l.uid && scope != 0 && c.fin.isNone && s.cmdBusy c scope) ||
    s.reqs.any (fun r => r.ipkg == s.pkg.number && r.slot.isNone && r.agent.die == die && r.launch.uid == l.uid && r.idie == die) ||
    (s.payloadsOf die).any (fun p => p.uid == l.uid && scope != 0 && lsInScope scope p.agent.core p.core) ||
    d.joins.any (·.uid == l.uid) || d.msgs.any (·.launch.uid == l.uid)

/-- The launch is complete: it failed its checks, or all its tasks have ended and nothing of it is under way. -/
def State.launchDone (s : State) (die : Nat) (x : Launch) : Bool :=
  x.failed.isSome || (x.tasksEnded && !s.launchBusy die x.info)

/-- STATUS of a launch (R360). -/
def Launch.status (x : Launch) : Nat :=
  match x.failed with
  | some c => c.toNat
  | none =>
    if x.aborted then stAborted
    else if x.trapped then stTrapped
    else if x.fatal then stFatal
    else if x.fltCnt != 0 then stFaulted
    else stOk

/-- Words 1 to 7 of the completion record (R359). -/
def Launch.record (x : Launch) (wt : Word) : List Word :=
  [word (field x.status 56 + field x.info.lid.toNat 44 + field (bnat x.rinc) 43 + field (bnat x.olate) 42 +
      field x.rfirst.toNat 26),
    x.tag, word (field x.raceCnt.toNat 32 + x.fltCnt.toNat), x.tstart, wt, word (x.charge / 2000), 0]

/-- Little-endian bytes of words. -/
def wordsBytes (ws : List Word) : List Byte := ws.flatMap fun w => natBytes 8 w.toNat

/-- The logged faults that follow the record. -/
def Launch.faultBytes (x : Launch) : List Byte := x.faults.flatMap fun e => wordsBytes [e.va, e.opnd, e.wt, e.info]

/-- The completion record written: words 1 to 7 and the faults, then SIGNAL; false where some part cannot be. -/
def State.writeCompletion (s : State) (die : Nat) (x : Launch) : Bool × State :=
  if !x.checked then (false, s)
  else
    match s.mangerWrite die x.info (x.info.compl + 8) (wordsBytes (x.record s.wt)) with
    | (false, s) => (false, s)
    | (true, s) =>
      match (if x.faults.isEmpty then (true, s) else s.mangerWrite die x.info (x.info.compl + 64) x.faultBytes) with
      | (false, s) => (false, s)
      | (true, s) => s.mangerWrite die x.info x.info.compl (natBytes 8 1)

/-- The record of a complete launch is written, or counted as lost, and its entry freed (R359, R210); what the launch has written is
ordered before its signal (R154). -/
def State.completeLaunch (s : State) (die lid : Nat) (x : Launch) : State :=
  let (ok, s) := (s.orderLaunch die x.info.uid x.info.cscope.toNat x.info.ten.toNat).writeCompletion die x
  let s := if ok then s else s.modDie die fun d => { d with lostCompl := word (min (2 ^ 64 - 1) (d.lostCompl.toNat + 1)) }
  let s := s.modUsage die x.info.pad.toNat fun u => { u with launches := u.launches + 1 }
  (s.clearLid die (BitVec.ofNat 12 lid)).modDie die fun d => { d with launches := d.launches.erase lid }

/-- A launch of a paddock that is destroyed completes: where no round has read its header, it is read for the place of the record
(R215, R399). -/
def State.abortLaunch (s : State) (die lid : Nat) (x : Launch) : State :=
  if x.checked || x.failed.isSome then s.completeLaunch die lid x
  else
    match s.readHeader die x with
    | (none, s) => s.completeLaunch die lid x
    | (some w, s) => s.completeLaunch die lid (x.withHeader w)

/-- COMPLETION_RECORD (R359, R210). -/
def execCompletionRecord (die : BitVec 2) (lid : BitVec 12) (s : State) : Host.Outcome State Fault Refusal :=
  let n := die.toNat
  .next (match (s.dieAt n).launches.find? lid.toNat with
    | none => s
    | some x => if s.launchDone n x then s.completeLaunch n lid.toNat x else s)

end Sys2Proof.Machine
end

