-- ==== Sys2Proof/Machine/System.lean ====
section
/-!
DEFINITION. Sys2Proof/Machine/System.lean: system instructions (R363 to R366), TLBI.R at its issuer (R32 to R36), the system
registers (R231, R232) with the supervisor's remote access (R376), and TSCR with termination (R373, R376).
-/

namespace Sys2Proof.Machine

/-! ## TRAP, BRK, NOP, ERET -/

def execTrap (g : BitVec 3) (k : BitVec 10) (s : State) : Host.Outcome State Fault Refusal :=
  .next (s.guarded g 4 fun s => s.enterTrap causeSoft k.toNat s.here)

def execBrk (g : BitVec 3) (s : State) : Host.Outcome State Fault Refusal :=
  .next (s.guarded g 4 fun s => s.trap causeBreak)

def execNop (_g : BitVec 3) (s : State) : Host.Outcome State Fault Refusal := .next (s.retire 4)

/-- The context that an agent identity in a register names in the present paddock (R132). -/
def State.agentNamed (s : State) (w : Word) : Option Agent :=
  if bits w 63 13 != 0 then none else s.agentOf s.cur.die s.me.launch.pad.toNat (w.setWidth 13)

/-- ERET (R364). -/
def execEret (g : BitVec 3) (b a : BitVec 5) (s : State) : Host.Outcome State Fault Refusal :=
  .next (if wrongWay s.cur.rep [b, a] none then s.trap causeIllegal
    else s.guarded g 4 fun s =>
      if !s.meSupv then s.trap causePrivilege
      else s.withOps [b, a] none fun vs s =>
        match s.agentNamed (arg vs 1) with
        | none => s.trap causeOperand
        | some x =>
          let k := ctxKey x.die x.core x.ctx
          if (s.ctxOf k).st != .parked || x.same s.cur then s.trap causeOperand
          else if bit (arg vs 0) 0 then s.trap causeIllegal
          else if bits (arg vs 0) 63 48 != 0 then s.trap causeOperand
          else (s.finish [b, a] 4).leaveTrap k (arg vs 0))

/-! ## Idempotent regions (R366, R389) -/

/-- IDEM.BEGIN opens a region and starts its checkpoint. -/
def execIdemBegin (g : BitVec 3) (s : State) : Host.Outcome State Fault Refusal :=
  .next (s.guarded g 4 fun s =>
    if s.inHandler then s.trap causeIllegal
    else if s.me.region.isSome || s.me.regs.repActive then s.trap causeOperand
    else
      let c := s.myCore
      let ck : Checkpoint :=
        { regs := s.me.regs, tiles := c.tiles, acc0 := c.acc0, acc1 := c.acc1
          chans := c.csr.filter fun p => decide (Csr.chcfg ≤ p.1) && decide (p.1 < Csr.chptr + 8)
          wpos := s.me.wpos }
      let r : Region := { begin := s.here, ck := ck, retired := 1 }
      (s.retire 4).modMe fun c => { c with region := some r })

/-- IDEM.END commits and closes the region; a non-empty fault log halts (R104, R366). -/
def execIdemEnd (g : BitVec 3) (s : State) : Host.Outcome State Fault Refusal :=
  .next (s.guarded g 4 fun s =>
    if s.me.region.isNone then s.retire 4
    else s.closing fun s =>
      if s.me.flog.isEmpty then (s.modMe fun c => { c with region := none }).retire 4 else s.trap causeAsync)

/-- CHECKPOINT_COMPLETE (R389): the region becomes discardable unless an event has ended that. -/
def execCheckpointComplete (die : BitVec 2) (core : BitVec 11) (s : State) : Host.Outcome State Fault Refusal :=
  .next (s.modCtx (ctxKey die.toNat core.toNat 0) fun c =>
    { c with region := c.region.map fun r => { r with ckDone := true, disc := !r.broken } })

/-- CTX.LIVE (R365). -/
def execCtxLive (g : BitVec 3) (a : BitVec 5) (s : State) : Host.Outcome State Fault Refusal :=
  .next (if wrongWay s.cur.rep [a] none then s.trap causeIllegal
    else s.guarded g 4 fun s => s.withOps [a] none fun vs s =>
      if bits (arg vs 0) 63 32 != 0 then s.trap causeOperand
      else if s.inHandler then s.trap causeIllegal
      else s.needIdle fun s => (s.modRegs fun r => { r with live := (arg vs 0).setWidth 32 }).finish [a] 4)

/-! ## TLBI.R (R33) -/

/-- The range of a TLBI.R is out of bounds. -/
def tlbiRangeBad (start len : Word) : Bool :=
  len != 0xFFFFFFFFFFFFFFFF && (bits start 63 48 != 0 || decide (2 ^ 48 < start.toNat + len.toNat))

/-- The ASID is owned by the present paddock, or the present context is one of the physical function (R13, R33). -/
def State.tlbiAsidOk (s : State) (asid : Nat) : Bool :=
  s.mePf || (let w := (s.myDie.asidWords asid).1
    !bit w 3 && bits w 7 4 == s.me.launch.pad.toNat)

/-- The request sent to the yardmaster. -/
def State.tlbiSend (s : State) (asid start len : Word) : State :=
  (s.modMyDie fun d =>
    { d with tlbis := d.tlbis ++ [{ agent := s.cur, asid := asid.setWidth 11, start := start.toNat,
                                    stop := start.toNat + len.toNat, all := len == 0xFFFFFFFFFFFFFFFF }] }).setWait .sent

def execTlbiR (g : BitVec 3) (c b a : BitVec 5) (s : State) : Host.Outcome State Fault Refusal :=
  .next (if wrongWay s.cur.rep [b, c, a] none then s.trap causeIllegal
    else s.guarded g 4 fun s =>
      if s.inHandler then s.trap causeHandler
      else if !s.meSupv then s.trap causePrivilege
      else s.withOps [b, c, a] none fun vs s =>
        let len := arg vs 0
        let asid := arg vs 1
        let start := arg vs 2
        if decide (2047 < asid.toNat) then s.trap causeOperand
        else if !s.tlbiAsidOk asid.toNat then s.trap causePrivilege
        else if tlbiRangeBad start len then s.trap causeOperand
        else
          match s.waiting with
          | .answered (.word _) => (s.setWait .idle).finish [b, c, a] 4
          | .sent => s
          | _ => s.committing fun s =>
            if s.fenceBusy s.cur [0, 4] 11 then s
            else if !s.me.flog.isEmpty then s.trap causeAsync
            else if len = 0 then s.finish [b, c, a] 4
            else s.tlbiSend asid start len)

/-! ## Reading system registers -/

/-- The entry of the logical-core map (R163). -/
def State.lcWord (s : State) (die pad lidx : Nat) : Word :=
  match s.physOf die pad lidx, s.pad? die pad with
  | some c, some p =>
    let lstr := (indexOf? (strOf c) (regionStrs p.vreg)).getD 0
    word (field 1 63 + field lstr 28 + field (posOf c) 25 + field (c / 64) 20 + field (c % 64) 14 + lidx)
  | _, _ => 0

/-- Reserved bits of the table registers, which read zero (R9, R14, R29, R89). -/
def datReserved (n : Nat) : Word :=
  if n = Csr.asiddat0 then 0xF06
  else if n = Csr.asiddat1 then 0xFFF0000000001FFE
  else if n = Csr.hnddat then 0x380000FFFFFFF800
  else if n = Csr.hnddat + 1 then 0xFFFF000000000FFF
  else if n = Csr.hnddat + 2 then 0xFFFFFF0000000000
  else if n = Csr.hnddat + 3 then 0x7FFFFFFFFF
  else if n = Csr.rrdat then 0x100000000000003F
  else if n = Csr.rrdat + 1 then 0xFFFF00000000003F
  else if n = Csr.rrdat + 2 then 0xFFFFFFFF00000000
  else if n = Csr.rrdat + 3 then 0xFFFFFFFFFFFFFFFF
  else 0

/-- HNDCMD as it reads: BUSY is 1 while a revocation of the die is in progress (R29). -/
def State.hndBusy (s : State) (die : Nat) (v : Word) : Word :=
  let d := s.dieAt die
  setBits v 62 62 (bnat (!d.revoking.isEmpty || (d.cmds.any fun c => c.table == 1 && c.cmd == 2) || d.handles.values.any handleRv))

/-- Registers that only the supervisor context or a context of the physical function reaches (R14, R29, R89). -/
def csrManage (n : Nat) : Bool := decide (0x100 ≤ n) && decide (n ≤ 0x125)

/-- Registers that only contexts of the physical function reach (R47). -/
def csrPf (n : Nat) : Bool := n == Csr.slotsel || n == Csr.slotdat

/-- Registers that only the supervisor context reads (R163, R206, R373). -/
def csrSupv (n : Nat) : Bool := n == Csr.lcdat || n == Csr.bardat || n == Csr.tscr

/-- The present context may not reach the register (R232). -/
def State.csrDenied (s : State) (n : Nat) : Bool :=
  (csrManage n && !(s.meSupv || s.mePf)) || (csrPf n && !s.mePf) || (csrSupv n && !s.meSupv)

/-- The value of a system register of the context of an agent (R231). BARDAT, whose barrier may lie on another core, is
read by its instruction. -/
def State.csrValue (s : State) (a : Agent) (n : Nat) : Word :=
  let k := ctxKey a.die a.core a.ctx
  let c := s.ctxOf k
  let core := s.coreOf (coreKey a.die a.core)
  let pad := c.launch.pad.toNat
  if n == Csr.wtime then s.wt
  else if n == Csr.corid then
    s.lcWord a.die pad (s.lidxOf a.die pad a.core) ||| word (field (s.task a.die a.core).gangPos 11)
  else if n == Csr.hvdat then
    (let sel := (c.regs.getCsr Csr.hvsel).toNat
     if 255 < sel then 0
     else word (field ((s.dieAt a.die).goodCores sel).length 8 + ((s.dieAt a.die).good sel).toNat))
  else if n == Csr.lcdat then s.lcWord a.die pad (c.regs.getCsr Csr.lcsel).toNat
  else if n == Csr.stealctl then core.stealctl
  else if n == Csr.msgseq then setBits (c.regs.getCsr n) 63 62 a.ctx
  else if n == Csr.accst0 then core.acc0.st
  else if n == Csr.accst1 then core.acc1.st
  else if decide (Csr.bfmt ≤ n) && decide (n < Csr.chptr + 8) then core.csr.getD n 0
  else if decide (Csr.flogdat ≤ n) && decide (n < Csr.flogdat + 4) then
    match c.flog[(c.regs.getCsr Csr.flogsel).toNat]? with
    | none => 0
    | some e => [e.va, e.opnd, e.wt, e.info].getD (n - Csr.flogdat) 0
  else if n == Csr.flogcnt then word (c.flog.length + field c.flogLost.toNat 16)
  else if n == Csr.tscr then setBits (core.csr.getD n 0) 63 62 0
  else if n == Csr.slotdat then s.slotEntry a.die (c.regs.getCsr Csr.slotsel)
  else if n == Csr.hndcmd then s.hndBusy a.die (c.regs.getCsr n)
  else c.regs.getCsr n &&& ~~~datReserved n

/-- Registers that remote access reaches (R376). -/
def csrRemote (n : Nat) : Bool := (decide (0x010 ≤ n) && decide (n ≤ 0x018)) || (decide (0x050 ≤ n) && decide (n ≤ 0x062))

/-- ERR of the present core's TSCR. -/
def State.tscrErr (s : State) (e : Bool) : State := s.setCoreCsr Csr.tscr (setBits (s.coreCsr Csr.tscr) 61 61 (bnat e))

/-- The context that an access to a register acts on: the present one, or with RMT = 1 the parked context AGENT; an access that
names none traps with ERR set (R376). -/
def State.csrTarget (s : State) (n : Nat) (k : Agent → State → State) : State :=
  if s.meSupv && csrRemote n && bit (s.coreCsr Csr.tscr) 60 then
    match s.agentOf s.cur.die s.me.launch.pad.toNat (BitVec.ofNat 13 (bits (s.coreCsr Csr.tscr) 59 47)) with
    | none => (s.tscrErr true).trap causeOperand
    | some a =>
      if (s.ctxOf (ctxKey a.die a.core a.ctx)).st = .parked then k a (s.tscrErr false)
      else (s.tscrErr true).trap causeOperand
  else k { s.cur with rep := false } s

/-- BARDAT (R206): the barrier of the present core at once, that of another core by a query. -/
def State.readBardat (s : State) (a : BitVec 5) : State :=
  let ref := s.csr Csr.barsel
  match s.physOf s.cur.die s.me.launch.pad.toNat (bits ref 26 16) with
  | none => (s.put a 0).finish [] 4
  | some host =>
    if host = s.cur.core then (s.put a (s.bar s.cur.die host (bits ref 8 0)).word).finish [] 4
    else
      match s.waiting with
      | .answered (.word w) => ((s.setWait .idle).put a w).finish [] 4
      | .idle => s.barSend host ref 3 0
      | _ => s

/-- CSRR (R231, R232, R376). -/
def execCsrr (g : BitVec 3) (r : BitVec 12) (a : BitVec 5) (s : State) : Host.Outcome State Fault Refusal :=
  .next (s.instr g [] (some a) 4 fun _ s =>
    if s.csrDenied r.toNat then s.trap causePrivilege
    else if r.toNat = Csr.bardat then s.readBardat a
    else s.csrTarget r.toNat fun x s => (s.put a (s.csrValue x r.toNat)).finish [] 4)

/-! ## Termination (R376) -/

/-- What CTX.SAVE has saved of a core is given up, with its image slot. -/
def State.dropSaved (s : State) (die core : Nat) : State :=
  let k := coreKey (slotDie die) core
  if s.savedOn die core then
    { s.clearLs (slotDie die) core with
      ctxs := s.ctxs.filter fun x => x.1 / 4 != k
      cores := s.cores.erase k
      images := s.images.erase k }
  else s

/-- The launch of a terminated context ends FATAL. -/
def State.fatal (s : State) (die : Nat) (l : LaunchInfo) : State := s.modLaunch die l fun x => { x with fatal := true }

/-- What termination leaves in the context's registers: the repeat stream stopped, TSTAT.STATE 10. -/
def Regs.terminated (r : Regs) : Regs :=
  (r.setCsr Csr.reppos 0).setCsr Csr.tstat (setBits (r.getCsr Csr.tstat) 1 0 2)

/-- TERMINATION of a context (R376). -/
def State.terminate (s : State) (a : Agent) : State :=
  let k := ctxKey a.die a.core a.ctx
  let c := s.ctxOf k
  let s := s.setCtxOf k { c with
    regs := c.regs.terminated
    region := none
    wait := .idle
    waitRep := .idle
    pendFp := false
    pendFpRep := false
    pendOvf := false
    prog := none
    progRep := none
    halted := false
    saving := none }
  if c.halted then s.modCtx k fun c => { c with st := .ended }
  else
    let s := s.fatal (homeDie a.die) c.launch
    if a.ctx = 0 then (s.joinWrite a.die a.core 0).endTask a.die a.core .terminated
    else s.endRun a.die a.core a.ctx

/-- A saved task and what its image holds are lost: its contexts end, and the messages that waited for them stay in the core's
lean-to. -/
def State.endSaved (s : State) (die core : Nat) : State :=
  let c := s.coreOf (coreKey (slotDie die) core)
  let s := [0, 1, 2].foldl (fun s x =>
    if (s.ctxOf (ctxKey (slotDie die) core x)).st = .saved then s.terminate { die := slotDie die, core := core, ctx := x } else s) s
  (s.modCore (coreKey die core) fun t =>
    c.lean.foldl (fun (t : Core) m => ({ t with lean := t.lean ++ [m] } : Core).leanCount m.chan.toNat true)
      { t with leanBars := t.leanBars ++ c.leanBars }).dropSaved die core

/-- The context that an agent identity names is saved by CTX.SAVE. -/
def State.savedCtx (s : State) (a : Agent) : Bool :=
  s.savedOn a.die a.core && (s.ctxOf (ctxKey (slotDie a.die) a.core a.ctx)).st == .saved

/-- A context may be terminated: it is parked or saved. -/
def State.mayEnd (s : State) (a : Agent) : Bool :=
  let st := (s.ctxOf (ctxKey a.die a.core a.ctx)).st
  st == .parked || st == .saved || s.savedCtx a

/-- A context that CTX.SAVE has saved terminated on its image, which is not restored; the image slot is given up with the last of
them (R376, R393). -/
def State.terminateSaved (s : State) (a : Agent) : State :=
  let t := s.terminate { a with die := slotDie a.die }
  if [0, 1, 2].any fun x => (t.ctxOf (ctxKey (slotDie a.die) a.core x)).st == .saved then t else t.endSaved a.die a.core

/-- A parked or saved context terminated. -/
def State.terminateNamed (s : State) (a : Agent) : State :=
  let st := (s.ctxOf (ctxKey a.die a.core a.ctx)).st
  if st = .parked ∨ st = .saved then s.terminate a else s.terminateSaved a

/-! ## TSCR (R373) -/

/-- Bits of TSCR that a write sets. -/
def tscrRw : Word := 0x1FFF80FF00F1FFC1
def tscrReserved : Word := 0x00007F00000E003E

/-- The write is refused (R373). -/
def tscrRefused (old new : Word) : Bool :=
  let head := bits old 39 32
  decide ((bits old 31 24 + 256 - head) % 256 < (bits new 39 32 + 256 - head) % 256) ||
    (bit new 0 && (decide (bits new 23 20 < 2) || decide (7 < bits new 23 20) ||
      decide (2 ^ 17 < bits new 16 6 * 64 + 64 * 2 ^ bits new 23 20)))

/-- A write of TSCR of a core by its supervisor context, given that it does not trap (R373, R376). -/
def State.writeTscr (s : State) (die core : Nat) (v : Word) : State :=
  let k := coreKey die core
  let old := (s.coreOf k).csr.getD Csr.tscr 0
  let new := (old &&& ~~~tscrRw &&& ~~~(0xE000000000000000 : Word)) ||| (v &&& tscrRw)
  let put (s : State) (w : Word) : State := s.modCore k fun c => { c with csr := c.csr.set Csr.tscr w }
  if tscrRefused old new then put s (setBits old 61 61 1)
  else
    let s := put s new
    if bits v 63 62 = 1 then
      match s.agentOf die ((s.task die core).launch.pad.toNat) (BitVec.ofNat 13 (bits new 59 47)) with
      | some a => if s.mayEnd a then s.terminateNamed a else put s (setBits new 61 61 1)
      | none => put s (setBits new 61 61 1)
    else s

/-- The task context of a core is a paddock's supervisor context and runs (R374). -/
def State.supvAt (s : State) (die core : Nat) : Bool :=
  (s.task die core).st == .running && s.isSupv { die := die, core := core }

/-- TSCR_WRITE (R373): a write of TSCR by the supervisor context of a core; a value that would trap writes nothing. -/
def execTscrWrite (die : BitVec 2) (core : BitVec 11) (v : BitVec 64) (s : State) : Host.Outcome State Fault Refusal :=
  .next (if !s.supvAt die.toNat core.toNat || bit v 63 || v &&& tscrReserved != 0 then s
    else s.writeTscr die.toNat core.toNat v)

/-- TERMINATE (R376): command 01 of the supervisor context of a core for an agent of its paddock. -/
def execTerminate (die : BitVec 2) (core : BitVec 11) (agent : BitVec 13) (s : State) : Host.Outcome State Fault Refusal :=
  let d := die.toNat
  .next (if !s.supvAt d core.toNat then s
    else
      match s.agentOf d (s.task d core.toNat).launch.pad.toNat agent with
      | some a => if s.mayEnd a then s.terminateNamed a else s.onBehalf { die := d, core := core.toNat } (·.tscrErr true)
      | none => s.onBehalf { die := d, core := core.toNat } (·.tscrErr true))

/-! ## Writing system registers -/

/-- Writable and read-only bits of the registers with a writable field; every other bit is reserved (R232). The reserved bits of a
table's data registers may be written, since the command that takes them up refuses them (R14, R29, R89); RRDAT3 has no writable
field. -/
def csrMask (n : Nat) : Option (Word × Word) :=
  if n == Csr.fflags || n == Csr.fenab then some (0x1F, 0)
  else if n == Csr.hvsel then some (0xFF, 0)
  else if n == Csr.lcsel then some (0x7FF, 0)
  else if n == Csr.flogsel then some (0x3F, 0)
  else if n == Csr.taskj then some (0xFFFF800000000000, 0x3FE01FF)
  else if n == Csr.stealctl then some (0x1F, 0)
  else if n == Csr.tilepos then some (0x81FF, 0)
  else if n == Csr.barsel then some (0x7FF01FF, 0)
  else if n == Csr.asidsel then some (0x7FF, 0)
  else if n == Csr.hndsel then some (0xFFF, 0)
  else if n == Csr.rrsel then some (0xFF, 0)
  else if n == Csr.slotsel then some (0xFFFFFF, 0)
  else if n == Csr.asiddat0 || n == Csr.asiddat1 then some (0xFFFFFFFFFFFFFFFF, 0)
  else if n == Csr.hnddat then some (0x3F0000FFFFFFFFFF, 0xC0FFFF0000000000)
  else if decide (Csr.hnddat < n) && decide (n < Csr.hnddat + 4) then some (0xFFFFFFFFFFFFFFFF, 0)
  else if n == Csr.rrdat then some (0x7FFFFFFFFFFFFFFF, 0x8000000000000000)
  else if n == Csr.rrdat + 1 || n == Csr.rrdat + 2 then some (0xFFFFFFFFFFFFFFFF, 0)
  else none

/-- A value that the register's own rule refuses (R189, R191). -/
def State.csrRefused (s : State) (a : Agent) (n : Nat) (v rw : Word) : Bool :=
  let old := s.csrValue a n
  if n == Csr.stealctl then !([2, 3, 6].contains (bits v 3 0))
  else if n == Csr.taskj then
    bits v 49 47 != 0 || ((v ^^^ old) &&& rw != 0 && decide (bits old 25 17 < bits old 8 0))
  else false

/-- The fault log of a context emptied (R103); a halt for its overflow that is still to come is cancelled with it (log 121). -/
def Ctx.clearLog (c : Ctx) : Ctx := { c with flog := [], flogLost := 0, pendOvf := false }

/-- FLOG_CLEAR (R103): a write of 0 to FLOGCNT. -/
def execFlogClear (die : BitVec 2) (core : BitVec 11) (ctx : BitVec 2) (s : State) : Host.Outcome State Fault Refusal :=
  .next (s.modCtx (ctxKey die.toNat core.toNat ctx.toNat) Ctx.clearLog)

/-- A register with a writable field written in an agent's context. -/
def State.csrStore (s : State) (a : Agent) (n : Nat) (v : Word) : State :=
  if n == Csr.stealctl then s.modCore (coreKey a.die a.core) fun c => { c with csr := c.csr.set n v }
  else s.modCtx (ctxKey a.die a.core a.ctx) fun c => { c with regs := c.regs.setCsr n v }

/-- A command of a table register given to the die (R14, R29, R89). -/
def State.tableCmd (s : State) (table : BitVec 2) (cmd sel dat : Nat) (count : Nat) : State :=
  s.modMyDie fun d =>
    { d with cmds := d.cmds ++ [{ table := table, cmd := cmd, sel := (s.csr sel).toNat
                                  words := (List.range count).map fun j => s.csr (dat + j)
                                  agent := some { s.cur with rep := false }, pf := s.mePf, pad := s.me.launch.pad }] }

/-- A CSRW of ASIDCMD, HNDCMD or RRCMD: the instruction retires when the command has been served; a REVOKE or REMOVE sets BUSY
and retires at once (R29, R89). -/
def State.writeCmd (s : State) (srcs : List (BitVec 5)) (n : Nat) (v : Word) : State :=
  let go (s : State) : State :=
    if n == Csr.asidcmd then s.tableCmd 0 v.toNat Csr.asidsel Csr.asiddat0 2
    else if n == Csr.hndcmd then s.tableCmd 1 v.toNat Csr.hndsel Csr.hnddat 4
    else s.tableCmd 2 v.toNat Csr.rrsel Csr.rrdat 4
  if v = 0 || decide (3 < v.toNat) || (n == Csr.asidcmd && v == 3) then s.trap causeOperand
  else if n != Csr.asidcmd && v == 2 then ((go s).setCsr n (if n == Csr.hndcmd then 0 else word (2 ^ 62))).finish srcs 4
  else
    match s.waiting with
    | .answered _ => (s.setWait .idle).finish srcs 4
    | .idle => (go s).setWait .sent
    | _ => s

/-- A CSRW of TSCR (R373). -/
def State.csrwTscr (s : State) (srcs : List (BitVec 5)) (v : Word) : State :=
  if bit v 63 || v &&& tscrReserved != 0 then s.trap causeOperand
  else (s.finish srcs 4).writeTscr s.cur.die s.cur.core v

/-- A CSRW of a BFMT register (R79). -/
def State.csrwBfmt (s : State) (srcs : List (BitVec 5)) (n : Nat) (v : Word) : State :=
  if bits v 63 28 != 0 || bits v 15 4 != 0 || decide (8 < bits v 3 0) then s.trap causeOperand
  else (s.setCoreCsr n v).finish srcs 4

/-- CSRW (R231, R232, R376). -/
def execCsrw (g : BitVec 3) (r : BitVec 12) (a : BitVec 5) (s : State) : Host.Outcome State Fault Refusal :=
  .next (s.instr g [a] none 4 fun vs s =>
    let n := r.toNat
    let v := arg vs 0
    if n == Csr.accst0 || n == Csr.accst1 then s.trap causeOperand
    else if s.csrDenied n || (n == Csr.tilepos && !s.meSupv) then s.trap causePrivilege
    else if decide (Csr.bfmt ≤ n) && decide (n < Csr.bfmt + 8) then s.csrwBfmt [a] n v
    else if n == Csr.tscr then s.csrwTscr [a] v
    else if n == Csr.asidcmd || n == Csr.hndcmd || n == Csr.rrcmd then s.writeCmd [a] n v
    else
      s.csrTarget n fun x s =>
        if n == Csr.flogcnt then
          (if v = 0 then (s.modCtx (ctxKey x.die x.core x.ctx) Ctx.clearLog).finish [a] 4 else s.trap causeOperand)
        else
          match csrMask n with
          | none => s.trap causePrivilege
          | some (rw, ro) =>
            if v &&& ~~~(rw ||| ro) != 0 || s.csrRefused x n v rw then s.trap causeOperand
            else
              let w := (s.csrValue x n &&& ~~~rw) ||| (v &&& rw)
              -- TILEPOS of the present context is written after the retirement clears its V (R184)
              (s.finish [a] 4).csrStore x n w)

end Sys2Proof.Machine
end

