-- ==== Sys2Proof/Machine/Manage.lean ====
section
/-!
DEFINITION. Sys2Proof/Machine/Manage.lean: the die's tables and holders: ASID table (R14), handles and their revocation
(R29, R31), micro-TLB fills (R25), invalidation broadcasts (R33 to R35), reduction regions (R89), the race sweep (R147).
-/

namespace Sys2Proof.Machine

/-! ## Commands of the table registers (R14, R29, R89, R408) -/

/-- The command that a table serves next, if it is the given one. -/
def State.nextCmd (s : State) (die table cmd : Nat) : Option TableCmd :=
  ((s.dieAt die).cmds.find? fun c => c.table.toNat == table).filter fun c => c.cmd == cmd

/-- The die's commands without the first of a table. -/
def dropCmd (table : Nat) : List TableCmd → List TableCmd
  | [] => []
  | c :: l => if c.table.toNat = table then l else c :: dropCmd table l

/-- The answer to a command: its registers written, and the instruction that waits for it answered (none waits for a REVOKE or a
REMOVE). -/
def State.answerCmd (s : State) (die : Nat) (c : TableCmd) (rs : SMap Word) : State :=
  match c.agent with
  | none => s.modDie die fun d => { d with win := rs.foldl (fun m p => m.set p.1 p.2) d.win }
  | some a =>
    let s := s.modCtx (ctxKey a.die a.core a.ctx) fun x => { x with regs := rs.foldl (fun r p => r.setCsr p.1 p.2) x.regs }
    if c.table = 0 ∨ c.cmd ≠ 2 then s.answerWait a 0 else s

/-- The value of a command register: ERR in bit 63. -/
def errWord (e : Bool) : Word := word (field (bnat e) 63)

/-- The next command of a table is served, on a die that its boot has released. -/
def State.serveCmd (s : State) (die table cmd : Nat) (f : TableCmd → State → State) : State :=
  match s.nextCmd die table cmd, (s.dieAt die).held with
  | none, _ => s
  | some _, true => s
  | some c, false => f c (s.modDie die fun d => { d with cmds := dropCmd table d.cmds })

/-- An ASID lies in the range of a live paddock. -/
def Die.ownsAsid (d : Die) (pad asid : Nat) : Bool :=
  match d.pads.find? pad with
  | some p => decide (p.asidB ≤ asid) && decide (asid < p.asidB + p.asidN)
  | none => false

/-- A function's TDISP interface that is locked or runs moves to ERROR, and the stud book of its paddock, if it has one, flags it
(R409). -/
def State.fnError (s : State) (die fn : Nat) : State :=
  let f := (s.dieAt die).funcs.getD fn {}
  if f.tdisp = .locked ∨ f.tdisp = .run then
    let s := s.modDie die fun d => { d with funcs := d.funcs.set fn { f with tdisp := .error } }
    if fn = 0 then s else s.modUsage die (fn - 1) fun u => { u with flags := u.flags ||| 0x20 }
  else s

/-- The interface of a paddock's function. -/
def State.tdispError (s : State) (die pad : Nat) : State := s.fnError die (pad + 1)

/-! ## ASID table (R13, R14) -/

/-- An install is refused (R14). -/
def Die.asidRefused (d : Die) (c : TableCmd) : Bool :=
  let w0 := c.words.getD 0 0
  let w1 := c.words.getD 1 0
  let tkey := bits w0 63 52
  let keyIn := if bit w0 3 then decide (1 ≤ tkey) && decide (tkey ≤ 15)
    else match d.pads.find? (bits w0 7 4) with
      | some p => decide (p.keyB ≤ tkey) && decide (tkey < p.keyB + p.keyN)
      | none => false
  (!c.pf && (!d.ownsAsid c.pad.toNat c.sel || bits w0 7 4 != c.pad.toNat || bit w0 3)) ||
    bits w0 11 8 != 0 || bits w0 2 1 != 0 || bits w1 63 52 != 0 || bits w1 12 1 != 0 ||
    (bit w0 0 && (!keyIn || decide (2 ^ 38 < bits w0 51 12 * 4096 + 4096) ||
      (bit w1 0 && decide (2 ^ 38 < bits w1 51 13 * 8192 + 8192))))

/-- The paddock whose ASID range holds an ASID. -/
def Die.padOfAsid (d : Die) (asid : Nat) : Option Nat := d.pads.keys.find? fun n => d.ownsAsid n asid

/-- ASID_INSTALL (R14). -/
def execAsidInstall (die : BitVec 2) (s : State) : Host.Outcome State Fault Refusal :=
  let d := die.toNat
  .next (s.serveCmd d 0 1 fun c s =>
    if (s.dieAt d).asidRefused c then s.answerCmd d c [(Csr.asidcmd, errWord true)]
    else
      let s := s.modDie d fun x => { x with asids := x.asids.set c.sel (c.words.getD 0 0, c.words.getD 1 0) }
      let s := match (s.dieAt d).padOfAsid c.sel with
        | some p => if c.pf then s.tdispError d p else s
        | none => s
      s.answerCmd d c [(Csr.asidcmd, errWord false)])

/-- ASID_LOAD (R14). -/
def execAsidLoad (die : BitVec 2) (s : State) : Host.Outcome State Fault Refusal :=
  let d := die.toNat
  .next (s.serveCmd d 0 2 fun c s =>
    if !c.pf && !(s.dieAt d).ownsAsid c.pad.toNat c.sel then s.answerCmd d c [(Csr.asidcmd, errWord true)]
    else
      let w := (s.dieAt d).asidWords c.sel
      s.answerCmd d c [(Csr.asiddat0, w.1), (Csr.asiddat1, w.2), (Csr.asidcmd, errWord false)])

/-! ## Handles (R29) -/

/-- An EXPORT is refused (R29). A LEN that the field's meaning excludes is refused as a reserved value. -/
def Die.exportRefused (d : Die) (c : TableCmd) : Bool :=
  let w (i : Nat) : Word := c.words.getD i 0
  let old := d.handle c.sel
  handleV old || handleRv old || (!c.pf && !d.ownsAsid c.pad.toNat (handleAsid c.words)) ||
    bit (w 1) 47 || decide (2 ^ 47 < bits (w 1) 47 12 * 4096 + bits (w 2) 39 0) ||
    bits (w 0) 61 59 != 0 || bits (w 0) 39 11 != 0 || bits (w 1) 63 48 != 0 || bits (w 1) 11 0 != 0 ||
    bits (w 2) 63 40 != 0 || bits (w 3) 38 0 != 0 || bits (w 2) 11 0 != 0 || decide (2 ^ 39 < bits (w 2) 39 0)

/-- EXPORT (R29): the entry goes live with its current GEN. -/
def execExportHandle (die : BitVec 2) (s : State) : Host.Outcome State Fault Refusal :=
  let d := die.toNat
  .next (s.serveCmd d 1 1 fun c s =>
    if (s.dieAt d).exportRefused c then s.answerCmd d c [(Csr.hndcmd, errWord true)]
    else
      let w (i : Nat) : Word := c.words.getD i 0
      let w0 := setBits (setBits (w 0) 63 62 2) 55 40 (handleGen ((s.dieAt d).handle c.sel)).toNat
      (s.modDie d fun x => { x with handles := x.handles.set c.sel [w0, w 1, w 2, w 3] }).answerCmd d c
        [(Csr.hndcmd, errWord false)])

/-- The revoke notice of a handle sets out for its importer (R31). -/
def State.sendNotice (s : State) (die hnd : Nat) : State :=
  let h := (s.dieAt die).handle hnd
  let w3 := h.getD 3 0
  let n : Notice :=
    { xpkg := s.pkg.number, xdie := die, hnd := BitVec.ofNat 12 hnd, gen := handleGen h, ipkg := BitVec.ofNat 12 (bits w3 63 52)
      idie := bits w3 51 50, iasid := BitVec.ofNat 11 (bits w3 49 39), sentAt := s.wt }
  let s := s.modDie die fun x => { x with handles := x.handles.set hnd (h.set 0 (setBits (h.getD 0 0) 62 62 1)) }
  s.modDie (if n.ipkg = s.pkg.number then n.idie else die) fun x => { x with notices := x.notices ++ [n] }

/-- REVOKE (R31). -/
def execRevoke (die : BitVec 2) (s : State) : Host.Outcome State Fault Refusal :=
  let d := die.toNat
  .next (s.serveCmd d 1 2 fun c s =>
    let h := (s.dieAt d).handle c.sel
    if !handleV h || handleRv h || (!c.pf && !(s.dieAt d).ownsAsid c.pad.toNat (handleAsid h)) then
      s.answerCmd d c [(Csr.hndcmd, errWord true)]
    else
      ((s.modDie d fun x => { x with revoking := x.revoking ++ [c] }).sendNotice d c.sel).answerCmd d c
        [(Csr.hndcmd, errWord false)])

/-- READ of a handle (R29). -/
def execHandleRead (die : BitVec 2) (s : State) : Host.Outcome State Fault Refusal :=
  let d := die.toNat
  .next (s.serveCmd d 1 3 fun c s =>
    let h := (s.dieAt d).handle c.sel
    if !c.pf && handleV h && !(s.dieAt d).ownsAsid c.pad.toNat (handleAsid h) then
      s.answerCmd d c [(Csr.hndcmd, errWord true)]
    else
      s.answerCmd d c
        [(Csr.hnddat, h.getD 0 0), (Csr.hnddat + 1, h.getD 1 0), (Csr.hnddat + 2, h.getD 2 0), (Csr.hnddat + 3, h.getD 3 0),
          (Csr.hndcmd, errWord false)])

/-! ## Revocation (R31) -/

/-- The importer's peer entry names the notice's handle. -/
def Notice.names (n : Notice) (w0 : Word) : Bool :=
  bits w0 63 52 == n.xpkg.toNat && bits w0 51 50 == n.xdie && bits w0 49 38 == n.hnd.toNat && bits w0 37 22 == n.gen.toNat

/-- Peer entries of an ASID that name a notice's handle: their indices. -/
def State.namedEntries (s : State) (die : Nat) (n : Notice) : List Nat :=
  let (w0, w1) := (s.dieAt die).asidWords n.iasid.toNat
  if !bit w0 0 || !bit w1 0 then []
  else (List.range 256).filter fun i =>
    match s.readEntry die (BitVec.ofNat 12 (bits w0 63 52)) (bits w1 51 13 * 8192 + i * 32) with
    | some e => n.names e
    | none => false

/-- A peer entry's STATE set to 10 (R31). -/
def State.revokeEntry (s : State) (die : Nat) (n : Notice) (i : Nat) : State :=
  let (w0, w1) := (s.dieAt die).asidWords n.iasid.toNat
  let tkey := BitVec.ofNat 12 (bits w0 63 52)
  let pa := bits w1 51 13 * 8192 + i * 32
  match s.readEntry die tkey pa with
  | some e => s.writeAs ((s.keyOf die tkey).getD 0) (hbmBase die + pa) (natBytes 8 (setBits e 1 0 2).toNat)
  | none => s

/-- The exporter of this package still waits for the acknowledgement of a notice. -/
def State.awaits (s : State) (n : Notice) : Bool :=
  n.xpkg == s.pkg.number && (let h := (s.dieAt n.xdie).handle n.hnd.toNat
    handleRv h && handleGen h == n.gen)

/-- REVOKE_NOTICE (R31): the importer die marks the peer entries and asks for the invalidation of their windows; once the
broadcasts have been served it acknowledges. -/
def execRevokeNotice (die : BitVec 2) (i : Nat) (s : State) : Host.Outcome State Fault Refusal :=
  let d := die.toNat
  .next (match (s.dieAt d).notices[i]? with
    | none => s
    | some n =>
      if n.ipkg != s.pkg.number || n.idie != d || n.acked then s
      else if !n.marked then
        let l := s.namedEntries d n
        let s := l.foldl (fun s j => s.revokeEntry d n j) s
        s.modDie d fun x =>
          { x with
            tlbis := x.tlbis ++ l.map fun j =>
              { hw := true, asid := n.iasid, start := 2 ^ 47 + j * 2 ^ 39, stop := 2 ^ 47 + (j + 1) * 2 ^ 39 }
            notices := setAt x.notices i { n with marked := true } }
      else if (s.dieAt d).tlbis.any fun t => t.hw && t.asid == n.iasid then s
      else if s.awaits n then s.modDie d fun x => { x with notices := setAt x.notices i { n with acked := true } }
      else s.modDie d fun x => { x with notices := dropAt x.notices i })

/-- A revocation ends (R31): V and RV clear, GEN advances, BUSY clears. -/
def State.endRevoke (s : State) (die hnd : Nat) (err : Bool) : State :=
  let h := (s.dieAt die).handle hnd
  let w0 := setBits (setBits (h.getD 0 0) 63 62 0) 55 40 ((handleGen h).toNat + 1)
  let c := (s.dieAt die).revoking.find? fun c => c.sel == hnd
  let s := s.modDie die fun x =>
    { x with
      handles := x.handles.set hnd (h.set 0 w0)
      revoking := x.revoking.filter fun c => c.sel != hnd }
  match c with
  | some c => s.answerCmd die c [(Csr.hndcmd, errWord err)]
  | none => s

/-- The die whose list holds the notice of a revocation of this exporter, and its place there. -/
def State.noticeOf (s : State) (die hnd : Nat) : Option (Nat × Nat) :=
  (List.range 4).findSome? fun d =>
    ((s.dieAt d).notices.findIdx? fun n => n.xpkg == s.pkg.number && n.xdie == die && n.hnd.toNat == hnd && s.awaits n).map
      fun i => (d, i)

/-- REVOKE_ACK (R31). -/
def execRevokeAck (die : BitVec 2) (hnd : BitVec 12) (s : State) : Host.Outcome State Fault Refusal :=
  .next (match s.noticeOf die.toNat hnd.toNat with
    | none => s
    | some (d, i) =>
      if (((s.dieAt d).notices[i]?).map (·.acked)).getD false then
        (s.modDie d fun x => { x with notices := dropAt x.notices i }).endRevoke die.toNat hnd.toNat false
      else s)

/-- REVOKE_TIMEOUT (R31): 1 ms after the notice, that is 2,000,000 wt. -/
def execRevokeTimeout (die : BitVec 2) (hnd : BitVec 12) (s : State) : Host.Outcome State Fault Refusal :=
  .next (match s.noticeOf die.toNat hnd.toNat with
    | none => s
    | some (d, i) =>
      match (s.dieAt d).notices[i]? with
      | none => s
      | some n =>
        if n.acked || decide (s.wt.toNat < n.sentAt.toNat + 2000000) then s
        else
          let s := if n.ipkg = s.pkg.number then s else s.modDie d fun x => { x with notices := dropAt x.notices i }
          s.endRevoke die.toNat hnd.toNat true)

/-! ## Fills (R25) -/

/-- FILL_REQUEST (R25): the port group answers a micro-TLB fill of a core or of its string's copy engine, under the ASID of the
core's task; a fill that faults leaves nothing. -/
def execFillRequest (die : BitVec 2) (core : BitVec 11) (eng : Bool) (va : BitVec 64) (acc : BitVec 3) (s : State) :
    Host.Outcome State Fault Refusal :=
  let d := die.toNat
  let c := s.task d core.toNat
  .next (if !c.live || (addrFault va 1).isSome then s
    else if eng then (s.engTranslate d (strOf core.toNat) c.launch.asid.toNat va 1 acc.toNat).2
    else (s.coreTranslate d core.toNat c.launch.asid.toNat va 1 acc.toNat).2)

/-! ## Invalidation (R33 to R35) -/

/-- A page of the given base-2 logarithm meets an invalidation's range. -/
def Tlbi.meets (t : Tlbi) (base size : Nat) : Bool :=
  t.all || (decide (t.start < t.stop) && decide (base < t.stop) && decide (t.start < base + 2 ^ size))

def Tlbi.hits (t : Tlbi) (e : TlbEntry) : Bool := e.asid == t.asid && t.meets (e.page * 2 ^ e.size) e.size
def Tlbi.hitsLine (t : Tlbi) (l : ILine) : Bool := l.asid == t.asid && t.meets (l.va.toNat / 2 ^ l.size * 2 ^ l.size) l.size

/-- A table entry of a walk cache whose span meets the range (R33). -/
def Tlbi.hitsWalk (t : Tlbi) (x : WalkEntry) : Bool := x.asid == t.asid && t.meets (x.page * 2 ^ spanOf x.level) (spanOf x.level)

def Tlbi.markWalks (t : Tlbi) (l : List WalkEntry) : List WalkEntry := l.map fun e => if t.hitsWalk e then { e with dead := true } else e
def Tlbi.dropWalks (t : Tlbi) (l : List WalkEntry) : List WalkEntry := l.filter fun e => !(t.hitsWalk e && e.dead)
def Tlbi.mark (t : Tlbi) (l : List TlbEntry) : List TlbEntry := l.map fun e => if t.hits e then { e with dead := true } else e
def Tlbi.markLines (t : Tlbi) (l : List ILine) : List ILine := l.map fun e => if t.hitsLine e then { e with dead := true } else e
def Tlbi.drop (t : Tlbi) (l : List TlbEntry) : List TlbEntry := l.filter fun e => !(t.hits e && e.dead)
def Tlbi.dropLines (t : Tlbi) (l : List ILine) : List ILine := l.filter fun e => !(t.hitsLine e && e.dead)

/-- An access of n bytes used an entry that the invalidation hits, or touches the range itself. -/
def Tlbi.hitsRange (t : Tlbi) (held : List TlbEntry) (va n : Nat) : Bool :=
  t.all || (decide (va < t.stop) && decide (t.start < va + n)) || held.any fun e => t.hits e && e.page == va / 2 ^ e.size

def Tlbi.hitsReq (t : Tlbi) (held : List TlbEntry) (r : Req) : Bool :=
  r.launch.asid == t.asid && r.runs.any fun x => t.hitsRange held x.1 x.2

/-- The reply of a memory access stands before its instruction has taken it. -/
def Wait.memPending : Wait → Bool
  | .performed _ => true
  | .answered (.word _) => false
  | .answered _ => true
  | _ => false

/-- An agent of this package's die posted a reduction that used a hit entry and is neither applied nor logged (R34). -/
def State.postedBusy (s : State) (die core : Nat) (t : Tlbi) : Bool :=
  s.allPosted.any fun p => (!p.peer || (p.ipkg == s.pkg.number && p.idie == die)) && p.agent.die == die && p.agent.core == core &&
    p.launch.asid == t.asid && t.hitsRange (s.coreOf (coreKey die core)).utlb p.va.toNat p.size

/-- Some access of a core that used a hit entry is not yet performed (R34). -/
def State.coreBusy (s : State) (die core : Nat) (t : Tlbi) : Bool :=
  (s.reqs.any fun r => r.ipkg == s.pkg.number && r.agent.die == die && r.agent.core == core && r.slot.isNone &&
    t.hitsReq (s.coreOf (coreKey die core)).utlb r) || s.postedBusy die core t ||
  (List.range 3).any fun x =>
    let c := s.ctxOf (ctxKey die core x)
    c.launch.asid == t.asid && (c.wait.memPending || c.waitRep.memPending)

/-- The portions that a command moves, each with the bytes of it that are left. -/
def Cmd.parts (c : Cmd) : List EngPart :=
  if c.fin.isSome then []
  else (c.srcPart.toList.filter fun x => decide (c.asked < x.pos + x.n)) ++ c.dstPart.toList.filter fun x => decide (c.pos < x.pos + x.n)

/-- The commands of a string for an ASID. -/
def State.cmdsFor (s : State) (die str : Nat) (asid : BitVec 11) : List Cmd :=
  (s.strAt die str).queue.values.filter fun c => c.launch.asid == asid

/-- The same of a copy engine: its accesses held at the port, queued, or on circuits, a portion under way (R425), and the peer reads whose
response it has not had. -/
def State.engBusy (s : State) (die str : Nat) (t : Tlbi) : Bool :=
  let held := (s.strAt die str).etlb
  (s.reqs.any fun r => r.ipkg == s.pkg.number && r.idie == die && (r.slot.map (·.1)) == some str && t.hitsReq held r) ||
    (s.cmdsFor die str t.asid).any fun c =>
      (c.parts.any fun x => t.hitsRange held x.va.toNat x.n) ||
        c.reads.any fun r => r.wait == .sent && !r.aim.tos.isEmpty && t.hitsRange held r.va.toNat r.n

/-- The same of a port group: the accesses and reductions that it has translated, and the peer accesses that it forwards. -/
def State.pgBusy (s : State) (die pg : Nat) (t : Tlbi) : Bool :=
  (s.reqs.any fun r => r.ipkg == s.pkg.number && r.idie == die &&
      ((r.peer && pgOf r.va == pg) || r.pieces.any fun p => !p.vault && p.unit == pg) && t.hitsReq (s.pgAt die pg).tlb r) ||
    (s.allPosted.any fun p => (if p.peer then p.ipkg == s.pkg.number && p.idie == die else p.agent.die == die) && p.vault.isNone &&
      pgOf p.va == pg && p.launch.asid == t.asid && t.hitsRange (s.pgAt die pg).tlb p.va.toNat p.size) ||
    (s.strs.filter fun x => x.1 / 256 == die).any fun y =>
      (s.cmdsFor die (y.1 % 256) t.asid).any fun c => c.parts.any fun x =>
        (x.pieces.any fun p => !p.vault && p.unit == pg) && t.hitsRange (s.pgAt die pg).tlb x.va.toNat x.n

/-- Holders are numbered: cores from 0, copy engines from 2,048, port groups from 2,304, instruction caches from 2,320. -/
def State.holderBusy (s : State) (die h : Nat) (t : Tlbi) : Bool :=
  if h < 2048 then s.coreBusy die h t
  else if h < 2304 then s.engBusy die (h - 2048) t
  else if h < 2320 then s.pgBusy die (h - 2304) t
  else false

/-- The holders of a die that hold a hit entry or have an access under way that used one. -/
def State.holdersOf (s : State) (die : Nat) (t : Tlbi) : List Nat :=
  (((s.cores.filter fun p => p.1 / 2048 == die).filter fun p => p.2.utlb.any t.hits || s.coreBusy die (p.1 % 2048) t).map
      fun p => p.1 % 2048) ++
    (((s.strs.filter fun p => p.1 / 256 == die).filter fun p => p.2.etlb.any t.hits || s.engBusy die (p.1 % 256) t).map
      fun p => 2048 + p.1 % 256) ++
    (((s.pgs.filter fun p => p.1 / 16 == die).filter fun p => p.2.tlb.any t.hits || p.2.walks.any t.hitsWalk || s.pgBusy die (p.1 % 16) t).map
      fun p => 2304 + p.1 % 16) ++
    (((s.strs.filter fun p => p.1 / 256 == die).filter fun p => p.2.icache.any t.hitsLine).map fun p => 2320 + p.1 % 256)

/-- Every holder of the die marks its hit entries unusable. -/
def State.markAll (s : State) (die : Nat) (t : Tlbi) : State :=
  { s with
    cores := s.cores.mapValues fun k c => if k / 2048 = die then { c with utlb := t.mark c.utlb } else c
    strs := s.strs.mapValues fun k x =>
      if k / 256 = die then { x with etlb := t.mark x.etlb, icache := t.markLines x.icache } else x
    pgs := s.pgs.mapValues fun k p => if k / 16 = die then { p with tlb := t.mark p.tlb, walks := t.markWalks p.walks } else p }

/-- A holder's marked entries removed. -/
def State.dropHeld (s : State) (die h : Nat) (t : Tlbi) : State :=
  if h < 2048 then s.modCore (coreKey die h) fun c => { c with utlb := t.drop c.utlb }
  else if h < 2304 then s.modStr die (h - 2048) fun x => { x with etlb := t.drop x.etlb }
  else if h < 2320 then s.modPg die (h - 2304) fun p => { p with tlb := t.drop p.tlb, walks := t.dropWalks p.walks }
  else s.modStr die (h - 2320) fun x => { x with icache := t.dropLines x.icache }

/-- The die's first invalidation ends when no holder is left to acknowledge: its TLBI.R retires. -/
def State.tlbiDone (s : State) (die : Nat) : State :=
  match (s.dieAt die).tlbis with
  | [] => s
  | t :: rest =>
    if t.active && t.holders.isEmpty then
      let s := s.modDie die fun d => { d with tlbis := rest }
      if t.hw then s else s.answerWait t.agent 0
    else s

/-- TLBI_BROADCAST (R33): one request at a time, in order of arrival. -/
def execTlbiBroadcast (die : BitVec 2) (s : State) : Host.Outcome State Fault Refusal :=
  let d := die.toNat
  .next (match (s.dieAt d).tlbis with
    | [] => s
    | t :: rest =>
      if t.active then s
      else
        let t' : Tlbi := { t with active := true, holders := s.holdersOf d t }
        ((s.markAll d t).modDie d fun x => { x with tlbis := t' :: rest }).tlbiDone d)

/-- HOLDER_ACK (R33). -/
def execHolderAck (die : BitVec 2) (holder : BitVec 12) (s : State) : Host.Outcome State Fault Refusal :=
  let d := die.toNat
  let h := holder.toNat
  .next (match (s.dieAt d).tlbis with
    | [] => s
    | t :: rest =>
      if !t.active || !t.holders.contains h || s.holderBusy d h t then s
      else
        ((s.dropHeld d h t).modDie d fun x => { x with tlbis := { t with holders := t.holders.filter (· != h) } :: rest }).tlbiDone
          d)

/-! ## Reduction regions (R89) -/

/-- Two byte ranges, as first byte and length, share a byte. -/
def rangesMeet (x y : Nat × Nat) : Bool := decide (x.1 < y.1 + y.2) && decide (y.1 < x.1 + x.2)

/-- The result range and the slot range of a region. -/
def regionRanges (r : List Word) : (Nat × Nat) × (Nat × Nat) :=
  ((regionBase r, regionLines r * 64), (regionSlots r, regionC r * regionSpan r))

/-- An INSTALL is refused (R89). -/
def Die.installRefused (d : Die) (c : TableCmd) : Bool :=
  let w (i : Nat) : Word := c.words.getD i 0
  let (a, b) := regionRanges c.words
  regionV (d.regions.getD c.sel [0, 0, 0]) || (!c.pf && !d.ownsAsid c.pad.toNat (regionAsid c.words)) ||
    bits (w 0) 60 60 != 0 || bits (w 0) 5 0 != 0 || bit (w 0) 47 || bits (w 1) 63 47 != 0 || bits (w 1) 5 0 != 0 ||
    bits (w 2) 63 32 != 0 || w 3 != 0 || decide (1 < bits (w 0) 62 61) ||
    regionLines c.words == 0 || decide (2 ^ 20 < regionLines c.words) || rangesMeet a b ||
    d.regions.values.any fun r =>
      regionV r && regionAsid r == regionAsid c.words &&
        (let (x, y) := regionRanges r
         rangesMeet a x || rangesMeet a y || rangesMeet b x || rangesMeet b y)

/-- INSTALL (R89). -/
def execInstall (die : BitVec 2) (s : State) : Host.Outcome State Fault Refusal :=
  let d := die.toNat
  .next (s.serveCmd d 2 1 fun c s =>
    if (s.dieAt d).installRefused c then s.answerCmd d c [(Csr.rrcmd, errWord true)]
    else
      (s.modDie d fun x =>
        { x with regions := x.regions.set c.sel [setBits (c.words.getD 0 0) 63 63 1, c.words.getD 1 0, c.words.getD 2 0] }).answerCmd
          d c [(Csr.rrcmd, errWord false)])

/-- Result lines of a region folded in ascending address, from line i on; false where a line failed. -/
def State.foldLines (s : State) (die : Nat) (r : List Word) (ten pad : Nat) : Nat → Nat → State × Bool
  | 0, _ => (s, true)
  | n + 1, i =>
    match s.foldLine die r (64 * i) ten pad with
    | (.ok s, _) => State.foldLines s die r ten pad n (i + 1)
    | (.error _, s) => (s, false)

/-- REMOVE (R89): every line folded, then V cleared; a failure stops it and leaves the region live. -/
def execRemove (die : BitVec 2) (s : State) : Host.Outcome State Fault Refusal :=
  let d := die.toNat
  .next (s.serveCmd d 2 2 fun c s =>
    let r := (s.dieAt d).regions.getD c.sel [0, 0, 0]
    if !c.pf && (!regionV r || !(s.dieAt d).ownsAsid c.pad.toNat (regionAsid r)) then
      s.answerCmd d c [(Csr.rrcmd, errWord true)]
    else if !regionV r then s.answerCmd d c [(Csr.rrcmd, errWord false)]
    else
      let pad := ((s.dieAt d).ownerOf (regionAsid r)).getD 0
      let ten := ((s.pad? d pad).map (·.ten)).getD 0
      match s.foldLines d r ten pad (regionLines r) 0 with
      | (s, false) => s.answerCmd d c [(Csr.rrcmd, errWord true)]
      | (s, true) =>
        (s.modDie d fun x => { x with regions := x.regions.set c.sel (r.set 0 (setBits (r.getD 0 0) 63 63 0)) }).answerCmd d c
          [(Csr.rrcmd, errWord false)])

/-- READ of a region (R89). -/
def execRegionRead (die : BitVec 2) (s : State) : Host.Outcome State Fault Refusal :=
  let d := die.toNat
  .next (s.serveCmd d 2 3 fun c s =>
    let r := (s.dieAt d).regions.getD c.sel [0, 0, 0]
    if !c.pf && regionV r && !(s.dieAt d).ownsAsid c.pad.toNat (regionAsid r) then
      s.answerCmd d c [(Csr.rrcmd, errWord true)]
    else
      s.answerCmd d c
        [(Csr.rrdat, r.getD 0 0), (Csr.rrdat + 1, r.getD 1 0), (Csr.rrdat + 2, r.getD 2 0), (Csr.rrdat + 3, 0),
          (Csr.rrcmd, errWord false)])

/-! ## The race sweep (R147) -/

/-- The records of a memory whose phase is current. -/
def Races.sweep (r : Races) : Races :=
  { r with recs := r.recs.filter fun p =>
      let n := r.newest.getD p.2.lid.toNat 0
      p.2.phase == n || p.2.phase == n - 1 }

/-- RACE_SWEEP (R147) of a vault or of a port group. -/
def execRaceSweep (die : BitVec 2) (vault : Bool) (unit : BitVec 6) (s : State) : Host.Outcome State Fault Refusal :=
  let d := die.toNat
  .next (if vault then
      (let v := s.vaultAt d unit.toNat
       s.setVault d unit.toNat { v with races := v.races.sweep })
    else if 16 ≤ unit.toNat then s
    else s.modPg d unit.toNat fun p => { p with races := p.races.sweep })

end Sys2Proof.Machine
end

