-- ==== Sys2Proof/Machine/Port.lean ====
section
/-!
DEFINITION. Sys2Proof/Machine/Port.lean: port groups and vaults at work: refills, stop and go notices (R70 to R73), queued HBM
accesses (R86, R87), peer accesses (R30, R75, R452), posted reductions (R85, R88, R90, R92), and responses (R34).
-/

namespace Sys2Proof.Machine

/-! ## Tokens (R70 to R73) -/

/-- TOKEN_REFILL (R73), due once a period of 1,024 wt, the first at wheel time 0. -/
def execTokenRefill (die : BitVec 2) (pg : BitVec 4) (s : State) : Host.Outcome State Fault Refusal :=
  let d := die.toNat
  let p := s.wt.toNat / 1024
  .next (if p < (s.pgAt d pg.toNat).tokens.period then s
    else
      let t := (s.tokensAt d pg.toNat).refill (s.dieAt d).tenants ((s.dieAt d).share (·.hsh)) 5120 (p + 1)
      s.modPg d pg.toNat fun x => { x with tokens := t })

/-- The port of a string holds a tenant's requests for a port group of a die: those of its own die and, through that tenant's
handles, peer accesses (R71, R75). -/
def peerStopKey (die pg ten : Nat) : Nat := (die * 256 + ten) * 16 + pg

/-- The die of the string whose network port is named: bits 9:8 of the port's number. -/
def portDie (port : BitVec 10) : Nat := (port.extractLsb' 8 2).toNat

/-- The string whose network port is named: bits 7:0 of the port's number. -/
def portStr (port : BitVec 10) : Nat := (port.extractLsb' 0 8).toNat

/-- STOP_NOTICE (R71, R75): a tenant without tokens at a port group, of which none can be borrowed; the port that receives the
notice holds its further requests. -/
def execStopNotice (die : BitVec 2) (pg : BitVec 4) (port : BitVec 10) (ten : BitVec 8) (s : State) :
    Host.Outcome State Fault Refusal :=
  let d := die.toNat
  .next (if (s.pgAt d pg.toNat).stopped.contains ten.toNat || !(s.tokensAt d pg.toNat).canTake (s.dieAt d).tenants ten.toNat then
      (s.modPg d pg.toNat fun p => { p with stopped := insertNat p.stopped ten.toNat }).modStr (portDie port) (portStr port) fun x =>
        { x with
          stops := if portDie port = d then insertNat x.stops (ten.toNat * 16 + pg.toNat) else x.stops
          peerStops := insertNat x.peerStops (peerStopKey d pg.toNat ten.toNat) }
    else s)

/-- The stop of a tenant at a port group is in force at a string's port. -/
def Str.stoppedFor (x : Str) (die pg ten : Nat) : Bool := x.peerStops.contains (peerStopKey die pg ten)

/-- DEMAND_BEACON (R71): once a revolution the port group learns that a port holds requests of the tenant. -/
def execDemandBeacon (die : BitVec 2) (pg : BitVec 4) (port : BitVec 10) (ten : BitVec 8) (s : State) :
    Host.Outcome State Fault Refusal :=
  let d := die.toNat
  let k := peerStopKey d pg.toNat ten.toNat
  let x := s.strAt (portDie port) (portStr port)
  .next (if x.stoppedFor d pg.toNat ten.toNat && x.held.any (s.reqFor d pg.toNat ten.toNat) && x.beacons.find? k != some (s.rev + 1) then
      (s.setStr (portDie port) (portStr port) { x with beacons := x.beacons.set k (s.rev + 1) }).noteDemand d pg.toNat
    else s)

/-- The accesses of 64 B that a request counts as at its port group (R70, R426). -/
def Req.lines (r : Req) : Nat := max 1 (r.pieces.filter fun p => !p.vault && p.unit == r.pg).length

/-- How many accesses of a tenant a port group could serve now beyond those already queued there: its own tokens, the pool's and
the lenders' (R71, R72). -/
def State.tokensFree (s : State) (die pg ten : Nat) : Nat :=
  let t := s.tokensAt die pg
  let tens := (s.dieAt die).tenants
  let lent : Int := ((tens.filter fun l => l != ten && !(t.bucket l).demand).map fun l => max 0 (t.bucket l).b).foldl (· + ·) 0
  (max 0 (t.bucket ten).b + max 0 t.pool + lent).toNat -
    (((s.pgAt die pg).queue.filter fun r => r.ten.toNat == ten).map (·.lines)).sum

/-- The held request that a port sends next (R77): the oldest of the core that comes first after the position served last. -/
def nextHeld (last : Nat) (mine : Req → Bool) (l : List Req) : Option Nat :=
  ((List.range 8).map fun j => (last + 1 + j) % 8).findSome? fun pos => l.findIdx? fun r => mine r && posOf r.agent.core == pos

/-- A request leaves its string's port: on its circuit, on the peer path, or to its port group. -/
def State.release (s : State) (sdie : Nat) (r : Req) : State :=
  if r.up ≠ 0 then s.sendOn sdie r.up r (.access r)
  else if r.peer then s.modPg sdie r.pg fun p => { p with peerQ := p.peerQ ++ [.access r] }
  else s.modPg sdie r.pg fun p => { p with queue := p.queue ++ [r] }

/-- A held request may leave its port: a request word of the copy engine only as R426 lets it (R426). -/
def State.mayLeave (s : State) (sdie str : Nat) (r : Req) : Bool :=
  if r.engRead then (s.strAt sdie str).askable s.rev r.pg else true

/-- Requests of a tenant released from a string's port, for at most so many accesses, in round-robin order of core position. -/
def State.releaseHeld (s : State) (sdie str : Nat) (mine : Req → Bool) (left : Nat) : Nat → State
  | 0 => s
  | n + 1 =>
    let x := s.strAt sdie str
    match (if left = 0 then none else nextHeld x.lastPos (fun r => mine r && s.mayLeave sdie str r) x.held) with
    | none => s
    | some i =>
      let r := x.held.getD i {}
      let s := s.setStr sdie str { x with held := dropAt x.held i, lastPos := posOf r.agent.core }
      let s := if r.engRead then s.noteAsk sdie str r.pg else s
      State.releaseHeld (s.release sdie r) sdie str mine (left - r.lines) n

/-- GO_NOTICE (R71): held requests of the tenant go on, as many as tokens are to be had for; when none is left the port stops
holding. -/
def execGoNotice (die : BitVec 2) (pg : BitVec 4) (port : BitVec 10) (ten : BitVec 8) (s : State) :
    Host.Outcome State Fault Refusal :=
  let d := die.toNat
  let sdie := portDie port
  let k := portStr port
  let mine := s.reqFor d pg.toNat ten.toNat
  .next (if (s.strAt sdie k).stoppedFor d pg.toNat ten.toNat && (s.tokensAt d pg.toNat).canTake (s.dieAt d).tenants ten.toNat then
      let s := s.releaseHeld sdie k mine (s.tokensFree d pg.toNat ten.toNat) (s.strAt sdie k).held.length
      if (s.strAt sdie k).held.any mine then s
      else
        (s.modPg d pg.toNat fun p => { p with stopped := removeNat p.stopped ten.toNat }).modStr sdie k fun x =>
          { x with
            stops := if portDie port = d then removeNat x.stops (ten.toNat * 16 + pg.toNat) else x.stops
            peerStops := removeNat x.peerStops (peerStopKey d pg.toNat ten.toNat)
            beacons := x.beacons.erase (peerStopKey d pg.toNat ten.toNat) }
    else s)

def Req.who (r : Req) : Who :=
  { agent := { r.agent with rep := false }, launch := r.launch, cls := if r.slot.isSome then 1 else 0, plain := r.plain
    stamp := r.stamp, opField := r.opField, stores := r.stores, ident := r.ident }

/-! ## Queued HBM accesses (R71, R72, R86, R87) -/

/-- The port groups that an access reaches, all of which may serve it now. -/
def State.mayServeAll (s : State) (die ten : Nat) (ps : List Piece) : Bool :=
  ps.all fun p => p.vault || s.mayServe die p.unit ten

/-- HBM_ACCESS (R86, R87): the oldest queued access of a tenant is performed when the tenant's turn has come. -/
def execHbmAccess (die : BitVec 2) (pg : BitVec 4) (ten : BitVec 8) (s : State) : Host.Outcome State Fault Refusal :=
  let d := die.toNat
  .next (match (s.pgAt d pg.toNat).queue.findIdx? (·.ten == ten) with
    | none => s
    | some i =>
      match (s.pgAt d pg.toNat).queue[i]? with
      | none => s
      | some r =>
        if !s.mayServeAll d ten.toNat r.pieces then s
        else
          match (s.modPg d pg.toNat fun p => { p with queue := dropAt p.queue i }).performPieces d r.who r.va r.op r.pieces with
          | (x, s) => s.answerReq r x)

/-! ## Peer accesses (R30, R75, R452) -/

/-- The launch under which an exporter performs an access: its own ASID, paddock and tenant (R75). -/
def Die.exporterLaunch (d : Die) (hnd : BitVec 12) (l : LaunchInfo) : LaunchInfo :=
  let asid := handleAsid (d.handle hnd.toNat)
  let pad := (d.ownerOf asid).getD 0
  { l with asid := BitVec.ofNat 11 asid, pad := BitVec.ofNat 4 pad
           ten := BitVec.ofNat 8 (((d.pads.find? pad).map (·.ten)).getD 0) }

/-- The agent of a peer access as its exporter's package knows it: that of another package names no context of this one. -/
def State.localAgent (s : State) (a : Agent) (ipkg : BitVec 12) : Agent :=
  if ipkg = s.pkg.number then { a with rep := false } else a.far ipkg.toNat

/-- The answer of a refused access (R30). -/
def refusedReply (r : Req) : Reply :=
  .xlat r.va (fltInfo { code := 0x0D, kind := 2 } r.who.cls r.op.acc r.launch.asid.toNat r.va)

/-- Where a peer word goes: what its peer entries name, the port group, its importer's package and die, and its importer tenant. -/
def PeerWord.tos : PeerWord → List PeerTo
  | .access r => r.tos
  | .reduction p => [p.exporter]
def PeerWord.pg : PeerWord → Nat
  | .access r => r.pg
  | .reduction p => pgOf p.va
def PeerWord.ipkg : PeerWord → BitVec 12
  | .access r => r.ipkg
  | .reduction p => p.ipkg
def PeerWord.ten : PeerWord → Nat
  | .access r => r.ten.toNat
  | .reduction p => p.launch.ten.toNat

/-- A peer word leaves this package: an exporter of it lies on another one. -/
def State.goesFar (s : State) (w : PeerWord) : Bool := w.tos.any fun x => x.pkg != s.pkg.number

/-- A peer word reaches its exporter's port group, or leaves the package (R30, R452): one of this package is then to be answered, one
that comes from another package only passes. -/
def State.peerReaches (s : State) (w : PeerWord) : State :=
  let die := (w.tos.headD {}).die
  if s.goesFar w then
    (if w.ipkg ≠ s.pkg.number then s
    else
      match w with
      | .access r => s.modDie r.idie fun x => { x with peerOut := x.peerOut ++ [r] }
      | .reduction p => s.modDie p.idie fun x => { x with peerPosted := x.peerPosted ++ [p] })
  else
    match w with
    | .access r => (s.modPg die r.pg fun x => { x with peerIn := x.peerIn ++ [r] }).noteDemand die r.pg
    | .reduction p => (s.modPg die w.pg fun x => { x with posted := x.posted ++ [p] }).noteDemand die w.pg

/-- The word of a forwarding point's queue that its next held slot carries (R452): the oldest of the tenant that comes next in
round-robin order. -/
def nextPeer (last : Nat) (l : List PeerWord) : Option Nat :=
  let tens := l.foldl (fun l (w : PeerWord) => insertNat l w.ten) []
  (match tens.find? fun t => decide (last < t) with
    | some t => some t
    | none => tens.head?).bind fun t => l.findIdx? fun (w : PeerWord) => w.ten == t

/-- A peer circuit of the package joins two endpoints. -/
def State.peerCircuit (s : State) (src dst : BitVec 32) : Bool := s.pkg.peers.any fun c => c.src == src && c.dst == dst && !c.suspended

/-- A peer circuit leads from the link die towards another package. -/
def State.farCircuit (s : State) (number : BitVec 12) : Bool :=
  s.pkg.peers.any fun c => c.src == peerLd && epKind c.dst == 14 && !c.suspended &&
    torusDir s.pkg.coords (Config.coordsOf (bits c.dst 11 0)) == torusDir s.pkg.coords (Config.coordsOf number.toNat)

/-- A port group forwards one peer word. -/
def State.forwardAtPg (s : State) (d pg : Nat) : State :=
  let p := s.pgAt d pg
  match (nextPeer p.lastTen p.peerQ).bind fun i => (p.peerQ[i]?).map fun r => (i, r) with
  | none => s
  | some (i, w) =>
    let die := (w.tos.headD {}).die
    let t := s.setPg d pg { p with peerQ := dropAt p.peerQ i, lastTen := w.ten }
    if s.goesFar w then
      if s.peerCircuit (peerPg d pg) peerLd then { t with pkg := { t.pkg with ldQ := t.pkg.ldQ ++ [w] } } else s
    else if die = d || s.peerCircuit (peerPg d pg) (peerPg die pg) then t.peerReaches w
    else s

/-- The link die forwards one peer word: towards another package, or, of one that has arrived, to the port group of its exporter. -/
def State.forwardAtLd (s : State) : State :=
  match (nextPeer s.pkg.ldLast s.pkg.ldQ).bind fun i => (s.pkg.ldQ[i]?).map fun r => (i, r) with
  | none => s
  | some (i, w) =>
    if (if s.goesFar w then s.farCircuit ((w.tos.find? fun x => x.pkg != s.pkg.number).getD {}).pkg
        else s.peerCircuit peerLd (peerPg (w.tos.headD {}).die w.pg)) then
      ({ s with pkg := { s.pkg with ldQ := dropAt s.pkg.ldQ i, ldLast := w.ten } } : State).peerReaches w
    else s

/-- PEER_FORWARD (R452): a forwarding point sends one word, in round-robin order of tenant index, on the peer circuit that leads
on. Points 0 to 15 are the die's port groups, 16 the link die. -/
def execPeerForward (die : BitVec 2) (point : BitVec 5) (s : State) : Host.Outcome State Fault Refusal :=
  .next (if point.toNat < 16 then s.forwardAtPg die.toNat point.toNat else if point = 16 then s.forwardAtLd else s)

/-- A reply of the exporter as the importer sees it: a translation fault is not disclosed, and an error stands at the
importer's address (R30). -/
def State.peerReply (s : State) (die : Nat) (r : Req) (at_ base : Nat) (x : Reply) : Reply × State :=
  match x with
  | .xlat _ _ => (refusedReply r, s.modDie die fun d => { d with xFaults := d.xFaults + 1 })
  | .mem va info => (.mem (word at_ + (va - word base)) (setBits info 10 0 r.launch.asid.toNat), s)
  | x => (x, s)

/-- A range of a peer access at its exporter: die, exporter's address and importer's, length, launch, pieces. -/
structure PeerPart where
  die : Nat := 0
  base : Nat := 0
  at_ : Nat := 0
  n : Nat := 0
  launch : LaunchInfo := {}
  pieces : List Piece := []
deriving DecidableEq, Repr, Inhabited

/-- Every range of a peer access is checked and translated at its exporter before any is performed (R30, R133): the parts, or the
refusal. -/
def State.peerParts (s : State) (r : Req) : List ((Nat × Nat) × PeerTo) → Option (List PeerPart) × State
  | [] => (some [], s)
  | ((va, n), x) :: rest =>
    let d := s.dieAt x.die
    let off := va % 2 ^ 39
    if d.refuses x r.ipkg r.idie r.launch.asid r.op.acc (off + n) then (none, s)
    else
      let l := d.exporterLaunch x.hnd r.launch
      let base := handleBase (d.handle x.hnd.toNat) + off
      let fail (s : State) : Option (List PeerPart) × State := (none, s.modDie x.die fun d => { d with xFaults := d.xFaults + 1 })
      if (addrFault (word base) n).isSome then fail s
      else
        match s.pieces x.die .ports l.asid.toNat r.op.acc (lineParts 1026 base n) with
        | (.error _, s) => fail s
        | (.ok ps, s) =>
          match State.peerParts s r rest with
          | (none, s) => (none, s)
          | (some l', s) => (some ({ die := x.die, base := base, at_ := va, n := n, launch := l, pieces := ps } :: l'), s)

/-- The part of an operation that falls to a range: its bytes of a read or write, after so many earlier ones. -/
def MemOp.part (op : MemOp) (from_ n : Nat) : MemOp :=
  match op with
  | .read _ => .read n
  | .write l => .write ((l.drop from_).take n)
  | op => op

/-- The parts of a peer access performed in turn; where one fails, the access has no effect. -/
def State.performParts (s : State) (r : Req) (from_ : Nat) (got : List Byte) : List PeerPart → Reply × State
  | [] => (.data got, s)
  | p :: rest =>
    let w : Who :=
      { r.who with
        agent := s.localAgent r.agent r.ipkg, launch := p.launch, plain := false
        issuer := some (r.launch, word p.at_ - word p.base) }
    match s.performPieces p.die w (word p.base) (r.op.part from_ p.n) p.pieces with
    | (.data l, t) =>
      match State.performParts t r (from_ + p.n) (got ++ l) rest with
      | (.data l, t) => (.data l, t)
      | (x, _) => (x, s.eccCount p.die)
    | (x, t) => t.peerReply p.die r p.at_ p.base x

/-- A peer access performed at its exporter and answered: to its agent or, through the outside world, to its package. -/
def State.performPeer (s : State) (r : Req) : State :=
  let back (x : Reply) (s : State) : State := if r.ipkg = s.pkg.number then s.answerReq r x else s
  match s.peerParts r (r.runs.zip r.tos) with
  | (none, s) => back (refusedReply r) s
  | (some ps, s) =>
    match s.performParts r 0 [] ps with
    | (x, s) => back x s

/-- PEER_ACCESS (R30, R75): the oldest peer access that is refused, or whose exporter tenant has its turn, is answered. -/
def execPeerAccess (die : BitVec 2) (pg : BitVec 4) (s : State) : Host.Outcome State Fault Refusal :=
  let d := die.toNat
  let bad (r : Req) : Bool := (r.runs.zip r.tos).any fun y =>
    (s.dieAt y.2.die).refuses y.2 r.ipkg r.idie r.launch.asid r.op.acc (y.1.1 % 2 ^ 39 + y.1.2)
  .next (match (s.pgAt d pg.toNat).peerIn.findIdx? fun r => bad r || s.mayServe d pg.toNat ((s.dieAt d).exporterTen r) with
    | none => s
    | some i =>
      match (s.pgAt d pg.toNat).peerIn[i]? with
      | none => s
      | some r => (s.modPg d pg.toNat fun p => { p with peerIn := dropAt p.peerIn i }).performPeer r)

/-- A performed access's value is with its core. -/
def Wait.arrive : Wait → Wait
  | .performed r => .answered r
  | w => w

/-- ACCESS_RESPONSE (R34): the response reaches the core, and the instruction completes when it executes again. -/
def execAccessResponse (die : BitVec 2) (core : BitVec 11) (ctx : BitVec 2) (s : State) : Host.Outcome State Fault Refusal :=
  .next (s.modCtx (ctxKey die.toNat core.toNat ctx.toNat) fun c => { c with wait := c.wait.arrive, waitRep := c.waitRep.arrive })

/-! ## Words that arrive on requested circuits (R49, R343) -/

/-- What a word carries takes effect at the end of its circuit. -/
def State.arriveLoad (s : State) (die : Nat) (l : Load) : State :=
  match l with
  | .payload p => s.modDie die fun d => { d with payloads := d.payloads ++ [p] }
  | .part => s
  | .reply r x => s.handReply r x
  | .access r =>
    if r.peer then s.peerReaches (.access r)
    else
      match r.pieces.find? fun p => !p.vault with
      | some p => (s.modPg die p.unit fun x => { x with queue := x.queue ++ [{ r with pg := p.unit }] }).noteDemand die p.unit
      | none =>
        match s.performPieces die r.who r.va r.op r.pieces with
        | (x, s) => s.handReply r x

/-- A word is lost with its circuit: its command ends with the code given, FAILED or STALE, or its agent's access has failed (R66, R68,
R343). -/
def State.loseLoad (s : State) (die : Nat) (l : Load) (code : Nat) : State :=
  match l with
  | .payload p => s.modCmd die p.str p.slot fun c =>
      { c with
        out := c.out - 1
        fin := match c.fin with
          | some (0, _, _) => some (BitVec.ofNat 8 code, 0, 0)
          | none => some (BitVec.ofNat 8 code, 0, 0)
          | f => f
        done := if c.fin.isSome then min c.done p.lin else p.lin }
  | .part => s
  | .reply r _ => s.handReply r (.word (word code))
  | .access r => s.handReply r (.word (word code))

/-! ## Posted reductions (R85, R88, R90, R92) -/

/-- An FP32 sum, or a BF16 sum, of a reduction (R90, R92). -/
def floatSum (bf : Bool) (x y : Nat) : Nat := ((if bf then Fmt.bf16 else Fmt.f32).add .rne 0 x y).1

/-- The code of a fold's stop. -/
def FoldStop.code : FoldStop → Nat
  | .xlat _ f => f.code
  | .ecc _ _ => 0x21

/-- RED: the operation in the write queue or write buffer (R85, R88). -/
def State.redWord (s : State) (die : Nat) (w : Who) (p : Posted) (ps : List Piece) : Nat × State :=
  if (s.badPiece? die ps).isSome then (0x21, s.eccCount die)
  else
    let s := (s.servePieces die w ps).correctPieces die ps
    let old := bytesNat (s.readPieces die ps)
    (0, s.storePieces die w ps (natBytes p.size (atomicNew p.op.toNat (8 * p.size) old p.opnd.toNat)))

/-- REDF: the operand added to its contributor's slot (R90). -/
def State.redSlot (s : State) (die : Nat) (w : Who) (p : Posted) (va : Nat) : Nat × State :=
  match (s.dieAt die).regionAt w.launch.asid.toNat va with
  | none => (0x20, s)
  | some r =>
    if regionBf r != (p.op == 1) then (0x20, s)
    else if decide (regionC r ≤ p.contrib.toNat) then (0x23, s)
    else
      let slot := regionSlots r + p.contrib.toNat * regionSpan r + (va - regionBase r) / regionEsize r * 4
      match s.foldPieces die w.launch.asid.toNat slot 4 with
      | (.error f, s) => (f.code, s)
      | (.ok ps, s) =>
        let s := s.servePieces die w ps
        let x := if p.op = 1 then (Fmt.f32.pack .rne 0 (Fmt.bf16.value (p.opnd.toNat % 65536))).1 else p.opnd.toNat
        (0, s.storePieces die w ps (natBytes 4 (floatSum false (bytesNat (s.readPieces die ps)) x)))

/-- REDF.U: the result line folded first, then the operand added to the element (R91, R92). -/
def State.redElement (s : State) (die : Nat) (w : Who) (p : Posted) (ps : List Piece) : Nat × State :=
  match s.foldFor die w.launch.asid.toNat w.launch.ten.toNat w.launch.pad.toNat ps with
  | (.error f, s) => (f.code, s)
  | (.ok s, _) =>
    if (s.badPiece? die ps).isSome then (0x21, s.eccCount die)
    else
      let s := (s.servePieces die w ps).correctPieces die ps
      (0, s.storePieces die w ps (natBytes p.size (floatSum (p.op == 1) (bytesNat (s.readPieces die ps)) p.opnd.toNat)))

/-- A reduction on its pieces. -/
def State.reduceOn (s : State) (die : Nat) (w : Who) (p : Posted) (va : Nat) (ps : List Piece) : Nat × State :=
  if p.form != 0 && ps.any (·.vault) then (0x22, s)
  else
    match p.form with
    | 0 => s.redWord die w p ps
    | 1 => s.redSlot die w p va
    | _ => s.redElement die w p ps

/-- A reduction performed at an address of the die: 0, or the code that is logged (R103). -/
def State.reduceAt (s : State) (die : Nat) (w : Who) (p : Posted) (va : Nat) : Nat × State :=
  if (addrFault (word va) p.size).isSome then (0x01, s)
  else
    match s.pieces die .ports w.launch.asid.toNat 3 (lineParts 2 va p.size) with
    | (.error f, s) => (f.code, s)
    | (.ok ps, s) => s.reduceOn die w p va ps

def Posted.who (p : Posted) (a : Agent) (l : LaunchInfo) : Who :=
  { agent := a, launch := l, cls := 4, plain := false, opField := p.opField, ident := p.ident }

/-- A reduction on its way to the exporter: among the peer words of its port group (R30, R452). -/
def State.sendReduction (s : State) (die : Nat) (p : Posted) (x : PeerTo) : State :=
  let q : Posted := { p with peer := true, exporter := x, off := bits p.va 38 0, ipkg := s.pkg.number, idie := die }
  s.modPg die (pgOf p.va) fun y => { y with peerQ := y.peerQ ++ [.reduction q] }

/-- A reduction to the peer window at its importer: sent on by what its posting translated, or checked anew (R30, R292). -/
def State.reducePeer (s : State) (die : Nat) (p : Posted) : Nat × State :=
  match p.aim.tos with
  | x :: _ => (0, s.sendReduction die p x)
  | [] =>
    match s.pgTranslate die (pgOf p.va) p.launch.asid.toNat p.va p.size 3 with
    | (.error f, s) => (f.code, s)
    | (.ok e, s) => (0, s.sendReduction die p e.exporter)

/-- A reduction of an importer at its exporter; the exporter's own translation fault is not disclosed (R30). -/
def State.reduceExported (s : State) (die : Nat) (p : Posted) : Nat × State :=
  let d := s.dieAt die
  if d.refuses p.exporter p.ipkg p.idie p.launch.asid 3 (p.off + p.size) then (0x0D, s)
  else
    match s.reduceAt die (p.who (s.localAgent p.agent p.ipkg) (d.exporterLaunch p.exporter.hnd p.launch)) p
        (handleBase (d.handle p.exporter.hnd.toNat) + p.off) with
    | (code, s) =>
      if 1 ≤ code ∧ code ≤ 0x0D then (0x0D, s.modDie die fun d => { d with xFaults := d.xFaults + 1 }) else (code, s)

/-- A posted reduction applied, or entered in its context's fault log (R90, R103): at the place that its posting translated, where
that did not fail (R26, R292; log 149). -/
def State.applyPosted (s : State) (die : Nat) (p : Posted) : State :=
  match (if p.peer then s.reduceExported die p
      else if (addrFault p.va p.size).isSome then (1, s)
      else if bit p.va 47 then s.reducePeer die p
      else
        match p.piece with
        | some x => s.reduceOn die (p.who p.agent p.launch) p p.va.toNat [x]
        | none => s.reduceAt die (p.who p.agent p.launch) p p.va.toNat) with
  | (code, s) =>
    if code = 0 ∨ (p.peer ∧ p.ipkg ≠ s.pkg.number) then s
    else s.logFault p.agent p.launch p.ident p.va p.opnd code p.opField.toNat 4

/-- A posted reduction may go on at a port group (R71, R75): its port does not hold it, and its tenant's turn has come. -/
def State.postedReady (s : State) (die pg : Nat) (p : Posted) : Bool :=
  let str := strOf p.agent.core
  if p.peer then s.mayServe die pg ((s.dieAt die).handleTen p.exporter.hnd)
  else if bit p.va 47 then !p.aim.tos.any (s.peerStopped die str pg)
  else !(s.strAt die str).stops.contains (p.launch.ten.toNat * 16 + pg) && s.mayServe die pg p.launch.ten.toNat

/-- REDUCTION_APPLY (R90): the oldest posted reduction of a port group that may go on. -/
def execReductionApply (die : BitVec 2) (pg : BitVec 4) (s : State) : Host.Outcome State Fault Refusal :=
  let l := (s.pgAt die.toNat pg.toNat).posted
  .next (match (l.findIdx? (s.postedReady die.toNat pg.toNat)).bind fun i => (l[i]?).map fun p => (i, p) with
    | none => s
    | some (i, p) => (s.modPg die.toNat pg.toNat fun x => { x with posted := dropAt x.posted i }).applyPosted die.toNat p)

/-- VAULT_ACCESS (R85): the oldest posted reduction of a vault. -/
def execVaultAccess (die : BitVec 2) (vault : BitVec 6) (s : State) : Host.Outcome State Fault Refusal :=
  .next (match (s.vaultAt die.toNat vault.toNat).posted with
    | [] => s
    | p :: rest =>
      (s.setVault die.toNat vault.toNat { s.vaultAt die.toNat vault.toNat with posted := rest }).applyPosted die.toNat p)

end Sys2Proof.Machine
end

