-- ==== Sys2Proof/Machine/Circuit.lean ====
section
/-!
DEFINITION. Sys2Proof/Machine/Circuit.lean: requested circuits: the CIRC instructions (R351, R352), the yardmaster's service,
search and refusal (R53 to R60, R431, R451), and the writing and clearing of slot tables (R52, R56, R57).
-/

namespace Sys2Proof.Machine

/-! ## Status words (R58, R59) -/

/-- The fields of a blocking hop: link and slot. -/
def hopFields (k slot : Nat) : Nat :=
  let u := keyUnit k
  let port := if keyPort k = 7 then 6 else keyPort k
  let col := if u = 8 ∧ keyRow k = 1 then Config.ldRouter (keyCol k)
    else if isPackage k then Config.ldRouter (32 + keyCol k)
    else keyCol k
  field slot 36 + field (if u < 8 then u % 4 else 0) 34 + field (if u < 4 then 0 else if u < 8 then 1 else 2) 32 +
    field (if u = 8 then 0 else keyRow k) 27 + field (col % 64) 21 + field port 18 + field (linkNo k) 12

/-- A status word. -/
def circStatus (code cid width hop : Nat) : Word := word (field code 56 + field cid 44 + hop + field width 4)

def circOk := 0
def circRefused := 1
def circQuota := 2
def circBadep := 3
def circBadwidth := 4
def circToolong := 5
def circNocid := 6
def circStale := 7
def circDegraded := 8
def circFailed := 9
def circPending := 10

/-! ## The CIRC instructions (R351) -/

/-- A request sent to the yardmaster of the die; the instruction retires with the word of its acceptance. -/
def State.circ (s : State) (g : BitVec 3) (srcs : List (BitVec 5)) (a : BitVec 5) (mk : List Word → CircReq) : State :=
  s.instr g srcs (some a) 4 fun vs s =>
    match s.waiting with
    | .answered (.word w) => ((s.setWait .idle).put a w).finish srcs 4
    | .idle =>
      let r := { mk vs with
        agent := { s.cur with rep := false }, pad := s.me.launch.pad, asid := s.me.launch.asid
        e0 := s.readE 0, e1 := s.readE 1, arrival := s.wt }
      (s.modYard s.cur.die fun y => { y with reqs := y.reqs ++ [r] }).setWait .sent
    | _ => s

def execCircOpen (g : BitVec 3) (b a : BitVec 5) (s : State) : Host.Outcome State Fault Refusal :=
  .next (s.circ g [b] a fun vs => { op := .openC, b := arg vs 0 })
def execCircWiden (g : BitVec 3) (b a : BitVec 5) (s : State) : Host.Outcome State Fault Refusal :=
  .next (s.circ g [b] a fun vs => { op := .widen, b := arg vs 0 })
def execCircClose (g : BitVec 3) (c b a : BitVec 5) (s : State) : Host.Outcome State Fault Refusal :=
  .next (s.circ g [b, c] a fun vs => { op := .close, b := arg vs 0, c := arg vs 1 })
def execCircQ (g : BitVec 3) (b a : BitVec 5) (s : State) : Host.Outcome State Fault Refusal :=
  .next (s.circ g [b] a fun vs => { op := .query, b := arg vs 0 })

/-- CIRC_ACCEPTANCE (R351): the status word reaches the instruction that waits for it. -/
def execCircAcceptance (die : BitVec 2) (i : Nat) (s : State) : Host.Outcome State Fault Refusal :=
  .next (match (s.yardAt die.toNat).accepts[i]? with
    | none => s
    | some (a, w) => (s.modYard die.toNat fun y => { y with accepts := dropAt y.accepts i }).answerWait a w)

/-! ## Circuits of a die -/

/-- Chains that a circuit holds and that no request removes. -/
def Circuit.width (c : Circuit) : Nat := (c.chains.filter fun h => !h.going).length

/-- Chains that a paddock's circuits hold on a die (R398). -/
def State.chainsHeld (s : State) (die : Nat) (pad : BitVec 4) : Nat :=
  (((s.yardAt die).circuits.values.filter (·.pad == pad)).map fun c => c.chains.length).foldl (· + ·) 0

/-- So many more chains would exceed the paddock's slot quota. -/
def State.overQuota (s : State) (die : Nat) (pad : BitVec 4) (n : Nat) : Bool :=
  decide (((s.pad? die pad.toNat).map (·.slotq)).getD 0 < s.chainsHeld die pad + n)

/-- The lowest circuit number that is free on a die (R49). -/
def State.freeCid (s : State) (y : Nat) : Option Nat :=
  ((List.range 4095).map (· + 1)).find? fun n =>
    ((s.yardAt y).circuits.find? n).isNone && !(s.yardAt y).locals.values.contains n

/-- The yardmaster that writes a link's table: of its die, 4 for the link die (R52), 5 for one of a neighbour package (R53). -/
def yardOf (k : Nat) : Nat :=
  if keyUnit k < 8 then keyUnit k % 4 else if 10 ≤ keyUnit k then keyUnit k - 10 else if keyRow k = 3 then 5 else 4

/-- The number of a circuit on the die of a link. -/
def State.numberAt (s : State) (die cid k : Nat) : Nat :=
  if yardOf k = die then cid else (s.yardAt (yardOf k)).locals.getD (die * 4096 + cid) 0

/-- Slot time charged up to now to the paddock's usage: chains × links × time (R402). -/
def State.chargeSlots (s : State) (die cid : Nat) : State :=
  match s.circuit? die cid with
  | none => s
  | some c =>
    (s.setCircuit die { c with since := s.wt }).modUsage die c.pad.toNat fun u =>
      { u with slotWt := u.slotWt + c.chains.length * c.path.length * (s.wt.toNat - c.since.toNat) }

/-- The status of a circuit's latest request, if that is the one given. -/
def State.setStatus (s : State) (die cid num : Nat) (w : Word) : State :=
  s.modCircuit die cid fun c => if c.latest = num then { c with status := w } else c

/-! ## Writing the slot tables (R52, R53, R56) -/

/-- The entry of a slot that no requested circuit holds: on a vertical link that of the vault circuit (R83, R451). -/
def idleEntry (k slot : Nat) : BitVec 32 :=
  if keyUnit k < 4 ∧ keyPort k = 5 then mkEntry 4 0 (slot - slot / 64 - 1) else 0

/-- What the link die asks of the next package for a part of a plan: the chains and their slots on the package link (R53). -/
def Circuit.farReq (c : Circuit) (die : Nat) (ws : List CfgWrite) : FarReq :=
  { die := die, cid := c.cid, num := (ws.headD {}).num, chains := ws.map (·.chain), link := (ws.headD {}).link
    slots := ws.map (·.slot), resp := c.resp.map (·.2), dst := c.dst, xpkg := c.xpkg }

/-- Writes go to the yardmaster that makes them: the own one, or in an exchange slot another's (R53). -/
def State.askWrites (s : State) (die y : Nat) (ws : List CfgWrite) : State :=
  if y = die then s.modYard die fun x => { x with cfg := x.cfg ++ ws }
  else s.modYard y fun x => { x with exch := x.exch ++ [ws] }

/-- The first part of a circuit's plan goes to its yardmaster: to the own one, or in an exchange slot to another's (R53). -/
def State.startPlan (s : State) (die cid : Nat) : State :=
  match s.circuit? die cid with
  | none => s
  | some c =>
    match c.plan with
    | [] => s
    | (y, ws) :: _ =>
      if y = 5 then s.modYard 4 fun x => { x with farOut := x.farOut ++ [c.farReq die ws] } else s.askWrites die y ws

/-- The last write of a list marked. -/
def markLast (kind : BitVec 3) : List CfgWrite → List CfgWrite
  | [] => []
  | [w] => [{ w with kind := kind }]
  | w :: l => w :: markLast kind l

/-- The last part of a plan ends the grant. -/
def markEnd : List (Nat × List CfgWrite) → List (Nat × List CfgWrite)
  | [] => []
  | [p] => [(p.1, markLast 3 p.2)]
  | p :: l => p :: markEnd l

/-- The parts of the writes along a path, die by die from the destination end towards the source, whose own die comes last (R56). -/
def planParts (path : List Nat) (ws : List CfgWrite) : List (Nat × List CfgWrite) :=
  let src := yardOf (path.headD 0)
  let ys := (path.reverse.map yardOf).foldl (fun l y => if l.contains y || y == src then l else l ++ [y]) [] ++ [src]
  (ys.map fun y => (y, markLast 1 (ws.filter fun w => yardOf w.link == y))).filter fun p => !p.2.isEmpty

/-- A request waiting at any yardmaster that has a freed link among its candidates is woken (R55), and a neighbour package that was
refused for want of it may ask again. -/
def State.wake (s : State) (freed : List Nat) : State :=
  { s with yards := s.yards.mapValues fun _ y =>
      let again := y.denied.filter fun x => x.2.any freed.contains
      { y with
        waiting := y.waiting.map fun r => if r.cand.any freed.contains then { r with woken := true } else r
        denied := y.denied.filter fun x => !x.2.any freed.contains
        farAns := y.farAns ++ again.map fun x => (x.1, circStatus circPending 0 0 0, []) } }

/-- A narrowing or a close begins once nothing of its circuit is being written or rerouted (R57, R68): the source entries of its
chains are cleared first. -/
def State.startEnds (s : State) (die cid : Nat) : State :=
  match s.circuit? die cid with
  | none => s
  | some c =>
    if c.suspended || !c.plan.isEmpty || c.ends.isEmpty then s
    else
      let k := c.path.headD 0
      let ws := c.ends.flatMap fun e => e.2.filterMap fun n => (c.chains.find? fun h => h.num == n).map fun h =>
        { link := k, slot := h.start, entry := idleEntry k h.start, die := die, cid := cid, kind := 2, chain := n, num := e.1 : CfgWrite }
      (s.setCircuit die { c with ends := [] }).modYard die fun y => { y with cfg := y.cfg ++ ws }

/-- The source entry of a chain stands in its table. -/
def State.chainSet (s : State) (die : Nat) (c : Circuit) (h : Chain) : Bool :=
  let k := c.path.headD 0
  let e := s.entry k h.start
  bit e 31 && bits e 23 12 == s.numberAt die c.cid k && bits e 11 4 == h.num

/-- The source entries of a grant have taken effect: the yardmaster reports OK, or tells the neighbour package, and the source may
inject on the new chains, those of a widening from the next revolution on (R56, R57). -/
def State.granted (s : State) (die cid num : Nat) : State :=
  match s.circuit? die cid with
  | none => s
  | some c =>
    let from_ := if c.st = .open ∧ !c.suspended then (s.rev + 1) * 256 else s.wt.toNat
    let c : Circuit := { c with
      chains := c.chains.map fun (h : Chain) => if !h.live && s.chainSet die c h then { h with live := true, since := from_ } else h
      st := if c.st = .pending then .open else c.st }
    let w := if c.status.toNat / 2 ^ 56 = circDegraded then c.status else circStatus circOk cid c.width 0
    let s := (s.setCircuit die { c with asked := c.asked.filter fun r => r.num != num }).setStatus die cid num w
    match c.seg with
    | none => s
    | some g => s.modYard 4 fun y => { y with farAns := y.farAns ++ [(g.id, w, [])] }

/-- The part of a plan under way is written: the next begins. -/
def State.partDone (s : State) (w : CfgWrite) : State :=
  match s.circuit? w.die w.cid with
  | none => s
  | some c =>
    let s := s.setCircuit w.die { c with plan := c.plan.tail }
    let s := if w.kind = 3 then s.granted w.die w.cid w.num else s
    (s.startPlan w.die w.cid).startEnds w.die w.cid

/-- The next package is told that a chain of a circuit is removed (R53, R57). -/
def State.farRemove (s : State) (die : Nat) (c : Circuit) (num : Nat) : State :=
  let o := (c.offs.dropLast).getLastD 0
  if isPackage (c.path.getLastD 0) then
    s.modYard 4 fun y => { y with farOut := y.farOut ++
      [{ die := die, cid := c.cid, remove := true, chains := [num], link := c.path.getLastD 0, dst := c.dst, xpkg := c.xpkg
         slots := (c.chains.filter (·.num == num)).map fun h => (h.start + o) % 256 }] }
  else s

/-- The links and slots that a chain takes along a path, from its first link on. -/
def State.chainLinks (s : State) (path : List Nat) (start : Nat) : List (Nat × Nat) :=
  (path.zip (s.offsetsFrom 0 path)).map fun p => (p.1, (start + p.2) % 256)

/-- The entries of a removed chain that are still to be cleared, after o_n + 256 wt (R57). -/
def State.addClear (s : State) (w : CfgWrite) (delay : Nat) (links : List (Nat × Nat)) : State :=
  s.modYard w.die fun y => { y with clears := y.clears ++
    [{ cid := w.cid, num := w.num, chain := w.chain, links := links, due := s.wt.toNat + delay + 256 }] }

/-- A removed chain's source entry is cleared: the others follow after o_n + 256 wt (R57). -/
def State.sourceCleared (s : State) (w : CfgWrite) : State :=
  let s := s.chargeSlots w.die w.cid
  match s.circuit? w.die w.cid with
  | none => s
  | some c =>
    if w.chain = 255 then
      match c.resp with
      | none => s
      | some (q, r) =>
        ((s.setCircuit w.die { c with resp := none }).addClear w ((s.offsetsFrom 0 q).getLastD 0) ((s.chainLinks q r).drop 1)).wake [w.link]
    else
      match c.chains.find? fun h => h.num == w.chain with
      | none => s
      | some h =>
        let s := s.setCircuit w.die { c with chains := c.chains.filter fun x => x.num != w.chain }
        ((s.addClear w c.delay ((s.chainLinks c.path h.start).drop 1)).wake [w.link]).farRemove w.die c h.num

/-- A link's table has changed: a link that holds no circuit slot any more is idle from now on (R69). -/
def State.noteIdle (s : State) (k : Nat) : State :=
  if ((s.slots.getD k []).any fun p => bit p.2 31) then s
  else { s with links := s.links.modify k {} fun l => { l with idle := s.wt } }

/-- The entries of a response chain. -/
def State.respLinks (s : State) (c : Circuit) : List (Nat × Nat) :=
  match c.resp with
  | some (q, r) => s.chainLinks q r
  | none => []

/-- The numbers of a circuit given back, with what waits for it. -/
def State.freeCircuit (s : State) (die cid : Nat) : State :=
  let s := s.modYard die fun y =>
    { y with circuits := y.circuits.erase cid, waiting := y.waiting.filter fun r => r.cid != cid }
  { s with yards := s.yards.mapValues fun _ y => { y with locals := y.locals.erase (die * 4096 + cid) } }

/-- The last entries of a narrowing or close are cleared: its status is OK; of a closed circuit the response chain follows, and then
its number is freed (R57, R431). -/
def State.endClear (s : State) (die : Nat) (x : Clear) : State :=
  match s.circuit? die x.cid with
  | none => s
  | some c =>
    if (s.yardAt die).clears.any (fun y => y.cid == x.cid) || c.chains.any (·.going) then s
    else if c.st = .closing then
      match c.resp with
      | some (q, r) =>
        let w : CfgWrite := { link := q.headD 0, slot := r, die := die, cid := x.cid, kind := 2, chain := 255, num := x.num }
        if yardOf w.link = 5 then s.sourceCleared w else s.askWrites die (yardOf w.link) [w]
      | none => s.freeCircuit die x.cid
    else s.setStatus die x.cid x.num (circStatus circOk x.cid c.width 0)

/-- All entries of a removed chain are cleared. -/
def State.clearDone (s : State) (die : Nat) (x : Clear) : State :=
  (({ s with yards := s.yards.modify die {} fun y => { y with clears := y.clears.erase x } } : State).wake (x.links.map (·.1))).endClear die x

/-- One die has cleared its part of a removed chain. -/
def State.clearPart (s : State) (w : CfgWrite) : State :=
  match (s.yardAt w.die).clears.find? fun x => x.cid == w.cid && x.num == w.num && x.chain == w.chain && x.left.isSome with
  | none => s
  | some x =>
    if 1 < x.left.getD 0 then
      s.modYard w.die fun y => { y with clears := y.clears.map fun z => if z = x then { x with left := x.left.map (· - 1) } else z }
    else s.clearDone w.die x

/-- The writes that clear the entries of a removed chain, by yardmaster (R53, R57). -/
def clearParts (die : Nat) (x : Clear) : List (Nat × List CfgWrite) :=
  let ys := (x.links.map fun p => yardOf p.1).foldl (fun l y => if l.contains y || decide (5 ≤ y) then l else l ++ [y]) []
  ys.map fun y => (y, markLast 4 ((x.links.filter fun p => yardOf p.1 == y).map fun p =>
    { link := p.1, slot := p.2, entry := idleEntry p.1 p.2, die := die, cid := x.cid, chain := x.chain, num := x.num : CfgWrite }))

/-- The clearing of a removed chain's entries begins: the own part goes into configuration flits, those of other dies are asked of
their yardmasters (R52, R53). -/
def State.startClear (s : State) (die : Nat) (x : Clear) : State :=
  let parts := clearParts die x
  if parts.isEmpty then s.clearDone die x
  else
    let s := s.modYard die fun y =>
      { y with clears := y.clears.map fun z => if z = x then { x with left := some parts.length } else z }
    parts.foldl (fun s p => s.askWrites die p.1 p.2) s

/-- One slot-table write takes effect. -/
def State.applyWrite (s : State) (w : CfgWrite) : State :=
  let s := (s.setEntry w.link w.slot w.entry).noteIdle w.link
  match w.kind with
  | 0 => s
  | 2 => s.sourceCleared w
  | 4 => s.clearPart w
  | _ => s.partDone w

/-- Links at half width begin to wake (R69). -/
def State.wakeLinks (s : State) (path : List Nat) : State :=
  path.foldl (fun s k =>
    if (s.linkAt k).half && (s.linkAt k).waking.isNone then
      { s with links := s.links.modify k {} fun l => { l with waking := some s.wt } }
    else s) s

/-- The writes of one flit, at most n, and those that are left; a write on a link that is still at half width waits for its wake
(R56, R69). -/
def State.flitWrites (s : State) : Nat → List CfgWrite → List CfgWrite × List CfgWrite
  | 0, l => ([], l)
  | _, [] => ([], [])
  | n + 1, w :: rest =>
    if (s.linkAt w.link).half && bit w.entry 31 then ([], w :: rest)
    else
      let r := State.flitWrites s n rest
      (w :: r.1, r.2)

/-- CONFIGURATION_FLIT (R52): once in a revolution a yardmaster sends a flit of up to four writes; where the first of them has to
cross a link at half width, it wakes that link (R69). -/
def execConfigurationFlit (yard : BitVec 3) (s : State) : Host.Outcome State Fault Refusal :=
  let y := s.yardAt yard.toNat
  let r := s.flitWrites 4 y.cfg
  .next (if y.flitRev = s.rev + 1 ∨ !y.flying.isEmpty then s
    else if r.1.isEmpty then s.wakeLinks (y.cfg.head?.map (·.link)).toList
    else s.setYard yard.toNat { y with cfg := r.2, flying := r.1, flitRev := s.rev + 1 })

/-- At the start of a revolution the writes of the flits of the one before take effect (R52). -/
def State.landFlits (s : State) : State :=
  s.yards.keys.foldl (fun s y =>
    (s.yardAt y).flying.foldl State.applyWrite (s.modYard y fun x => { x with flying := [] })) s

/-- EXCHANGE_REQUEST (R53): a yardmaster takes another's request to write its die's part. -/
def execExchangeRequest (yard : BitVec 3) (s : State) : Host.Outcome State Fault Refusal :=
  .next (s.modYard yard.toNat fun y =>
    match y.exch with
    | [] => y
    | ws :: rest => { y with exch := rest, cfg := y.cfg ++ ws })

/-! ## The search (R55) -/

/-- The outcome of a search. -/
inductive Found where
  | grant (path : List Nat) (starts : List Nat) (resp : Option (List Nat × Nat))
  | waits
  | final (code : Nat)
deriving DecidableEq, Repr, Inhabited

/-- A requested circuit is being rerouted over one of the links (R60). -/
def State.rerouting (s : State) (links : List Nat) : Bool := s.circuits.any fun c => c.suspended && c.path.any links.contains

/-- The first path that offers n start slots to a circuit. -/
def State.firstPath (s : State) (c : Circuit) (n : Nat) : List (List Nat) → Option (List Nat × List Nat)
  | [] => none
  | p :: ps =>
    let l := s.startsFor c p
    if n ≤ l.length then some (p, l.take n) else State.firstPath s c n ps

/-- The first path that offers n start slots, or, for a part of a circuit from another package, the slots in which its words come. -/
def State.placeOn (s : State) (c : Circuit) (seg : Option Segment) (n : Nat) (cand : List (List Nat)) : Option (List Nat × List Nat) :=
  match seg with
  | none => s.firstPath c n cand
  | some g => (cand.find? fun p => g.slots.all (s.startsFor c p).contains).map fun p => (p, g.slots)

/-- The response chain that a path needs: none where it needs none, and an empty list where there is no room for it (R431). -/
def State.response (s : State) (path : List Nat) (c : Circuit) : Option (List Nat × List Nat) :=
  if epKind c.dst ≠ 5 then none
  else
    match c.seg with
    | none => some (reversePath path c.src, (s.starts (reversePath path c.src)).take 1)
    | some g =>
      let q := path.reverse.map reverseLink ++ [packageOut g.link]
      let o := ((s.offsetsFrom 0 q).dropLast).getLastD 0
      some (q, (g.resp.toList.map fun x => (x + 256 - o % 256) % 256).filter fun r => (s.blockedAt q r).isNone)

/-- The search for a request with its candidate paths; `opening` a new circuit places its response chain and its numbers on
further dies. -/
def State.search (s : State) (die : Nat) (c : Circuit) (seg : Option Segment) (cand : List (List Nat)) (n : Nat) (opening : Bool) :
    Found :=
  if cand.isEmpty || cand.all (fun p => s.tooLong p || c.farBad.contains (p.getLastD 0, 256, 0)) then .final circToolong
  else if s.rerouting cand.flatten then .waits
  else
    match s.placeOn c seg n cand with
    | none => .waits
    | some (p, starts) =>
      if c.seg.isNone && s.overQuota die c.pad n then .final circQuota
      else if !opening then .grant p starts none
      else if ((p.map yardOf).any fun y => y != die && decide (y < 5) && (s.freeCid y).isNone) then .final circNocid
      else
        match s.response p c with
        | none => .grant p starts none
        | some (_, []) => .waits
        | some (q, r :: _) => .grant p starts (some (q, r))

/-- The blocking hop (R55, R431): on the first candidate path, or on the reversed path where only the response chain fails. -/
def State.blockingHop (s : State) (c : Circuit) (seg : Option Segment) (cand : List (List Nat)) (n : Nat) (opening : Bool) : Nat :=
  let hop (starts : List Nat) (p : List Nat) : Nat :=
    (starts.findSome? fun n =>
      match s.blockedAt p n with
      | some (k, slot) => some (hopFields k slot)
      | none => s.farStop c p n).getD 0
  match s.placeOn c seg n cand with
  | some (p, _) => if opening && epKind c.dst == 5 then hop (List.range 256) (reversePath p c.src) else hop (List.range 256) p
  | none => hop ((seg.map (·.slots)).getD (List.range 256)) (cand.headD [])

/-- The package of a destination: that of its peer entry for kind 5, else this one. -/
def State.farOf (s : State) (die : Nat) (asid : BitVec 11) (dst : BitVec 32) : BitVec 12 :=
  if epKind dst ≠ 5 then s.pkg.number
  else
    match s.readPeer die asid.toNat (word (2 ^ 47 + epIdx dst * 2 ^ 39)) with
    | .ok e => BitVec.ofNat 12 (bits e.w0 63 52)
    | .error _ => s.pkg.number

/-- The candidate paths of a request: those of its endpoints, or for a widening the circuit's own path (R57). -/
def State.pathsFor (s : State) (r : CircReq) (c : Circuit) : List (List Nat) :=
  match r.op, r.seg with
  | .openC, none => s.candidates c.src c.dst c.xpkg (epDie c.dst) (strOf r.agent.core)
  | .openC, some g => s.segmentPaths g.link c.dst c.xpkg
  | _, _ => [c.path]

/-! ## Grants (R56, R57) -/

/-- Circuit numbers held on the further dies of a path (R49, R53). -/
def State.takeNumbers (s : State) (die cid : Nat) (path : List Nat) : State :=
  ((path.map yardOf).foldl (fun l y => if l.contains y || y == die || y == 5 then l else l ++ [y]) []).foldl (fun s y =>
    match (s.yardAt y).locals.find? (die * 4096 + cid), s.freeCid y with
    | none, some n => s.modYard y fun x => { x with locals := x.locals.set (die * 4096 + cid) n }
    | _, _ => s) s

/-- New chains take the lowest free numbers. -/
def newChains (held : List Chain) (starts : List Nat) : List Chain :=
  (((List.range 256).filter fun n => !(held.any fun h => h.num == n)).zip starts).map fun p => { num := p.1, start := p.2 }

/-- The plan of a grant (R53, R56, R431): the part of the next package, the response chain, numbered 255, and the chains. -/
def State.grantPlan (s : State) (die : Nat) (c : Circuit) (new : List Chain) (resp : Option (List Nat × Nat)) (num : Nat) :
    List (Nat × List CfgWrite) :=
  let far := c.path.getLastD 0
  let o := (c.offs.dropLast).getLastD 0
  let inp := if c.seg.isSome then 6 else 4
  markEnd ((if isPackage far then [(5, new.map fun h =>
      { link := far, slot := (h.start + o) % 256, die := die, cid := c.cid, chain := h.num, num := num : CfgWrite })] else []) ++
    (match resp with
      | some (q, r) => planParts q (chainWrites q (s.offsetsFrom 0 q) 4 [(255, r)] die c.cid num (s.numberAt die c.cid))
      | none => []) ++
    planParts c.path (chainWrites c.path c.offs inp (new.map fun h => (h.num, h.start)) die c.cid num (s.numberAt die c.cid)))

/-- A search's grant: the chains are reserved, and the yardmasters write them. -/
def State.grant (s : State) (die : Nat) (r : CircReq) (path starts : List Nat) (resp : Option (List Nat × Nat)) : State :=
  let s := (s.chargeSlots die r.cid).takeNumbers die r.cid path
  match s.circuit? die r.cid with
  | none => s
  | some c =>
    let offs := s.offsetsFrom 0 path
    let new := newChains c.chains starts
    let c := { c with
      path := path
      offs := offs
      delay := offs.getLastD 0
      chains := c.chains ++ new
      resp := if r.op == CircOp.openC then resp else c.resp
      asked := c.asked ++ [r]
      seg := match c.seg, r.seg with
        | some g, some x => some { g with slots := g.slots ++ x.slots }
        | some g, none => some g
        | none, x => x
      since := s.wt }
    let idle := c.plan.isEmpty
    let c := { c with plan := c.plan ++ s.grantPlan die c new resp r.num }
    let s := (s.setCircuit die c).wakeLinks (path ++ (resp.map (·.1)).getD [])
    if idle then s.startPlan die r.cid else s

/-- A request ends without a grant: its code and, if refused, the blocking hop. -/
def State.refuse (s : State) (die : Nat) (r : CircReq) (code hop : Nat) : State :=
  match s.circuit? die r.cid with
  | none => s
  | some c =>
    let w := circStatus code r.cid c.width hop
    match r.seg with
    | some g =>
      let cand := s.pathsFor r c
      let no := g.slots.filter fun n => !(cand.any fun p => (s.startsFor c p).contains n)
      let s := s.modYard 4 fun y => { y with
        farAns := y.farAns ++ [(g.id, w, no)]
        denied := if code = circRefused then y.denied ++ [(g.id, cand.flatten)] else y.denied }
      if r.op == CircOp.openC then s.freeCircuit die r.cid else s
    | none =>
      (s.setCircuit die (if r.op == CircOp.openC then { c with st := .refused } else c)).setStatus die r.cid r.num w

/-- A request's search at its service or when it is woken, and what comes of it: after its deadline it is refused with its blocking
hop, and a widening of a circuit that is being closed ends with it; one that finds nothing waits. A neighbour package is told at once
what finds no room, and seeks another way or waits itself (log 130). -/
def State.searchFor (s : State) (die : Nat) (r : CircReq) (wait : State → List (List Nat) → State) : State :=
  match s.circuit? die r.cid with
  | none => s
  | some c =>
    if r.op != CircOp.openC && c.st != .open then s
    else if r.op != CircOp.openC && decide (64 < c.width + r.n) then s.refuse die r circBadwidth 0
    else
      let cand := s.pathsFor r c
      let no : Unit → State := fun _ => s.refuse die r circRefused (s.blockingHop c r.seg cand r.n (r.op == CircOp.openC))
      if r.deadline < s.wt.toNat then no ()
      else
        match s.search die c r.seg cand r.n (r.op == CircOp.openC) with
        | .grant p l resp => s.grant die r p l resp
        | .final code => s.refuse die r code 0
        | .waits => if r.seg.isSome && !s.rerouting cand.flatten then no () else wait s cand

def State.trySearch (s : State) (die : Nat) (r : CircReq) : State :=
  s.searchFor die r fun s cand =>
    s.modYard die fun y => { y with waiting := y.waiting ++ [{ r with cand := cand.flatten, woken := false }] }

/-! ## Service of requests (R53, R54, R57, R59) -/

/-- The acceptance sets out for the instruction. -/
def State.acceptCirc (s : State) (die : Nat) (r : CircReq) (w : Word) : State :=
  if r.agent.ctx = 3 then s else s.modYard die fun y => { y with accepts := y.accepts ++ [(r.agent, w)] }

/-- An endpoint of a die lies in a paddock (R54). -/
def State.epInPad (s : State) (die : Nat) (pad : BitVec 4) (e : BitVec 32) : Bool :=
  let core := epRow e * 64 + epCol e
  epDie e == die &&
    match epKind e, s.pad? die pad.toNat with
    | 0, _ => (s.lcores die pad.toNat).contains core
    | 1, some p => bit p.vreg (vaultOf (strOf core))
    | 2, some p => bit p.vreg (vaultOf (strOf core))
    | 3, _ => true
    | 4, some p => bit p.vreg (epIdx e)
    | _, _ => false

/-- The source is an endpoint of the requester's own string or a port group of its die, and the destination one of its paddock
or of a valid peer entry with the same die (R54). -/
def State.epsOk (s : State) (die : Nat) (r : CircReq) (src dst : BitVec 32) : Bool :=
  let srcOk := s.epInPad die r.pad src &&
    (epKind src == 3 || (decide (epKind src < 3) && strOf (epRow src * 64 + epCol src) == strOf r.agent.core))
  let dstOk := if epKind dst = 5 then
      match s.readPeer die r.asid.toNat (word (2 ^ 47 + epIdx dst * 2 ^ 39)) with
      | .ok e => bits e.w0 1 0 == 1 && bits e.w0 51 50 == epDie dst
      | .error _ => false
    else s.epInPad die r.pad dst
  epFormed src && epFormed dst && srcOk && dstOk

/-- CIRC.OPEN at the yardmaster. -/
def State.serveOpen (s : State) (die : Nat) (r : CircReq) : State :=
  let src := r.b.setWidth 32
  let dst := r.e0.setWidth 32
  let n := bits r.e1 38 32
  if bits r.b 63 32 != 0 || bits r.e0 63 32 != 0 || bits r.e1 63 39 != 0 || !s.epsOk die r src dst then
    s.acceptCirc die r (circStatus circBadep 0 0 0)
  else if n = 0 ∨ 64 < n then s.acceptCirc die r (circStatus circBadwidth 0 0 0)
  else if s.overQuota die r.pad n then s.acceptCirc die r (circStatus circQuota 0 0 0)
  else
    match s.freeCid die with
    | none => s.acceptCirc die r (circStatus circNocid 0 0 0)
    | some cid =>
      let w := circStatus circPending cid 0 0
      let s := s.setCircuit die 
        { cid := cid, pad := r.pad, src := src, dst := dst, xpkg := s.farOf die r.asid dst, status := w, latest := 1, since := s.wt }
      (s.acceptCirc die r w).trySearch die
        { r with cid := cid, n := n, num := 1, deadline := r.arrival.toNat + bits r.e1 31 0 }

/-- A live circuit of the requester's paddock that a request names. -/
def State.namedCircuit (s : State) (die : Nat) (r : CircReq) : Option Circuit :=
  if bits r.b 63 12 ≠ 0 then none else (s.circuit? die (bits r.b 11 0)).filter fun c => c.pad == r.pad

/-- A new request on a circuit is its latest: its number. -/
def State.newRequest (s : State) (die : Nat) (c : Circuit) (w : Word) : State :=
  s.setCircuit die { c with latest := c.latest + 1, status := w }

/-- CIRC.WIDEN at the yardmaster. -/
def State.serveWiden (s : State) (die : Nat) (r : CircReq) : State :=
  let n := bits r.e1 38 32
  let stale := circStatus circStale (bits r.b 11 0) 0 0
  match (s.namedCircuit die r).filter fun c => c.st == .open with
  | none => s.acceptCirc die r stale
  | some c =>
    if bits r.e1 63 39 ≠ 0 then s.acceptCirc die r stale
    else if n = 0 ∨ 64 < c.width + n then
      let w := circStatus circBadwidth c.cid c.width 0
      (s.newRequest die c w).acceptCirc die r w
    else if s.overQuota die r.pad n then
      let w := circStatus circQuota c.cid c.width 0
      (s.newRequest die c w).acceptCirc die r w
    else
      let w := circStatus circPending c.cid c.width 0
      ((s.newRequest die c w).acceptCirc die r w).trySearch die
        { r with cid := c.cid, n := n, num := c.latest + 1, deadline := r.arrival.toNat + bits r.e1 31 0 }

/-- The chains of a circuit that a narrowing by n, or a close (n = 0), removes: the highest numbers. -/
def Circuit.victims (c : Circuit) (n : Nat) : List Chain :=
  let l := sortBy (fun a b : Chain => decide (b.num < a.num)) (c.chains.filter fun h => !h.going)
  if n = 0 then l else l.take n

/-- Chains of a circuit are to be removed by a request, and with `all` the circuit (R57). -/
def State.dropChains (s : State) (die : Nat) (c : Circuit) (out : List Nat) (all : Bool) (num : Nat) : State :=
  let s := s.setCircuit die { c with
    chains := c.chains.map fun h => if out.contains h.num then { h with going := true } else h
    ends := c.ends ++ [(num, out)]
    st := if all then .closing else c.st }
  let s := if all then s.modYard die fun y => { y with waiting := y.waiting.filter fun r => r.cid != c.cid } else s
  s.startEnds die c.cid

/-- The highest numbers of a circuit's chains are to be removed: n of them, or with 0 all and the circuit with them (R57). -/
def State.removeChains (s : State) (die : Nat) (c : Circuit) (n num : Nat) : State :=
  s.dropChains die c ((c.victims n).map (·.num)) (n == 0) num

/-- CIRC.CLOSE at the yardmaster. -/
def State.serveClose (s : State) (die : Nat) (r : CircReq) : State :=
  match (s.namedCircuit die r).filter fun c => c.st == .open with
  | none => s.acceptCirc die r (circStatus circStale (bits r.b 11 0) 0 0)
  | some c =>
    let n := r.c.toNat
    if n ≠ 0 ∧ c.width ≤ n then
      let w := circStatus circBadwidth c.cid c.width 0
      (s.newRequest die c w).acceptCirc die r w
    else
      let w := circStatus circPending c.cid c.width 0
      (s.acceptCirc die r w).removeChains die { c with latest := c.latest + 1, status := w } n (c.latest + 1)

/-- CIRC.Q at the yardmaster: a refused or failed circuit is freed when its code is reported. -/
def State.serveQuery (s : State) (die : Nat) (r : CircReq) : State :=
  match s.namedCircuit die r with
  | none => s.acceptCirc die r (circStatus circStale (bits r.b 11 0) 0 0)
  | some c =>
    let s := s.acceptCirc die r c.status
    if c.st = .refused ∨ c.st = .failed then s.freeCircuit die c.cid else s

/-- A request of a neighbour package at the link die: the part of a circuit in this package is opened, widened, or loses chains
(R53, R57). -/
def State.serveSegment (s : State) (die : Nat) (r : CircReq) (g : Segment) : State :=
  match r.op, (s.yardAt die).circuits.values.find? fun c => (c.seg.map (·.id)) == some g.id with
  | .openC, none =>
    match s.freeCid die with
    | none => s.modYard die fun y => { y with farAns := y.farAns ++ [(g.id, circStatus circNocid 0 0 0, [])] }
    | some cid =>
      (s.setCircuit die { cid := cid, dst := r.b.setWidth 32, xpkg := r.xpkg, seg := some { g with slots := [] }, latest := 1
                          since := s.wt }).trySearch die { r with cid := cid, n := g.slots.length, num := 1 }
  | .openC, some c =>
    (s.newRequest die c c.status).trySearch die
      { r with op := .widen, cid := c.cid, n := g.slots.length, num := c.latest + 1 }
  | _, none => s
  | _, some c =>
    let gone := if g.slots.isEmpty then c.chains else c.chains.filter fun h => g.slots.contains h.start
    s.dropChains die c (gone.map (·.num)) (g.slots.isEmpty || gone.length == c.chains.length) c.latest

/-- CIRCUIT_REQUEST (R53, R55): the oldest request is served, once no woken request is left to search again. -/
def execCircuitRequest (yard : BitVec 3) (s : State) : Host.Outcome State Fault Refusal :=
  let d := yard.toNat
  .next (match (s.yardAt d).reqs with
    | [] => s
    | r :: rest =>
      if (s.yardAt d).waiting.any (·.woken) then s
      else
        let s := s.modYard d fun y => { y with reqs := rest }
        match r.seg with
        | some g => s.serveSegment d r g
        | none =>
          match r.op with
          | .openC => s.serveOpen d r
          | .widen => s.serveWiden d r
          | .close => s.serveClose d r
          | .query => s.serveQuery d r)

/-- CIRCUIT_RESEARCH (R55): a woken request searches again, in order of arrival. -/
def execCircuitResearch (yard : BitVec 3) (i : Nat) (s : State) : Host.Outcome State Fault Refusal :=
  let d := yard.toNat
  .next (match (s.yardAt d).waiting[i]? with
    | none => s
    | some r =>
      if !r.woken || ((s.yardAt d).waiting.take i).any (·.woken) then s
      else (s.modYard d fun y => { y with waiting := dropAt y.waiting i }).searchFor d r fun s _ =>
        s.modYard d fun y => { y with waiting := y.waiting.take i ++ [{ r with woken := false }] ++ y.waiting.drop i })

/-- CIRCUIT_DEADLINE (R55): a waiting request whose deadline has passed is refused with its blocking hop. -/
def execCircuitDeadline (yard : BitVec 3) (i : Nat) (s : State) : Host.Outcome State Fault Refusal :=
  let d := yard.toNat
  .next (match (s.yardAt d).waiting[i]? with
    | none => s
    | some r =>
      if r.woken || decide (s.wt.toNat ≤ r.deadline) then s
      else (s.modYard d fun y => { y with waiting := dropAt y.waiting i }).searchFor d r fun s _ => s)

/-! ## Clearing (R57) -/

/-- CHAIN_CLEAR (R57): the time of a removed chain has come, and its other entries are cleared. -/
def execChainClear (yard : BitVec 3) (i : Nat) (s : State) : Host.Outcome State Fault Refusal :=
  let y := yard.toNat
  .next (match (s.yardAt y).clears[i]? with
    | none => s
    | some x => if s.wt.toNat < x.due ∨ x.left.isSome then s else s.startClear y x)

/-! ## Failed circuits (R66, R343) -/

/-- Words of a circuit that its receivers have not had, of its chains and of its response chain. -/
def Circuit.unheard (c : Circuit) (back : Bool) : List CircWord :=
  (c.lane back).words.filter fun w => decide ((w.seq - (c.lane back).rx).toNat < 32768)

/-- The words of a circuit that its receivers have not had are lost with it (R66). -/
def State.loseWords (s : State) (die : Nat) (c : Circuit) : State :=
  (c.unheard false ++ c.unheard true).foldl (fun s w => s.loseLoad die w.load 8) s

/-- A circuit has failed (R66): it is closed, and its words are lost. -/
def State.failCircuit (s : State) (die : Nat) (c : Circuit) : State :=
  (s.setCircuit die { c with
    chains := []
    resp := none
    plan := []
    asked := []
    ends := []
    words := []
    back := {}
    suspended := false
    st := .failed
    since := s.wt
    status := circStatus circFailed c.cid 0 0 }).loseWords die c

end Sys2Proof.Machine
end

