-- ==== Sys2Proof/Machine/Float.lean ====
section
/-!
DEFINITION. Sys2Proof/Machine/Float.lean: the scalar floating-point instructions (R254 to R259).
-/

namespace Sys2Proof.Machine

/-- The operand format of a TY field (R254). -/
def tyFmt (t : BitVec 1) : Fmt := if t = 0 then .f32 else .bf16

/-- The bits of a register that an operand of a format is held in. -/
def Fmt.low (f : Fmt) (w : Word) : Nat := w.toNat % 2 ^ f.width

/-- A float operation on sources: under stochastic rounding one random step is taken and its first draw used (R258); the
result is written and its flags are raised (R125, R259). -/
def State.floatOp (s : State) (g r : BitVec 3) (srcs : List (BitVec 5)) (a : BitVec 5)
    (f : Rm → Nat → List Word → Word × BitVec 5) : State :=
  s.instr g srcs (some a) 4 fun vs s =>
    if r = 4 && s.randWraps 1 then s.trap causeRandWrap
    else
      let u := if r = 4 then s.draw 0 else 0
      let x := f (Rm.of r.toNat) u vs
      let s := if r = 4 then s.advanceRng 1 else s
      ((s.put a x.1).finish srcs 4).raise x.2

/-- A result zero-extended to 64 bits (R254). -/
def floatWord (x : Nat × BitVec 5) : Word × BitVec 5 := (word x.1, x.2)

/-- Two sources of a format. -/
def State.float2 (s : State) (g r : BitVec 3) (t : BitVec 1) (c b a : BitVec 5)
    (f : Fmt → Rm → Nat → Nat → Nat → Nat × BitVec 5) : Host.Outcome State Fault Refusal :=
  .next (s.floatOp g r [b, c] a fun rm u vs =>
    floatWord (f (tyFmt t) rm u ((tyFmt t).low (arg vs 0)) ((tyFmt t).low (arg vs 1))))

def execFadd (g r : BitVec 3) (t : BitVec 1) (c b a : BitVec 5) (s : State) : Host.Outcome State Fault Refusal :=
  s.float2 g r t c b a Fmt.add
def execFsub (g r : BitVec 3) (t : BitVec 1) (c b a : BitVec 5) (s : State) : Host.Outcome State Fault Refusal :=
  s.float2 g r t c b a Fmt.sub
def execFmul (g r : BitVec 3) (t : BitVec 1) (c b a : BitVec 5) (s : State) : Host.Outcome State Fault Refusal :=
  s.float2 g r t c b a Fmt.mul
def execFdiv (g r : BitVec 3) (t : BitVec 1) (c b a : BitVec 5) (s : State) : Host.Outcome State Fault Refusal :=
  s.float2 g r t c b a Fmt.div

/-- FFMA reads SA as its third source (R254); a queue in SA is therefore read and written and illegal (R224, R244). -/
def execFfma (g r : BitVec 3) (t : BitVec 1) (c b a : BitVec 5) (s : State) : Host.Outcome State Fault Refusal :=
  .next (s.floatOp g r [b, c, a] a fun rm u vs =>
    let f := tyFmt t
    floatWord (f.fma rm u (f.low (arg vs 0)) (f.low (arg vs 1)) (f.low (arg vs 2))))

def execFsqrt (g r : BitVec 3) (t : BitVec 1) (b a : BitVec 5) (s : State) : Host.Outcome State Fault Refusal :=
  .next (s.floatOp g r [b] a fun rm u vs => floatWord ((tyFmt t).sqrt rm u ((tyFmt t).low (arg vs 0))))

def execFmin (g : BitVec 3) (t : BitVec 1) (c b a : BitVec 5) (s : State) : Host.Outcome State Fault Refusal :=
  s.float2 g 0 t c b a fun f _ _ x y => f.minmax false x y
def execFmax (g : BitVec 3) (t : BitVec 1) (c b a : BitVec 5) (s : State) : Host.Outcome State Fault Refusal :=
  s.float2 g 0 t c b a fun f _ _ x y => f.minmax true x y

/-- FCMP (R256): the RM field holds the condition. -/
def execFcmp (g r : BitVec 3) (t : BitVec 1) (c b : BitVec 5) (d : BitVec 3) (s : State) :
    Host.Outcome State Fault Refusal :=
  .next (s.instr g [b, c] none 4 fun vs s =>
    let f := tyFmt t
    let x := f.compare r.toNat (f.low (arg vs 0)) (f.low (arg vs 1))
    ((s.writeP d x.1).finish [b, c] 4).raise x.2)

/-- The exact value of a source of FCVT by its kind (R257): 0 FP32, 1 BF16, 2 S64, 3 U64, 4 S32, 5 U32. -/
def cvtSource (k : Nat) (w : Word) : Val :=
  match k with
  | 0 => Fmt.f32.value (Fmt.f32.low w)
  | 1 => Fmt.bf16.value (Fmt.bf16.low w)
  | 2 => intVal w.toInt
  | 3 => intVal w.toNat
  | 4 => intVal (sext 32 w.toNat)
  | _ => intVal (w.toNat % 2 ^ 32 : Nat)

/-- A value converted to a destination kind of FCVT (R115, R257). -/
def cvtDest (j : Nat) (rm : Rm) (u : Nat) (v : Val) : Word × BitVec 5 :=
  let int (lo hi : Int) : Word × BitVec 5 := let x := v.toInt rm u lo hi; (iword x.1, x.2)
  let flt (f : Fmt) : Word × BitVec 5 := let x := f.pack rm u v; (word x.1, x.2 ||| sigFlag [v])
  match j with
  | 0 => flt .f32
  | 1 => flt .bf16
  | 2 => int (-2 ^ 63) (2 ^ 63 - 1)
  | 3 => int 0 (2 ^ 64 - 1)
  | 4 => int (-2 ^ 31) (2 ^ 31 - 1)
  | _ => int 0 (2 ^ 32 - 1)

def execFcvt (g r k : BitVec 3) (j : BitVec 4) (b a : BitVec 5) (s : State) : Host.Outcome State Fault Refusal :=
  .next (s.floatOp g r [b] a fun rm u vs => cvtDest j.toNat rm u (cvtSource k.toNat (arg vs 0)))

end Sys2Proof.Machine
end

