-- ==== Sys2Proof/Machine/Wheel.lean ====
section
/-!
DEFINITION. Sys2Proof/Machine/Wheel.lean: wheel time across packages (R43, R44, R410), the routers (R48, R51), the placing of
standing and peer circuits (R62, R452), and failing, shedding and returning links (R64 to R69).
-/

namespace Sys2Proof.Machine

/-! ## Links -/

def State.modLink (s : State) (k : Nat) (f : LinkState → LinkState) : State := { s with links := s.links.modify k {} f }

/-- The keys of the 36 package links (R45). -/
def packageKeys : List Nat := (List.range 36).map packageOut

/-! ## Routers (R48) -/

/-- The outgoing links of a router. -/
def outLinks (unit row col : Nat) : List Nat :=
  ((List.range 6).map fun p => linkKey unit row col p) ++
    if unit = 8 then
      ((List.range 32).filter fun i => Config.ldRouter i == col).map (fun i => linkKey 8 1 i 6) ++
        ((List.range 36).filter fun n => Config.ldRouter (32 + n) == col).map packageOut
    else []

/-- The router that a link leads to: unit, row and column. -/
def routerAfter (k : Nat) : Nat × Nat × Nat :=
  if keyUnit k < 4 ∧ keyPort k = 5 then
    let v := vaultOf (strOf (keyRow k * 64 + keyCol k))
    (4 + keyUnit k, v / 8, v % 8)
  else
    let b := reverseLink k
    if keyUnit b = 8 ∧ keyRow b = 1 then (8, 0, Config.ldRouter (keyCol b))
    else if isPackage b then (8, 0, Config.ldRouter (32 + keyCol b))
    else (keyUnit b, keyRow b, keyCol b)

/-- The outgoing link whose entry names the word that waits in a router: of several that take from its input, the one whose entry
holds its circuit's number. -/
def State.namedLink (s : State) (f : Flit) : Option Nat :=
  let slot := f.wt.toNat % 256
  let named (k : Nat) : Bool :=
    let e := s.entry k slot
    bit e 31 && !bit e 30 && bits e 29 27 == f.inp.toNat
  let l := outLinks f.unit f.row f.col
  (l.find? fun k => named k && bits (s.entry k slot) 23 12 == s.numberAt f.die f.cid k).or (l.find? named)

/-- A word is delivered if it is the one that the destination expects next, and what it carries takes effect (R51, R65). -/
def State.deliver (s : State) (f : Flit) : State :=
  match s.circuit? f.die f.cid with
  | none => s
  | some c =>
    let q := c.lane f.back
    if f.seq ≠ q.rx then s
    else
      let s := s.setCircuit f.die (c.setLane f.back { q with rx := q.rx + 1 })
      match q.words.find? fun w => w.seq == f.seq with
      | some w => s.arriveLoad f.die w.load
      | none => s

/-- The word of a misrouted or torn-down circuit is discarded and counted (R48); the link die has no counter of its own (log 126). -/
def State.discard (s : State) (f : Flit) : State :=
  if 8 ≤ f.unit then s
  else s.modDie (f.unit % 4) fun d => { d with misroute := word (min (2 ^ 64 - 1) (d.misroute.toNat + 1)) }

/-- Words of a circuit sent again in its next slots, in order (R65, R66); of a circuit whose source may inject on no chain any more
they are lost (R343). -/
def State.resend (s : State) (die cid : Nat) (back : Bool) : List CircWord → State
  | [] => s
  | w :: rest =>
    match s.circuit? die cid with
    | none => s
    | some c =>
      let q := c.lane back
      match c.nextSlot back s.wt.toNat with
      | none =>
        State.resend ((s.setCircuit die (c.setLane back { q with words := q.words.filter fun x => x.seq != w.seq })).loseLoad die w.load 9)
          die cid back rest
      | some t =>
        let c := c.setLane back { q with last := t, words := q.words.map fun x => if x.seq = w.seq then { x with at_ := t } else x }
        State.resend { s.setCircuit die c with flits := s.flits ++ [firstFlit die c back w.seq t] } die cid back rest

/-- The source may inject a word in the slot at a wheel time: in a start slot of its circuit that its table holds (R48, R60), not under
a reroute (R66), and not while the string's images take its slot (R451). -/
def State.mayInject (s : State) (c : Circuit) (back : Bool) (t : Nat) : Bool :=
  !c.suspended && !s.lentHeld c &&
    (c.laneChains back).any fun h => h.live && h.start == t % 256 && decide (h.since ≤ t)

/-- A word's slot has come at its source and cannot be used: it and the words behind it take later slots. -/
def State.reslot (s : State) (f : Flit) : State :=
  match s.circuit? f.die f.cid with
  | none => s
  | some c =>
    let q := c.lane f.back
    let later := q.words.filter fun w => decide ((w.seq - f.seq).toNat < 32768)
    let s := { s with flits := s.flits.filter fun x => !(x.src && x.die == f.die && x.cid == f.cid && x.back == f.back) }
    if c.suspended then s
    else (s.setCircuit f.die (c.setLane f.back { q with last := s.wt.toNat })).resend f.die f.cid f.back later

/-- A word goes over a link: to the next router, or, by the last link of its path, to the endpoint, input 7 of its router in the model,
when the link's delay has passed (R49). -/
def State.cross (s : State) (f : Flit) (k : Nat) : State :=
  let wt := f.wt + word (s.linkDelay k)
  let r := if ((s.circuit? f.die f.cid).bind fun c => (c.lanePath f.back).getLast?) = some k then { f with inp := 7, wt := wt, src := false }
    else
      let r := routerAfter k
      { f with unit := r.1, row := r.2.1, col := r.2.2, inp := BitVec.ofNat 3 (arrivalIn k), wt := wt, src := false }
  { s with flits := s.flits ++ [r] }

/-- A word is forwarded, or discarded and counted (R48). One that waits at its source leaves it in its start slot; from a port group or
from another package it comes by a link that no table of this package names. -/
def State.forward (s : State) (f : Flit) : State :=
  if f.inp = 7 then s.deliver f
  else if f.src && !((s.circuit? f.die f.cid).any fun c => s.mayInject c f.back f.wt.toNat) then s.reslot f
  else
    let k := linkKey f.unit f.row f.col 7
    if f.src && (s.circuit? f.die f.cid).any (fun c => (c.lanePath f.back).head? == some k) then s.cross f k
    else if f.src && decide (f.unit = 8) && decide (f.row = 3) then s.cross f (packageIn f.col)
    else
      match s.namedLink f with
      | none => s.discard f
      | some k => s.cross f k

/-- SLOT_FORWARD (R48): the words whose slots have come at a router. -/
def execSlotForward (unit : BitVec 4) (row : BitVec 5) (col : BitVec 6) (s : State) : Host.Outcome State Fault Refusal :=
  let due (f : Flit) : Bool := f.unit == unit.toNat && f.row == row.toNat && f.col == col.toNat && decide (f.wt ≤ s.wt)
  .next ((s.flits.filter due).foldl (fun s f => s.forward f) { s with flits := s.flits.filter fun f => !due f })

/-! ## Circuits that no request opens (R61, R452) -/

/-- A circuit of n chains placed on the first candidate path that offers them, its entries written with CID 0. -/
def State.placeFixed (s : State) (n : Nat) (cand : List (List Nat)) (c : Circuit) : Option (State × Circuit) :=
  (s.firstPath c n cand).map fun (path, starts) =>
    let offs := s.offsetsFrom 0 path
    let chains := (starts.zipIdx).map fun p => ({ num := p.2, start := p.1, live := true } : Chain)
    let ws := chainWrites path offs 4 (chains.map fun h => (h.num, h.start)) 0 0 0 fun _ => 0
    (ws.foldl (fun s w => (s.setEntry w.link w.slot w.entry).noteIdle w.link) s,
      { c with path := path, offs := offs, delay := offs.getLastD 0, chains := chains, st := .open, since := s.wt })

/-- The entries that a circuit holds along its path. -/
def Circuit.entries (c : Circuit) : List (Nat × Nat) :=
  (c.path.zip c.offs).flatMap fun p => c.chains.map fun h => (p.1, (h.start + p.2) % 256)

/-- The entries of a fixed circuit cleared: its slots are free, and a link that holds no circuit slot any more is idle. -/
def State.unplace (s : State) (c : Circuit) : State :=
  (c.entries.foldl (fun s p => (s.setEntry p.1 p.2 0).noteIdle p.1) s).wake c.path

/-- A half-width link lies on the path: it wakes before its table is written (R69). -/
def State.asleep (s : State) (path : List Nat) : Bool := path.any fun k => (s.linkAt k).half

/-- From a port group to the link die, and by way of a neighbouring compute die when its own links fail (R66). -/
def toLd (src : BitVec 32) : List (List Nat) :=
  let a := epDie src
  let exits (m : Nat) : List Crossing :=
    (List.range 8).map fun j => { r := 31, c := 48 + j, ways := [[linkKey m 31 (48 + j) 0]] }
  pathsOut src a (exits a) ++ [a ^^^ 1, a ^^^ 2].flatMap fun m => pathsOut src a (joinCrossings m (directCrossings a m) (exits m))

/-- The candidate paths of a peer circuit. -/
def State.peerPaths (s : State) (src dst : BitVec 32) : List (List Nat) :=
  match epKind src, epKind dst with
  | 3, 3 => s.candidates src dst s.pkg.number (epDie dst) 0 ++ s.detours src dst s.pkg.number (epDie dst) 0
  | 3, _ => toLd src
  | 15, 3 => (toLd dst).map fun p => p.reverse.map reverseLink
  | _, _ => (s.pkgLinks (dst.setWidth 12)).map fun n => [packageOut n]

/-- A peer circuit is placed, if it can be, on a path that offers its chains or on the one that offers most (log 125); where links of
the path must wake first, it is placed after that (R66, R69). -/
def State.placePeerOn (s : State) (c : Circuit) (place : Option (List Nat × List Nat)) : State :=
  match place with
  | none => s
  | some (path, starts) =>
    let add (s : State) (c : Circuit) : State := { s with pkg := { s.pkg with peers := s.pkg.peers ++ [c] } }
    if s.asleep path then add (s.wakeLinks path) { c with suspended := true, path := [], offs := [] }
    else
      match s.placeFixed starts.length [path] { src := c.src, dst := c.dst } with
      | some (s, d) => add s d
      | none => s

/-- A peer circuit of 8 chains (R452). -/
def State.placePeer (s : State) (src dst : BitVec 32) (first : List (List Nat)) : State :=
  s.placePeerOn { src := src, dst := dst, chains := (List.range 8).map fun n => { num := n } }
    (s.firstPath {} 8 (first ++ s.peerPaths src dst))

/-- A peer circuit and its reverse (R452). -/
def State.placePeerPair (s : State) (src dst : BitVec 32) : State :=
  let s := s.placePeer src dst []
  match s.pkg.peers.getLast? with
  | some c => if c.src = src ∧ c.dst = dst then s.placePeer dst src [c.path.reverse.map reverseLink] else s
  | none => s

/-- PEER_CIRCUITS (R452): those of the package's own dies, at bring-up. -/
def State.buildPeers (s : State) : State :=
  let pgs := (List.range 4).flatMap fun a => (List.range 16).map fun p => (a, p)
  let s := pgs.foldl (fun s x =>
    ((List.range 4).filter (· != x.1)).foldl (fun s b => s.placePeerPair (peerPg x.1 x.2) (peerPg b x.2)) s) s
  pgs.foldl (fun s x => s.placePeerPair (peerPg x.1 x.2) peerLd) s

/-! ## Failures (R64 to R68) -/

/-- A circuit crosses one of the links, with its words or its responses. -/
def Circuit.crosses (c : Circuit) (ks : List Nat) : Bool :=
  c.path.any ks.contains || ((c.resp.map (·.1)).getD []).any ks.contains

/-- Entries of links cleared. -/
def State.clearEntries (s : State) (l : List (Nat × Nat)) : State :=
  l.foldl (fun s p => (s.setEntry p.1 p.2 (idleEntry p.1 p.2)).noteIdle p.1) s

/-- A circuit's slot-table writes that are still on their way are dropped, with its words on the links, and the clearing of all its
entries begins. What is to be cleared is answered beside (R66). -/
def State.retract (s : State) (die : Nat) (c : Circuit) : Clear × State :=
  let mine (w : CfgWrite) : Bool := w.die == die && w.cid == c.cid
  let s := { s with yards := s.yards.mapValues fun _ y =>
    { y with
      cfg := y.cfg.filter fun w => !mine w
      flying := y.flying.filter fun w => !mine w
      exch := (y.exch.map fun (ws : List CfgWrite) => ws.filter fun w => !mine w).filter fun ws => !ws.isEmpty } }
  let held := (s.yardAt die).clears.filter fun x => x.cid == c.cid
  let x : Clear := { cid := c.cid, chain := 256, links := c.entries ++ s.respLinks c ++ held.flatMap (·.links), due := s.wt.toNat }
  let s := s.modYard die fun y => { y with clears := (y.clears.filter fun x => x.cid != c.cid) ++ [x] }
  (x, ({ s with flits := s.flits.filter fun f => !(f.die == die && f.cid == c.cid) } : State).startClear die x)

/-- The state as a reroute's search sees it: the entries that it clears are free. -/
def State.cleared (s : State) (x : Clear) : State :=
  { s with yards := s.yards.mapValues fun _ y => { y with clears := y.clears.filter fun z => z.cid != x.cid || z.chain != 256 } }.clearEntries
    x.links

/-- The placement of a rerouted circuit: full width on the first path that offers it, or else the path that offers most (R66). The part
of a circuit from another package, whose link die sends its words again, takes any start slots too (log 152). -/
def State.bestPath (s : State) (c : Circuit) (n : Nat) (cand : List (List Nat)) : Option (List Nat × List Nat) :=
  match s.placeOn c none n cand with
  | some r => some r
  | none =>
    let best := cand.foldl (fun (b : List Nat × List Nat) p =>
      let l := s.startsFor c p
      if b.2.length < l.length then (p, l) else b) ([], [])
    if best.2.isEmpty then none else some best

/-- The candidate paths of a reroute: those of R55, then those over the third die. -/
def State.reroutePaths (s : State) (c : Circuit) : List (List Nat) :=
  let str := strOf (epRow c.src * 64 + epCol c.src)
  match c.seg with
  | some g => s.segmentPaths g.link c.dst c.xpkg
  | none => s.candidates c.src c.dst c.xpkg (epDie c.dst) str ++ s.detours c.src c.dst c.xpkg (epDie c.dst) str

/-- A suspended circuit is placed anew with the chains given, as a search finds room that sees the state `v`, and its new entries are
written (R56, R66). -/
def State.replace (s v : State) (die : Nat) (c : Circuit) (want : List Chain) : State :=
  let s := s.setCircuit die { c with chains := [], resp := none, plan := [], asked := [], suspended := true, since := s.wt }
  let v := v.setCircuit die { c with chains := [], resp := none, plan := [], suspended := true }
  let cand := (v.reroutePaths c).filter fun p => ((v.response p c).map (·.2)) != some []
  match v.bestPath c want.length cand with
  | none => s.failCircuit die c
  | some (path, starts) =>
    let n := min want.length starts.length
    let held := (sortBy (fun (a b : Chain) => decide (a.num < b.num)) want).take n
    let going := (held.filter (·.going)).map (·.num)
    let offs := s.offsetsFrom 0 path
    let resp := (v.response path c).map fun r => (r.1, r.2.headD 0)
    let chains := (held.zip starts).map fun p => ({ num := p.1.num, start := p.2, going := p.1.going } : Chain)
    let d := { c with
      path := path
      offs := offs
      delay := offs.getLastD 0
      chains := chains
      resp := resp
      suspended := true
      since := s.wt
      plan := []
      asked := []
      ends := if going.isEmpty then [] else [(c.latest, going)]
      status := if n < want.length then circStatus circDegraded c.cid n 0 else c.status }
    let s := (s.setCircuit die d).takeNumbers die c.cid path
    let d := { d with plan := s.grantPlan die d chains resp c.latest }
    ((s.setCircuit die d).wakeLinks (path ++ (resp.map (·.1)).getD [])).startPlan die c.cid

/-- The chains of a circuit that is being closed and whose source entries are cleared: they carry, after a reroute, the words that have
not been delivered (R57, R67). -/
def State.leavingChains (s : State) (die : Nat) (c : Circuit) : List Chain :=
  ((s.yardAt die).clears.filter fun x => x.cid == c.cid && decide (x.chain < 255)).map fun x => { num := x.chain, going := true }

/-- SUSPEND_NOTICE and REROUTE (R66) of one requested circuit: its source stops injecting, and its new path is searched and
written. A narrowing or close under way goes on after it, on the new path (R68). -/
def State.reroute (s : State) (die : Nat) (c : Circuit) : State :=
  let want := if c.chains.isEmpty && !(c.unheard false ++ c.unheard true).isEmpty then s.leavingChains die c else c.chains
  match (s.chargeSlots die c.cid).retract die c with
  | (x, s) =>
    if want.isEmpty then s.setCircuit die { c with resp := none, plan := [] }
    else s.replace (s.cleared x) die c want

/-- Peer circuits over failed links are placed anew (R66, R67). -/
def State.reroutePeers (s : State) (ks : List Nat) : State :=
  let lost := s.pkg.peers.filter fun c => c.crosses ks
  let s := lost.foldl (fun s c => s.unplace c) { s with pkg := { s.pkg with peers := s.pkg.peers.filter fun c => !c.crosses ks } }
  lost.foldl (fun s c => s.placePeerOn c (s.bestPath c c.chains.length (s.peerPaths c.src c.dst))) s

/-- Peer circuits whose links have woken are placed. -/
def State.placeWoken (s : State) : State :=
  let l := s.pkg.peers.filter (·.suspended)
  l.foldl (fun s c => s.placePeerOn c (s.bestPath c c.chains.length (s.peerPaths c.src c.dst)))
    { s with pkg := { s.pkg with peers := s.pkg.peers.filter fun c => !c.suspended } }

/-- Every circuit that crosses links out of service is rerouted. -/
def State.rerouteAll (s : State) (ks : List Nat) : State :=
  let hit := s.yards.flatMap fun y => (y.2.circuits.values.filter fun c => c.crosses ks && c.st != .failed && c.st != .refused).map
    fun c => (y.1, c.cid)
  (hit.foldl (fun s p =>
    match s.circuit? p.1 p.2 with
    | some c => s.reroute p.1 c
    | none => s) s).reroutePeers ks

/-- LINK_FAILURE (R64, R66): a UCIe or package link fails in both directions. -/
def execLinkFailure (die : BitVec 2) (link : Nat) (s : State) : Host.Outcome State Fault Refusal :=
  let ks := [link, reverseLink link]
  .next (if !(isUcie link || isPackage link) || (s.linkAt link).failed then s
    else
      let s := ks.foldl (fun s k => s.modLink k fun l => { l with failed := true, waking := none }) s
      let s := if yardOf link = die.toNat then
          s.modDie die.toNat fun d => { d with linkFail := word (min (2 ^ 64 - 1) (d.linkFail.toNat + 1)) }
        else s
      s.rerouteAll ks)

/-- REPLAY (R66): once the new path is written, the sending endpoints of a circuit send again from the word that their receivers expect
next; what they have to send beside those follows them. -/
def execReplay (yard : BitVec 3) (cid : BitVec 12) (s : State) : Host.Outcome State Fault Refusal :=
  let d := yard.toNat
  .next (match s.circuit? d cid.toNat with
    | none => s
    | some c =>
      if !c.suspended || !c.plan.isEmpty || (c.chains.filter (·.live)).isEmpty then s
      else
        let s := s.setCircuit d { c with suspended := false, last := 0, back := { c.back with last := 0 } }
        ((((s.resend d c.cid false (c.unheard false)).resend d c.cid true (c.unheard true)).startEnds d c.cid).wake c.path))

/-- LANE_REPAIR (R64): spare lanes take over; no slot and no delay changes. -/
def execLaneRepair (link : Nat) (s : State) : Host.Outcome State Fault Refusal :=
  .next (if !(isUcie link || isPackage link) || (s.linkAt link).failed then s
    else s.modLink link fun l => { l with repairs := l.repairs + 1 })

/-- A mesh or lateral link, or one of the link die's mesh. -/
def isMesh (k : Nat) : Bool :=
  !isUcie k && (decide (keyPort k < 4) && decide (keyUnit k < 8) || keyUnit k == 8 && keyRow k == 0 && decide (keyPort k < 4)) &&
    !(decide (keyUnit k < 4) && keyRow k == 0 && keyPort k == 2)

/-- A link holds a circuit's slot: one that its table shows, or one that is granted and not yet written (R69). -/
def State.linkHolds (s : State) (k : Nat) : Bool :=
  ((s.slots.getD k []).any fun p => bit p.2 31) ||
    s.circuits.any (fun c => (!c.chains.isEmpty && c.path.contains k) || ((c.resp.map (·.1)).getD []).contains k) ||
    s.yards.values.any fun y => (y.cfg ++ y.flying ++ y.exch.flatten).any fun w => w.link == k && bit w.entry 31

/-- LANE_SHED (R69): a link that has held no circuit slot for 10 µs goes to half width. -/
def execLaneShed (link : Nat) (s : State) : Host.Outcome State Fault Refusal :=
  let l := s.linkAt link
  .next (if !(isUcie link || isPackage link || isMesh link) || l.failed || l.half ||
      s.linkHolds link || decide (s.wt.toNat < l.idle.toNat + 20000) then s
    else s.modLink link fun l => { l with half := true, waking := none })

/-- LINK_WAKE (R69): the wake time has passed, and the yardmaster may write across the link. -/
def execLinkWake (link : Nat) (s : State) : Host.Outcome State Fault Refusal :=
  .next (match (s.linkAt link).waking with
    | none => s
    | some t =>
      if s.wt.toNat < t.toNat + 2000 then s
      else (s.modLink link fun l => { l with half := false, waking := none, idle := s.wt }).placeWoken)

/-- LINK_RETURN (R68): the physical function returns a repaired link to service; no circuit moves back on its own. -/
def execLinkReturn (link : Nat) (s : State) : Host.Outcome State Fault Refusal :=
  .next ([link, reverseLink link].foldl (fun s k =>
    if (s.linkAt k).failed then s.modLink k fun l => { l with failed := false, half := false, idle := s.wt } else s) s)

/-! ## Wheel time across packages (R43, R44, R410) -/

/-- Every package link goes out of service. -/
def State.linksOut (s : State) : State :=
  let on := packageKeys.filter fun k => !(s.linkAt k).out
  (on.foldl (fun s k => s.modLink k fun l => { l with out := true }) s).rerouteAll on

/-- TIME_EXCHANGE (R43, R44): the offset from the master as measured; outside ±2 wt the package links leave service. -/
def execTimeExchange (offset : BitVec 64) (s : State) : Host.Outcome State Fault Refusal :=
  let s := { s with pkg := { s.pkg with offset := offset.toInt } }
  .next (if 2 < offset.toInt.natAbs then s.linksOut else s)

/-- No die has a live paddock. -/
def State.noPaddock (s : State) : Bool := s.dies.values.all fun d => d.pads.isEmpty

/-- A time noted before a step of wheel time, in the new count. -/
def shiftTime (old new t : Nat) : Nat := t + new - old

/-- TIME_ALIGN (R44): at a revolution boundary WTIME is set to the master's, and the periods count from it. -/
def execTimeAlign (master : BitVec 64) (s : State) : Host.Outcome State Fault Refusal :=
  .next (if !s.pkg.member || s.pkg.aligned || !s.noPaddock || s.wt.toNat % 256 != 0 || master.toNat % 256 != 0 then s
    else
      let o := s.wt.toNat
      let n := master.toNat
      let move (w : Word) : Word := word (shiftTime o n w.toNat)
      { s with
        wt := master
        pkg := { s.pkg with
          aligned := true
          offset := 0
          period := n / 128000
          thermTick := n / 64
          lease := s.pkg.lease.map (shiftTime o n)
          change := s.pkg.change.map fun c => { c with due := shiftTime o n c.due }
          rows := s.pkg.rows.mapValues fun _ r => { r with since := move r.since } }
        dies := s.dies.mapValues fun _ d => { d with
          coreTime := { d.coreTime with period := n / 128000 }
          round := n / 256 }
        pgs := s.pgs.mapValues fun _ p => { p with tokens := { p.tokens with period := n / 1024 } }
        yards := s.yards.mapValues fun _ y => { y with flitRev := 0 }
        links := s.links.mapValues fun _ l => { l with idle := move l.idle, waking := l.waking.map move } })

/-- DOMAIN_MEMBERSHIP (R410): a package that is admitted anew has its links checked again, and aligns once it has no live
paddock. -/
def execDomainMembership (domain : BitVec 64) (number coords : BitVec 12) (s : State) : Host.Outcome State Fault Refusal :=
  .next (if s.pkg.member && s.pkg.domain == domain && s.pkg.number == number && s.pkg.coords == coords then s
    else { s with pkg := { s.pkg with member := true, domain := domain, number := number, coords := coords, aligned := false } }.linksOut)

/-- The coordinates of the torus neighbour in a direction (R7, R410): 0 X+, 1 X−, 2 Y+, 3 Y−, 4 Z+, 5 Z−. -/
def torusStep (c : BitVec 12) (dir : Nat) : BitVec 12 :=
  let d := dir / 2
  let n := max 1 (Config.torusSize d)
  let x := bits c (4 * d + 3) (4 * d)
  setBits c (4 * d + 3) (4 * d) (if dir % 2 = 0 then (x + 1) % n else (x + n - 1) % n)

/-- PACKAGE_LINK_CHECK (R43, R44, R410): a link comes into service when its neighbour's membership matches and its delay fits;
the peer circuit to that neighbour is placed with the first (R452). -/
def execPackageLinkCheck (link : Nat) (domain : BitVec 64) (number coords : BitVec 12) (delay : Nat) (s : State) :
    Host.Outcome State Fault Refusal :=
  .next (if !isPackage link then s
    else if s.pkg.member && s.pkg.aligned && s.pkg.domain == domain && s.pkg.number != number && keyRow link == 2 &&
        torusStep s.pkg.coords (keyCol link / 6) == coords &&
        decide (1 ≤ delay) && decide (delay ≤ 64) && decide (s.pkg.offset.natAbs ≤ 2) && !(s.linkAt link).failed then
      let s := s.modLink link fun l => { l with out := false, delay := delay, idle := s.wt }
      if s.pkg.peers.any fun c => c.dst == peerFar number then s
      else s.placePeer peerLd (peerFar number) ((linksTo (keyCol link / 6)).map fun n => [packageOut n])
    else if (s.linkAt link).out then s
    else (s.modLink link fun l => { l with out := true }).rerouteAll [link])

/-! ## Circuits that cross packages (R50, R53, R55) -/

/-- The parts of a plan after those of the grant that comes first. -/
def dropGrant : List (Nat × List CfgWrite) → List (Nat × List CfgWrite)
  | [] => []
  | p :: l => if p.2.any fun w => w.kind == 3 then l else dropGrant l

/-- The next package does not place its part of a grant (R53, R55, R58). What is reserved here is given up; slots that it has refused
qualify no more, and the request, or the reroute, searches on; another code ends the request. -/
def State.farRefused (s : State) (die : Nat) (c : Circuit) (x : FarReq) (code hop : Nat) (refused : List Nat) : State :=
  let bad := if code = circToolong then [(x.link, 256, 0)] else (if refused.isEmpty then x.slots else refused).map fun n => (x.link, n, hop)
  let opening := c.st = .pending
  let again := code = circRefused ∨ code = circToolong
  let d := { c with
    chains := c.chains.filter fun h => !x.chains.contains h.num
    plan := dropGrant c.plan
    farBad := if again then c.farBad ++ bad else c.farBad
    asked := c.asked.filter fun r => r.num != x.num
    resp := if opening then none else c.resp }
  let freed := c.path ++ (c.resp.map (·.1)).getD []
  if c.suspended then
    let s := s.wake freed
    if again then s.replace s die { d with chains := [] } c.chains else s.failCircuit die c
  else
    let s := (s.setCircuit die d).wake freed
    match c.asked.find? fun r => r.num == x.num with
    | none => s
    | some r => if again then s.trySearch die r else s.refuse die r code hop

/-- The answer of a neighbour package to a request of the link die: its part is placed, or not, with the blocking hop in that
package. -/
def State.farAnswer (s : State) (i code row col port link slot : Nat) (refused : List Nat) : State :=
  match (s.yardAt 4).farOut[i]? with
  | none => s
  | some x =>
    let s := s.modYard 4 fun y => { y with farOut := dropAt y.farOut i }
    match s.circuit? x.die x.cid with
    | none => s
    | some c =>
      if x.remove || (c.plan.head?.map (·.1)) != some 5 then s
      else if code = circOk then s.partDone { die := x.die, cid := x.cid, num := x.num, kind := 1 }
      else
        s.farRefused x.die c x code (if code = circRefused then
          field (slot % 256) 36 + field 3 32 + field (row % 32) 27 + field (col % 64) 21 + field (port % 8) 18 + field (link % 64) 12
        else 0) refused

/-- A neighbour package has freed slots behind a package link: what it has refused there may be asked again, and the requests that wait
for it search again (R55). -/
def State.farFrees (s : State) (link : Nat) : State :=
  let s := { s with yards := s.yards.mapValues fun _ y =>
    { y with circuits := y.circuits.mapValues fun _ c => { c with farBad := c.farBad.filter fun b => b.1 != link } } }
  s.wake [link]

/-- A neighbour package asks the link die for the part of a circuit in this package, or to remove chains of it: the request is served in
its turn (R53). -/
def State.segmentAsks (s : State) (r : CircReq) : State :=
  s.modYard 4 fun y => { y with reqs := y.reqs ++ [{ r with agent := { ctx := 3 }, arrival := s.wt }] }

/-- A word arrives by a package link: it is the one expected, and this package's link die sends it on and retains it (R65), or it is
discarded. -/
def State.segmentWord (s : State) (id : Nat) (seq : BitVec 16) (l : Load) : State :=
  match (s.yardAt 4).circuits.values.find? fun c => (c.seg.map (·.id)) == some id with
  | none => s
  | some c =>
    match c.seg with
    | none => s
    | some g =>
      if seq ≠ g.rx then s
      else (s.setCircuit 4 { c with seg := some { g with rx := g.rx + 1 } }).inject 4 c.cid false l

end Sys2Proof.Machine
end

