-- ==== Sys2Proof/Machine/Power.lean ====
section
/-!
DEFINITION. Sys2Proof/Machine/Power.lean: boot (R411), the power arbiter, guard steps and cap messages (R412 to R421), the
clocks of cores (R413), and thermal control (R422).
-/

namespace Sys2Proof.Machine

def State.modPkg (s : State) (f : Pkg → Pkg) : State := { s with pkg := f s.pkg }

/-- Every live paddock, as die and number. -/
def State.livePads (s : State) : List (Nat × Nat) := s.dies.flatMap fun d => d.2.pads.keys.map fun p => (d.1, p)

/-- The usage of every live paddock advanced. -/
def State.usageAll (s : State) (f : Usage → Usage) : State := s.livePads.foldl (fun s p => s.modUsage p.1 p.2 f) s

/-! ## Boot (R411) -/

/-- A fresh key from the tack room's generator, installed under an identifier of a die (R400). -/
def State.freshKey (s : State) (die k : Nat) : State :=
  (s.modPkg fun p => { p with keySerial := p.keySerial + 1 }).modDie die fun d => { d with keys := d.keys.set k (s.pkg.keySerial + 1) }

/-- A step of the boot has failed, or all have passed: the status of every die. -/
def State.bootStatus (s : State) (done fstep state : Nat) : State :=
  (List.range 4).foldl (fun s d => s.modDie d fun x => { x with fstep := BitVec.ofNat 8 fstep, state := BitVec.ofNat 8 state })
    (s.modPkg fun p => { p with boot := done })

/-- Step 5 for one die: the key table is empty but for keys 1 to 15; a die whose memory fails reports it. -/
def State.releaseDie (s : State) (d : Nat) : State :=
  let failed := s.pkg.bootFail.contains (5 + d)
  let s := (List.range 15).foldl (fun s i => s.freshKey d (i + 1)) (s.modDie d fun x => { x with keys := [] })
  if failed then s.modDie d fun x => { x with fstep := 5, state := 3 } else s

/-- Local stores and vaults are zeroed (R411). -/
def State.zeroed (s : State) : State :=
  { s with mem := s.mem.filter fun c => decide (c.1 < vaultBase 0), full := [], memKey := s.memKey.filter fun p => decide (16 * p.1 < vaultBase 0) }

/-- The trust die measures an image of the firmware present: its SHAKE256-512 digest (R404). -/
def measure (version image : Nat) : List Byte := shake256 64 (Config.firmware version image)

/-- Step 3: the measurements, and the keys that the seed and they give (R400; log 136). -/
def State.deriveKeys (s : State) : State :=
  let ms := [1, 2, 3, 4].map (measure s.pkg.firmware)
  let base := Config.fusedSeed ++ ms.flatten
  s.modPkg fun p =>
    { p with
      measured := ms
      trust :=
        { identity := Config.identityKey Config.fusedSeed
          alias_ := shake256 57 base
          usage := shake256 57 (base ++ [0x73, 0x74, 0x75, 0x64]) } }

/-- A failure before PCIe trains: the fault pin is asserted (R411). -/
def State.assertFault (s : State) : State := s.modPkg fun p => { p with faultPin := true }

/-- POWER_ON (R411): the boot runs up to the first step that fails. WTIME counts from the release of the link die (R44). -/
def execPowerOn (s : State) : Host.Outcome State Fault Refusal :=
  let fails (n : Nat) : Bool := s.pkg.bootFail.contains n
  .next (if s.pkg.boot ≠ 0 then s
    else if fails 1 then (s.bootStatus 0 1 0).assertFault
    else if fails 2 then (s.bootStatus 0 2 0).assertFault
    else if fails 4 then ({ s with wt := 0 }.bootStatus 3 4 2).deriveKeys
    else
      let s := ((({ s with wt := 0 } : State).zeroed).bootStatus 7 0 1).deriveKeys
      let s := (List.range 4).foldl (fun s d => s.releaseDie d) s
      let s := packageKeys.foldl (fun s k => s.modLink k fun l => { l with out := true }) s
      s.buildPeers)

/-! ## Clocks of cores (R413) -/

/-- A core has a live context. -/
def State.coreLive (s : State) (die core : Nat) : Bool := (List.range 3).any fun x => (s.ctxOf (ctxKey die core x)).live

/-- CORE_STOP (R413): a core without a live context for 1 µs stops its clock. -/
def execCoreStop (die : BitVec 2) (core : BitVec 11) (s : State) : Host.Outcome State Fault Refusal :=
  let k := coreKey die.toNat core.toNat
  let c := s.coreOf k
  .next (if !c.on || c.div = 0 || s.coreLive die.toNat core.toNat || decide (s.wt.toNat < c.idleSince.toNat + 2000) then s
    else s.setCoreOf k { c with div := 0 })

/-- CORE_RESTART (R413): a stopped core restarts at ÷1, but not while a trip holds. -/
def execCoreRestart (die : BitVec 2) (core : BitVec 11) (s : State) : Host.Outcome State Fault Refusal :=
  let k := coreKey die.toNat core.toNat
  let c := s.coreOf k
  .next (if !c.on || c.div ≠ 0 || s.pkg.tripped then s else s.setCoreOf k { c with div := 1, idleSince := s.wt })

/-- Every core of a voltage row of the package that is switched on and runs, with its divider changed. -/
def State.rowDiv (s : State) (row : Nat) (f : Nat → Nat) : State :=
  { s with cores := s.cores.mapValues fun k c =>
      if c.on ∧ c.div ≠ 0 ∧ k / 2048 * 128 + vrowOf (k % 2048) = row then { c with div := f c.div } else c }

/-- Every running core at ÷1. -/
def State.allDiv1 (s : State) : State :=
  { s with cores := s.cores.mapValues fun _ c => if c.on ∧ c.div ≠ 0 then { c with div := 1 } else c }

/-- Every row changed. -/
def State.allRows (s : State) (f : Row → Row) : State :=
  (List.range 512).foldl (fun s r => s.modPkg fun x => { x with rows := x.rows.modify r {} f }) s

/-- A row at an operating point. -/
def Row.at (p : Nat) (r : Row) : Row := { r with point := p, raise := none, lower := none }

/-- A row on its way to a point (R413): lower when a revolution begins, the present instant included; higher once its voltage, raised
now, has stood for 10 µs. -/
def Row.moveTo (p wt : Nat) (r : Row) : Row :=
  if p < r.point then { r with raise := some (p, (wt + 20000 + 255) / 256 * 256), lower := none }
  else if r.point < p ∧ wt % 256 ≠ 0 then { r with lower := some p, raise := none }
  else r.at p

/-- A revolution begins: the point decided for the row. -/
def Row.fall (r : Row) : Row :=
  match r.lower with
  | some p => { r with point := p, lower := none }
  | none => r

/-! ## Guard steps (R415, R418, R419) -/

/-- Frequency of a guard step in MHz (R413). -/
def stepMHz (n : Nat) : Nat := 1500 - 150 * n

/-- A guard step takes effect and is announced (R419). -/
def State.setStep (s : State) (n : Nat) : State :=
  (((s.modPkg fun p =>
      { p with
        step := n, stepCap := if p.lease.isSome then p.capW else 0, change := none
        gcnt := p.gcnt + 1, gwt := s.wt }).allRows (Row.at (4 + n))).usageAll fun u =>
    { u with gsteps := u.gsteps + 1, flags := u.flags ||| 0x8 })

/-- Tenant indices of the live paddocks of the package (R412). -/
def State.tenantsLive (s : State) : List Nat :=
  (s.livePads.filterMap fun p => (s.pad? p.1 p.2).map (·.ten)).foldl insertNat []

/-- The guard step of multi-tenant entry (R415): the one taken under the current cap or under a higher one, else step 0. -/
def State.entryStep (s : State) : Nat := if s.pkg.lease.isSome ∧ s.pkg.capW ≤ s.pkg.stepCap then s.pkg.step else 0

/-- Multi-tenant entry begins: every row moves to the guard step. -/
def State.startEntry (s : State) : State :=
  if s.pkg.entering.isSome then s
  else (s.modPkg fun p => { p with entering := some s.entryStep }).allRows (Row.moveTo (4 + s.entryStep) s.wt.toNat)

/-- Every row is at the guard step of the entry under way, and a revolution begins. -/
def State.entered (s : State) : Bool :=
  match s.pkg.entering with
  | some n => decide (s.wt.toNat % 256 = 0) && s.pkg.rows.values.all fun r => r.point == 4 + n
  | none => false

/-- MULTI_TENANT_ENTRY (R415): the rows are at the guard step, every divider goes to ÷1, and the step is announced. -/
def State.enterMulti (s : State) : State :=
  ((s.modPkg fun p => { p with mt := true, entering := none }).setStep (s.pkg.entering.getD 0)).allDiv1

/-- GUARD_STEP_CHANGE (R418): at the second revolution boundary after the decision a step down takes effect; a step up raises
the voltage, and the frequency follows at least 10 µs later. -/
def execGuardStepChange (s : State) : Host.Outcome State Fault Refusal :=
  .next (match s.pkg.change with
    | none => s
    | some c =>
      if c.volt || decide (s.wt.toNat < c.due) || decide (s.wt.toNat % 256 ≠ 0) then s
      else if c.up then s.modPkg fun p => { p with change := some { c with volt := true, due := (s.wt.toNat + 20000 + 255) / 256 * 256 } }
      else s.setStep c.goal)

/-- Rows whose raise is due, at the higher point. -/
def State.raiseRows (s : State) : State :=
  s.modPkg fun p => { p with rows := p.rows.mapValues fun _ r =>
    match r.raise with
    | some (p, t) => if t ≤ s.wt.toNat then r.at p else r
    | none => r }

/-- FREQUENCY_RAISE (R413, R418): raises take effect at a revolution boundary at least 10 µs after their voltages. -/
def execFrequencyRaise (s : State) : Host.Outcome State Fault Refusal :=
  .next (if s.wt.toNat % 256 ≠ 0 then s
    else
      let s := s.raiseRows
      match s.pkg.change with
      | some c => if c.volt && decide (c.due ≤ s.wt.toNat) then s.setStep c.goal else s
      | none => s)

/-! ## The arbiter (R416) -/

/-- Rows with a core that is switched on, by number. -/
def State.rowsOn (s : State) : List Nat :=
  (s.cores.filter fun p => p.2.on).foldl (fun l p => insertNat l (p.1 / 2048 * 128 + vrowOf (p.1 % 2048))) []

/-- Cores of a row with a live context. -/
def State.rowLive (s : State) (row : Nat) : Nat :=
  (s.cores.keys.filter fun k => k / 2048 * 128 + vrowOf (k % 2048) == row && s.coreLive (k / 2048) (k % 2048)).length

/-- The budget of a row in mW: its part of B by cores with live contexts, at least 2 W (R416). -/
def State.rowBudget (s : State) (live row : Nat) : Nat := max 2000 (s.pkg.budget * 1000 * s.rowLive row / max 1 live)

/-- Some core of a row runs at a divider. -/
def State.rowAtDiv (s : State) (row : Nat) : Nat :=
  (s.cores.filter fun p => p.2.on && p.1 / 2048 * 128 + vrowOf (p.1 % 2048) == row).foldl (fun m p => max m p.2.div) 0

/-- One row in single-tenant operation: a point lower while over its budget, then dividers, then marked; a point higher below
90 % with demand. The arbiter leaves a hot row at 1.05 GHz (R422). -/
def State.arbitrateRow (s : State) (live total row : Nat) : State :=
  let r := s.pkg.rows.getD row {}
  let b := s.rowBudget live row
  let wt := s.wt.toNat
  let set (s : State) (r : Row) : State := s.modPkg fun p => { p with rows := p.rows.set row r }
  if r.therm ≠ .normal then s
  else if b < r.power then
    if r.point < 7 then set s { r.moveTo (r.point + 1) wt with excess := false }
    else if s.rowAtDiv row < 4 then set (s.rowDiv row (· + 1)) { r with excess := false }
    else set s { r with excess := true }
  else
    let s := s.rowDiv row fun _ => 1
    if r.power * 10 < b * 9 ∧ 0 < s.rowLive row ∧ total ≤ s.pkg.budget * 1000 ∧ 0 < r.point ∧ r.raise = none then
      set s { r.moveTo (r.point - 1) wt with excess := false }
    else set s { r with excess := false }

/-- A guard step is decided: it is due at the second revolution boundary after the period's end. -/
def State.decideStep (s : State) (n : Nat) (up : Bool) : State :=
  s.modPkg fun p => { p with change := some { goal := n, up := up, due := (s.rev + 2) * 256 } }

/-- Multi-tenant operation at a period's end: the allowance, the marks and the guard step. -/
def State.arbitrateMulti (s : State) (live total : Nat) (rows : List Nat) : State :=
  let b := s.pkg.budget * 1000
  let a := if b < total then s.pkg.allow * b / total else if total * 100 ≤ b * 95 then min (s.pkg.allow + 50) 1000 else s.pkg.allow
  let hot := decide (128 < (s.pkg.rows.filter fun p => p.2.therm == .throttled).length)
  let s := rows.foldl (fun s r => s.modPkg fun p =>
    { p with rows := p.rows.modify r {} fun x => { x with excess := decide (s.rowBudget live r < x.power) } }) s
  let s := s.modPkg fun p => { p with allow := a, calm := if a = 1000 then p.calm + 1 else 0 }
  let n := s.pkg.step
  if s.pkg.change.isSome then s
  else if a ≤ 500 ∧ (b < total ∨ hot) ∧ n < 3 then s.decideStep (n + 1) false
  else if 16 ≤ s.pkg.calm ∧ 0 < n ∧ total * stepMHz (n - 1) * 10 ≤ b * 9 * stepMHz n then s.decideStep (n - 1) true
  else s

/-- The budget of the period that begins: the cap that is pending takes effect while a lease holds, else 1,800 W (R416, R421). -/
def State.takeCap (s : State) : State :=
  s.modPkg fun p =>
    if p.lease.isNone then { p with budget := 1800, capPending := none }
    else
      match p.capPending with
      | some w => { p with capW := w, capPending := none, cseq := p.pendSeq, budget := min 3400 w }
      | none => { p with budget := min 3400 p.capW }

/-- A CREATE is in progress on some die. -/
def State.createWaits (s : State) : Bool := (List.range 4).any fun d => bit (s.dieAt d).pdcmd 63 && bits (s.dieAt d).pdcmd 3 0 == 1

/-- ARBITER_PERIOD (R416): once per 64 µs, on the package power measured. With one tenant or none left the package is single-tenant again (R415). -/
def execArbiterPeriod (s : State) : Host.Outcome State Fault Refusal :=
  let p := s.wt.toNat / 128000
  .next (if p ≤ s.pkg.period then s
    else
      let s := (s.modPkg fun x =>
        { x with
          period := p, mt := x.mt && decide (2 ≤ s.tenantsLive.length)
          entering := if s.createWaits then x.entering else none }).takeCap
      let rows := s.rowsOn
      let live := (rows.map s.rowLive).foldl (· + ·) 0
      let total := s.pkg.power
      if s.pkg.mt then s.arbitrateMulti live total rows
      else
        let s := s.modPkg fun x => { x with allow := 1000, calm := x.calm + 1, change := none }
        if s.pkg.entering.isSome then s else rows.foldl (fun s r => s.arbitrateRow live total r) s)

/-! ## Cap messages (R420, R421) -/

/-- CAP_MESSAGE: a write to word 2 of a die's cap mailbox. -/
def execCapMessage (die : BitVec 2) (v : BitVec 64) (s : State) : Host.Outcome State Fault Refusal :=
  let n := die.toNat
  let d := s.dieAt n
  let res (s : State) (r : BitVec 2) : State := s.modDie n fun x => { x with capRes := r }
  let capw := bits d.cap1 63 48
  let lease := bits d.cap1 31 0
  .next (if !bit v 0 ∨ s.pkg.boot < 3 then s
    else if d.cap0.toNat ≤ s.pkg.capSeq.toNat then res s 1
    else if bits v 63 58 ≠ 0 ∨ bits v 55 1 ≠ 0 ∨ bits d.cap1 47 32 ≠ 0 ∨ capw < 600 ∨ 3400 < capw ∨ lease = 0 ∨ 60000 < lease then
      res s 2
    else res (s.modPkg fun p =>
      { p with
        capSeq := d.cap0
        pendSeq := d.cap0
        capPending := some capw
        lease := some (s.wt.toNat + lease * 2000000) }) 0)

/-- LEASE_EXPIRY (R421): the timer runs out; every paddock's next record says so. -/
def execLeaseExpiry (s : State) : Host.Outcome State Fault Refusal :=
  .next (match s.pkg.lease with
    | none => s
    | some t => if s.wt.toNat < t then s else (s.modPkg fun p => { p with lease := none }).usageAll fun u => { u with flags := u.flags ||| 0x10 })

/-! ## Thermal control (R422) -/

/-- THRESHOLD_WRITE (R422): values from 70 to 105; others are refused. -/
def execThresholdWrite (_die : BitVec 2) (v : BitVec 64) (s : State) : Host.Outcome State Fault Refusal :=
  .next (if s.pkg.boot < 3 ∨ v.toNat < 70 ∨ 105 < v.toNat then s else s.modPkg fun p => { p with threshold := v.setWidth 8 })

/-- One evaluation of a row's sensor. -/
def Row.evaluate (r : Row) (wt : Word) (threshold : Nat) (mt allCool : Bool) : Row :=
  let held := decide (r.since.toNat + 2000000 ≤ wt.toNat)
  match r.therm with
  | .trip => if allCool && held then { r with therm := .throttled, since := wt } else r
  | .normal =>
    if 110 ≤ r.temp then { r with therm := .trip, since := wt }
    else if (threshold : Int) ≤ r.temp ∧ held then
      { (if mt then r else r.moveTo 7 wt.toNat) with therm := .throttled, since := wt }
    else r
  | .throttled =>
    if 110 ≤ r.temp then { r with therm := .trip, since := wt }
    else if r.temp < (threshold : Int) - 3 ∧ held then { r with therm := .normal, since := wt }
    else r

/-- THERMAL_EVALUATION (R422): every 64 wt. A trip stops every core clock when the next revolution begins (State.passRows), and the
clocks restart at ÷1 when it ends. -/
def execThermalEvaluation (s : State) : Host.Outcome State Fault Refusal :=
  let t := s.wt.toNat / 64
  .next (if t ≤ s.pkg.thermTick then s
    else
      let cool := s.pkg.rows.values.all fun r => decide (r.temp < 100)
      let was := s.pkg.tripped
      let s := s.modPkg fun p =>
        { p with
          thermTick := t
          rows := p.rows.mapValues fun _ r => r.evaluate s.wt p.threshold.toNat (p.mt || p.entering.isSome) cool }
      let now := was && s.pkg.rows.values.any fun r => r.therm == .trip
      let s := s.modPkg fun p => { p with tripped := now }
      if was && !now then s.allDiv1 else s)

end Sys2Proof.Machine
end

