-- ==== Sys2Proof/Machine/Paddock.lean ====
section
/-!
DEFINITION. Sys2Proof/Machine/Paddock.lean: paddocks and the stud book: PDCMD (R394 to R396), DESTROY (R399), standing circuits
(R61, R62), usage records and their ring (R402, R403).
-/

namespace Sys2Proof.Machine

/-! ## PDCMD (R395) -/

/-- A command of the given kind is in progress for a slot of a die. -/
def Die.pdBusy (d : Die) (cmd slot : Nat) : Bool := !d.held && bit d.pdcmd 63 && bits d.pdcmd 3 0 == cmd && bits d.pdcmd 7 4 == slot

/-- The command in progress ends with a status. -/
def State.pdDone (s : State) (die status : Nat) : State :=
  s.modDie die fun d => { d with pdcmd := setBits (setBits d.pdcmd 63 63 0) 55 48 status }

/-- Words of a slot of the paddock table as written (R394). -/
def Die.tableWords (d : Die) (slot : Nat) : List Word := d.pdTable.getD slot (List.replicate 8 0)

/-! ## The checks of CREATE (R395) -/

/-- DW of a descriptor. -/
def descDw (ws : List Word) : Nat := bits (ws.getD 2 0) 31 21

/-- A descriptor that breaks R394: BADDESC. -/
def badDesc (ws : List Word) : Bool :=
  let p : Paddock := { desc := ws }
  let w (i : Nat) : Word := ws.getD i 0
  let reserved := bits (w 1) 16 12 != 0 || bits (w 1) 3 0 != 0 || bits (w 2) 9 0 != 0 || bits (w 3) 15 0 != 0 ||
    bits (w 4) 11 0 != 0 || w 5 != 0 || w 6 != 0 || w 7 != 0
  let range (v lo hi : Nat) : Bool := decide (lo ≤ v) && decide (v ≤ hi)
  reserved || p.vreg == 0 || !range p.asidB 1 2047 || !range p.asidN 1 2048 || decide (2048 < p.asidB + p.asidN) ||
    !range p.keyB 16 4095 || !range p.keyN 1 4080 || decide (4096 < p.keyB + p.keyN) || !range p.hsh 1 5120 || p.cts == 0 ||
    !(descDw ws == 0 || range (descDw ws) 16 1024) || decide (256 < p.hbmB + p.hbmN) ||
    !(bits (w 4) 31 12 == 0 || range (bits (w 4) 31 12) 1 3600)

/-- Two ranges of numbers meet. -/
def spansMeet (a m b n : Nat) : Bool := decide (a < b + n) && decide (b < a + m)

/-- Two paddocks share a vault region, an ASID, a key identifier or a GiB. -/
def Paddock.overlaps (p q : Paddock) : Bool :=
  p.vreg &&& q.vreg != 0 || spansMeet p.asidB p.asidN q.asidB q.asidN || spansMeet p.keyB p.keyN q.keyB q.keyN ||
    spansMeet p.hbmB p.hbmN q.hbmB q.hbmN

/-- The first check of R395 that fails before anything is built, or 0. -/
def Die.createCheck (d : Die) (slot : Nat) (ws : List Word) : Nat :=
  let p : Paddock := { desc := ws }
  let live := d.pads.values
  let sum (f : Paddock → Nat) : Nat := (live.map f).foldl (· + ·) (f p)
  if (d.pads.find? slot).isSome then 1
  else if badDesc ws then 2
  else if live.any p.overlaps then 3
  else if 5120 < sum (·.hsh) ∨ 131072 < sum (·.cts) then 4
  else if (d.logical p.vreg).length ≤ p.supv then 5
  else 0

/-! ## Standing circuits (R61 to R63) -/

/-- The relays of a route between two strings, first along the row, then along the column (R62, R63). -/
def relayRoute (a b : Nat) : List Nat :=
  let between (x y : Nat) : List Nat := (List.range (max x y + 1)).filter fun i => decide (min x y ≤ i)
  ((between (a % 8) (b % 8)).map fun k => a / 8 * 8 + k) ++ (between (a / 8) (b / 8)).map fun r => r * 8 + b % 8

/-- Every two strings reach each other over relays of the paddock. -/
def convex (strs : List Nat) : Bool := strs.all fun a => strs.all fun b => (relayRoute a b).all strs.contains

/-- The message bound between two strings, in wt (R63). -/
def msgBound (a b : Nat) : Nat :=
  let dist (x y : Nat) : Nat := max x y - min x y
  2 * (256 + 8) + dist (a % 8) (b % 8) * (256 + 8) + dist (a / 8) (b / 8) * (256 + 1)

/-- DW raised to cover the paddock's worst message bound (R204), over all strings of its regions (log 143). -/
def raisedDw (dw : Nat) (strs : List Nat) : Nat :=
  let worst := strs.foldl (fun m a => strs.foldl (fun m b => max m (msgBound a b)) m) 0
  max (if dw = 0 then 16 else dw) ((worst + 255) / 256)

/-- A standing circuit to be placed: its width, its start slots where they are fixed, and its path. -/
structure Fixed where
  n : Nat := 1
  slots : List Nat := []
  path : List Nat := []
deriving DecidableEq, Repr, Inhabited

/-- The slots of the vault circuit and of the pre-emption circuit on a vertical link (R83). -/
def vaultSlots : List Nat := (List.range 256).filter fun n => n % 64 != 0
def preemptSlots : List Nat := [0, 64, 128, 192]

/-- The standing circuits of a set of strings and vaults, in the order in which they are built (R61, R62). The vault and the
pre-emption circuit hold their slots of the vertical link in both directions (R77, R83). -/
def standingOf (die : Nat) (strs vaults : List Nat) : List Fixed :=
  let row (k : Nat) : Nat := k / 8
  let col (k : Nat) : Nat := k % 8 * 8
  let ep (k : Nat) : Nat := linkKey die (row k) (col k) 4
  let pgCol (k p : Nat) : Nat := 4 * p + k % 4
  let request := strs.flatMap fun k => (List.range 16).map fun p =>
    ({ path := routeXY die (row k) (col k) 0 (pgCol k p) ++ [linkKey die 0 (pgCol k p) 2] } : Fixed)
  let reply := strs.flatMap fun k => (List.range 16).map fun p =>
    ({ path := linkKey die 0 (pgCol k p) 7 :: routeYX die 0 (pgCol k p) (row k) (col k) ++ [ep k] } : Fixed)
  let next (k : Nat) : List Nat :=
    (if k % 8 < 7 then [k + 1] else []) ++ (if 0 < k % 8 then [k - 1] else []) ++ (if k < 248 then [k + 8] else []) ++
      (if 8 ≤ k then [k - 8] else [])
  let neighbour := strs.flatMap fun k => ((next k).filter strs.contains).map fun j =>
    ({ n := 16, path := routeXY die (row k) (col k) (row j) (col j) ++ [ep j] } : Fixed)
  let vertical (n : Nat) (slots : List Nat) : List Fixed := strs.flatMap fun k =>
    [{ n := n, slots := slots, path := [linkKey die (row k) (col k) 5] }, { n := n, slots := slots, path := [upLink die k] }]
  let pairs := vaults.flatMap fun a => (vaults.filter (· != a)).map fun b => (a, b)
  let lateral := pairs.map fun (a, b) =>
    ({ path := routeXY (4 + die) (a / 8) (a % 8) (b / 8) (b % 8) ++ [linkKey (4 + die) (b / 8) (b % 8) 4] } : Fixed)
  let back := pairs.map fun (a, b) =>
    ({ path := routeYX (4 + die) (b / 8) (b % 8) (a / 8) (a % 8) ++ [linkKey (4 + die) (a / 8) (a % 8) 4] } : Fixed)
  request ++ reply ++ neighbour ++ vertical 252 vaultSlots ++ vertical 4 preemptSlots ++ lateral ++ back

/-- One standing circuit placed, at its fixed slots or where the search finds room. -/
def State.placeStanding (s : State) (f : Fixed) : Option (State × Circuit) :=
  if f.slots.isEmpty then s.placeFixed f.n [f.path] {}
  else if f.slots.all fun n => (s.blockedAt f.path n).isNone then
    let offs := s.offsetsFrom 0 f.path
    let chains := (f.slots.zipIdx).map fun p => ({ num := p.2, start := p.1, live := true } : Chain)
    let ws := chainWrites f.path offs 4 (chains.map fun h => (h.num, h.start)) 0 0 0 fun _ => 0
    some (ws.foldl (fun s w => (s.setEntry w.link w.slot w.entry).noteIdle w.link) s,
      { path := f.path, offs := offs, delay := offs.getLastD 0, chains := chains, st := .open, since := s.wt })
  else none

/-- All of them placed, or none. -/
def State.placeAll (s : State) : List Fixed → Option (State × List Circuit)
  | [] => some (s, [])
  | f :: l =>
    match s.placeStanding f with
    | none => none
    | some (s, c) => (State.placeAll s l).map fun r => (r.1, c :: r.2)

/-! ## Usage records (R402, R403) -/

/-- Slot time of a paddock's circuits charged up to now. -/
def State.chargePad (s : State) (die pad : Nat) : State :=
  ((s.yardAt die).circuits.values.filter fun c => c.pad.toNat == pad).foldl (fun s c => s.chargeSlots die c.cid) s

/-- Bytes brought to a length. -/
def fitBytes (n : Nat) (l : List Byte) : List Byte := (l ++ List.replicate n 0).take n

/-- The 256 bytes of a usage record, signed under the usage key (R400). -/
def usageBytes (key : List Byte) (die pad : Nat) (p : Paddock) (flags : Nat) (wt : Word) : List Byte :=
  let u := p.usage
  let prev := match u.ring.getLast? with
    | some r => r
    | none => p.desc.flatMap fun w => natBytes 8 w.toNat
  let body := natBytes 8 u.seq ++ natBytes 8 Config.serial.toNat ++ natBytes 1 die ++ natBytes 1 pad ++ natBytes 1 p.ten ++
    natBytes 1 1 ++ natBytes 4 flags ++ natBytes 8 u.tbeg.toNat ++ natBytes 8 wt.toNat ++ natBytes 8 u.charge ++
    natBytes 8 (u.energy / 1000000) ++ natBytes 8 u.hbm ++ natBytes 8 (u.slotWt / 2000) ++ natBytes 8 u.launches ++ natBytes 4 u.preempts ++
    natBytes 4 u.gsteps ++ natBytes 8 0 ++ shake256 32 prev ++ natBytes 14 0
  body ++ fitBytes 114 (Config.ed448Sign key body)

/-- Wheel ticks of a paddock's stud-book period. -/
def Paddock.studTicks (p : Paddock) : Nat := p.studp * 2000000000

/-- A record emitted for a paddock with the given flags besides those gathered; the next period begins. -/
def State.emitRecord (s : State) (die pad extra : Nat) : State :=
  let s := s.chargePad die pad
  match s.pad? die pad with
  | none => s
  | some p =>
    let u := p.usage
    let quota := if p.eq ≠ 0 ∧ p.eq * 1000000000 ≤ u.energy then 4 else 0
    let lost := if u.unread then 64 else 0
    let flags := u.flags ||| BitVec.ofNat 32 (extra + quota + lost)
    let r := usageBytes s.pkg.trust.usage die pad p flags.toNat s.wt
    let full := decide (256 ≤ u.ring.length)
    let usage : Usage :=
      { seq := u.seq + 1
        tbeg := s.wt
        energy := u.energy % 1000000
        ring := (if full then u.ring.drop 1 else u.ring) ++ [r]
        unread := u.unread || full
        period := s.wt.toNat / p.studTicks }
    s.modDie die fun d => { d with pads := d.pads.set pad { p with usage := usage } }

/-- USAGE_RECORD (R402): at every wheel time that is a multiple of the period. -/
def execUsageRecord (die : BitVec 2) (slot : BitVec 4) (s : State) : Host.Outcome State Fault Refusal :=
  .next (match s.pad? die.toNat slot.toNat with
    | none => s
    | some p => if s.wt.toNat / p.studTicks ≤ p.usage.period then s else s.emitRecord die.toNat slot.toNat 0)

/-- The paddock whose ring a function's stud-book window shows: its own, or for the physical function the one PDCMD last named. -/
def Die.studPad (d : Die) (fn : Nat) : Nat := if fn = 0 then bits d.pdcmd 7 4 else fn - 1

/-- The ring of a paddock, or of the last one that lived in the slot. -/
def State.ringOf (s : State) (die pad : Nat) : List (List Byte) :=
  match s.pad? die pad with
  | some p => p.usage.ring
  | none => s.pkg.oldRings.getD (die * 16 + pad) []

/-- The record with a SEQ. -/
def recordOf (ring : List (List Byte)) (seq : Nat) : Option (List Byte) := ring.find? fun r => bytesNat (r.take 8) == seq

/-- STUD_BOOK_INDEX (R403): the record is exposed; reading one held ends the mark of records overwritten since the last read. -/
def execStudBookIndex (die : BitVec 2) (fn : BitVec 5) (seq : BitVec 64) (s : State) : Host.Outcome State Fault Refusal :=
  let d := die.toNat
  let f := fn.toNat
  .next (if !s.fnOpen d f then s
    else
      let pad := (s.dieAt d).studPad f
      let s := s.modDie d fun x => { x with funcs := x.funcs.modify f {} fun y => { y with studIdx := seq } }
      if (recordOf (s.ringOf d pad) seq.toNat).isSome then s.modUsage d pad fun u => { u with unread := false } else s)

/-! ## CREATE (R396) -/

/-- A tenant present on the die for the first time starts with empty buckets (R73, R212). -/
def Tokens.forget (t : Tokens) (ten : Nat) : Tokens :=
  { t with buckets := t.buckets.erase ten, shares := t.shares.erase ten, debts := t.debts.filter fun p => p.1 / 256 != ten && p.1 % 256 != ten }

def State.forgetTenant (s : State) (die ten : Nat) : State :=
  let s := s.modDie die fun d => { d with coreTime := d.coreTime.forget ten }
  { s with pgs := s.pgs.mapValues fun k p => if k / 16 = die then { p with tokens := p.tokens.forget ten } else p }

/-- Every core of a set of strings, good or not. -/
def coresOf (strs : List Nat) : List Nat := strs.flatMap fun k => (List.range 8).map (coreAt k)

/-- Channel, barrier and deque state in its reset value; the core is switched on and its clock runs (R396, R414). -/
def Core.create (c : Core) (wt : Word) : Core :=
  { c with
    on := true
    div := 1
    idleSince := wt
    csr := SMap.set (c.csr.filter fun p => !(decide (Csr.chcfg ≤ p.1) && decide (p.1 < Csr.chptr + 8))) Csr.stealctl 6
    bars := []
    deque := []
    spill := []
    lean := []
    leanBars := []
    recs := []
    batch := []
    batchWin := 0
    granted := false
    last := none
    stealPos := 0
    stealRev := 0 }

/-- The standing circuits of a descriptor. -/
def standingPaths (die : Nat) (ws : List Word) : List Fixed :=
  let p : Paddock := { desc := ws }
  standingOf die (regionStrs p.vreg) ((List.range 64).filter fun v => bit p.vreg v)

/-- The paddock of a descriptor is built; nothing is where the keys, the relays or the slots fail. -/
def State.build (s : State) (die slot : Nat) (ws : List Word) : Except Nat State :=
  let p : Paddock := { desc := ws }
  let strs := regionStrs p.vreg
  if s.pkg.bootFail.contains 9 then .error 6
  else if !convex strs then .error 7
  else
    match s.placeAll (standingPaths die ws) with
    | none => .error 8
    | some (s, circuits) =>
      let s := (List.range p.keyN).foldl (fun s i => s.freshKey die (p.keyB + i)) s
      let s := if (s.dieAt die).tenants.contains p.ten then s else s.forgetTenant die p.ten
      let s := ((s.dieAt die).logical p.vreg).foldl (fun s c => s.modCore (coreKey die c) fun x => x.create s.wt) s
      let p := { p with
        dw := raisedDw (descDw ws) strs
        standing := circuits
        admitMs := s.wt.toNat / 2000000
        usage := { tbeg := s.wt, period := s.wt.toNat / p.studTicks } }
      let s := s.modDie die fun d => { d with pads := d.pads.set slot p }
      let s := (s.modPkg fun x => { x with oldRings := x.oldRings.erase (die * 16 + slot) }).emitRecord die slot 1
      .ok (s.modDie die fun d => { d with funcs := d.funcs.modify (slot + 1) {} fun f =>
        { f with enabled := true, lqs := [], ctrSel := 0, studIdx := 0 } })

/-- A paddock of a tenant would make the package multi-tenant (R412). -/
def State.joinsMulti (s : State) (ten : Nat) : Bool := !s.pkg.mt && decide (2 ≤ (insertNat s.tenantsLive ten).length)

/-- CREATE (R396): a package that has been admitted to a domain and is not yet aligned lets it wait (R44), links that lie at half width
wake before its standing circuits are written across them (R69), and the rows are at the guard step before it makes the package
multi-tenant (R415). -/
def execCreate (die : BitVec 2) (slot : BitVec 4) (s : State) : Host.Outcome State Fault Refusal :=
  let d := die.toNat
  let n := slot.toNat
  .next (if !(s.dieAt d).pdBusy 1 n || (s.pkg.member && !s.pkg.aligned) || decide (s.pkg.boot < 5) then s
    else
      let ws := (s.dieAt d).tableWords n
      let s := s.tdispError d n
      match (s.dieAt d).createCheck n ws with
      | 0 =>
        let paths := (standingPaths d ws).map (·.path)
        match s.build d n ws, s.joinsMulti ({ desc := ws } : Paddock).ten with
        | .error e, _ => s.pdDone d e
        | .ok t, multi =>
          if paths.any s.asleep then s.wakeLinks paths.flatten
          else if !multi then t.pdDone d 0
          else if !s.entered then s.startEntry
          else
            match s.enterMulti.build d n ws with
            | .error e => s.pdDone d e
            | .ok t => t.pdDone d 0
      | e => s.pdDone d e)

/-- PADDOCK_READ (R395): the live descriptor, with its delivery window as raised, stands in the table slot. -/
def execPaddockRead (die : BitVec 2) (slot : BitVec 4) (s : State) : Host.Outcome State Fault Refusal :=
  let d := die.toNat
  .next (if !(s.dieAt d).pdBusy 3 slot.toNat then s
    else
      match s.pad? d slot.toNat with
      | none => s.pdDone d 1
      | some p =>
        (s.modDie d fun x => { x with pdTable := x.pdTable.set slot.toNat (setAt p.desc 2 (setBits (p.word 2) 31 21 p.dw)) }).pdDone d 0)

/-! ## DESTROY (R399) -/

/-- Something of the paddock's posted reductions, engine commands or accesses is still under way. -/
def State.padBusy (s : State) (die pad : Nat) : Bool :=
  let mine (a : Agent) (l : LaunchInfo) : Bool := a.die == die && l.pad.toNat == pad && decide (a.ctx < 3)
  s.reqs.any (fun r => r.ipkg == s.pkg.number && mine r.agent r.launch) ||
    s.allPosted.any (fun p => (!p.peer || p.ipkg == s.pkg.number) && mine p.agent p.launch) ||
    (s.strs.filter fun x => x.1 / 256 == die).any (fun (_, x) => x.queue.values.any fun c => c.launch.pad.toNat == pad && c.fin.isNone) ||
    (s.dieAt die).payloads.any fun p => (s.lcores die pad).contains p.agent.core

/-- A string stopped by DESTROY: one that a request names, or that is held, is free and held until a release names it (R379). -/
def PreState.stopped (p : PreState) : PreState :=
  if p.named || p.held || p.choice.isSome && !p.restored then { held := true, choice := some (p.choice.getD .idle), releasing := p.releasing }
  else {}

/-- What a string keeps when it is stopped: the requests of its retired engine commands, which run on (R399), and its hold. -/
def Str.stopped (x : Str) : Str :=
  { x with
    gang := none, muster := none, brLog := [], window := [], waiters := [], held := x.held.filter fun r => r.slot.isSome, traps := []
    pre := x.pre.stopped }

/-- Step 1: every string stops without a save, what its cores hold is discarded, and its launches are to end ABORTED (R215). -/
def State.stopPad (s : State) (die pad : Nat) (p : Paddock) : State :=
  let strs := regionStrs p.vreg
  let cores := coresOf strs
  let here (core : Nat) : Bool := cores.contains core
  let good := (s.dieAt die).logical p.vreg
  let s := cores.foldl (fun s c => s.dropSaved die c) s
  let s := { s with
    ctxs := s.ctxs.filter fun x => !(x.1 / 8192 == die && here (x.1 / 4 % 2048))
    images := s.images.filter fun x => !(x.1 / 2048 == die && here (x.1 % 2048))
    cores := s.cores.mapValues fun k c => if k / 2048 = die ∧ good.contains (k % 2048) then c.create s.wt else c }
  let s := strs.foldl (fun s k => s.modStr die k Str.stopped) s
  s.modDie die fun d =>
    { d with
      msgs := d.msgs.filter fun m => !here m.core
      acks := d.acks.filter fun a => !here a.core
      joins := d.joins.filter fun j => !here j.core
      bmsgs := d.bmsgs.filter fun b => !here b.core
      steals := d.steals.filter fun x => !here x.1
      cmds := d.cmds.filter fun c => !((c.agent.map fun a => here a.core).getD false)
      tlbis := d.tlbis.filter fun t => t.hw || !here t.agent.core
      launches := d.launches.mapValues fun _ l => if l.info.pad.toNat = pad then { l with aborted := true, live := 0 } else l
      pads := d.pads.set pad { p with phase := 1 } }

/-- The paddock's requested circuits. -/
def State.padCircuits (s : State) (die pad : Nat) : List Circuit := (s.yardAt die).circuits.values.filter fun c => c.pad.toNat == pad

/-- Step 3: the paddock's requested circuits close as by R57 (R60); what has not been granted is dropped. -/
def State.closePad (s : State) (die pad : Nat) (p : Paddock) : State :=
  let cores := coresOf (regionStrs p.vreg)
  let s := s.modYard die fun y =>
    { y with
      reqs := y.reqs.filter fun r => r.pad.toNat != pad
      waiting := y.waiting.filter fun r => r.pad.toNat != pad
      accepts := y.accepts.filter fun a => !cores.contains a.1.core }
  (s.padCircuits die pad).foldl (fun s c =>
    if c.st = .closing then s
    else if c.chains.isEmpty then s.freeCircuit die c.cid
    else s.removeChains die c 0 c.latest) s

/-- Step 3: the handles that the paddock exported are revoked (R31). -/
def State.revokePad (s : State) (die : Nat) (hs : List Nat) : State :=
  hs.foldl (fun s h => if handleRv ((s.dieAt die).handle h) then s else s.sendNotice die h) s

/-- Live handles of the paddock's ASIDs. -/
def Die.padHandles (d : Die) (p : Paddock) : List Nat :=
  (d.handles.filter fun x => handleV x.2 && decide (p.asidB ≤ handleAsid x.2) && decide (handleAsid x.2 < p.asidB + p.asidN)).map (·.1)

/-- Step 6: every holder of the die forgets the ASIDs of a range. -/
def State.flushAsids (s : State) (die : Nat) (p : Paddock) : State :=
  let mine (a : BitVec 11) : Bool := decide (p.asidB ≤ a.toNat) && decide (a.toNat < p.asidB + p.asidN)
  { s with
    cores := s.cores.mapValues fun k c => if k / 2048 = die then { c with utlb := c.utlb.filter fun e => !mine e.asid } else c
    strs := s.strs.mapValues fun k x =>
      if k / 256 = die then
        { x with etlb := x.etlb.filter (fun e => !mine e.asid), icache := x.icache.filter fun e => !mine e.asid }
      else x
    pgs := s.pgs.mapValues fun k x => if k / 16 = die then { x with tlb := x.tlb.filter (fun e => !mine e.asid), walks := x.walks.filter fun e => !mine e.asid } else x }

/-- Steps 1 and 3 to 8, once nothing of the paddock is under way, its requested circuits are closed and its handles are revoked; its
standing circuits go last (R60). -/
def State.endPad (s : State) (die pad : Nat) (p : Paddock) : State :=
  let s := p.standing.foldl (fun s c => (s.unplace c).wake c.path) s
  let ls := (s.dieAt die).launches.filter fun x => x.2.info.pad.toNat == pad
  let s := ls.foldl (fun s x => s.abortLaunch die x.1 x.2) s
  let mine (a : Nat) : Bool := decide (p.asidB ≤ a) && decide (a < p.asidB + p.asidN)
  let s := s.modDie die fun d =>
    { d with
      streams := d.streams.filter fun x => x.pad.toNat != pad
      keys := d.keys.filter fun x => !(decide (p.keyB ≤ x.1) && decide (x.1 < p.keyB + p.keyN))
      asids := d.asids.filter fun x => !mine x.1
      regions := d.regions.filter fun x => !(bit (x.2.getD 0 0) 63 && mine (bits (x.2.getD 2 0) 31 21)) }
  let s := (s.flushAsids die p).emitRecord die pad 2
  let s := s.modPkg fun x => { x with oldRings := x.oldRings.set (die * 16 + pad) (s.ringOf die pad) }
  let s := s.modDie die fun d =>
    { d with
      pads := d.pads.erase pad
      funcs := d.funcs.modify (pad + 1) {} fun f => { f with enabled := false, lqs := [] } }
  let s := { s with
    cores := s.cores.filter fun x => !(x.1 / 2048 == die && (coresOf (regionStrs p.vreg)).contains (x.1 % 2048)) }
  (regionStrs p.vreg).foldl (fun s k => s.modStr die k fun x => { x with queue := [] }) s

/-- DESTROY (R399): a slot with no live paddock gives LIVE. The command stays in progress while reductions, engine commands,
closes and revocations run to their ends. -/
def execDestroy (die : BitVec 2) (slot : BitVec 4) (s : State) : Host.Outcome State Fault Refusal :=
  let d := die.toNat
  let n := slot.toNat
  .next (if !(s.dieAt d).pdBusy 2 n then s
    else
      match s.pad? d n with
      | none => (s.tdispError d n).pdDone d 1
      | some p =>
        let s := if p.phase = 0 then
            let s := s.tdispError d n
            s.stopPad d n ((s.pad? d n).getD p)
          else s
        if s.padBusy d n then s
        else
          let hs := (s.dieAt d).padHandles p
          let s := if p.phase = 2 then s
            else ((s.closePad d n p).revokePad d hs).modDie d fun x => { x with pads := x.pads.modify n {} fun q => { q with phase := 2 } }
          if !((s.dieAt d).padHandles p).isEmpty || !(s.padCircuits d n).isEmpty then s
          else (s.endPad d n p).pdDone d 0)

end Sys2Proof.Machine
end

