-- ==== Sys2Proof/Machine/Image.lean ====
section
/-!
DEFINITION. Sys2Proof/Machine/Image.lean: what a core's image holds and where (R384, R385), and the reserved areas of a vault (R397).
-/

namespace Sys2Proof.Machine

/-! ## Reserved areas of a vault (R397) -/

/-- The slot index of a core within its vault region. -/
def slotIndex (core : Nat) : Nat := 8 * (core / 64 % 4) + core % 8

/-- Offsets in its vault of a core's lean-to, image slot and checkpoint slot. -/
def leanAt (core : Nat) : Nat := 0x0C00000 + slotIndex core * 2 ^ 18
def imageAt (core : Nat) : Nat := 0x1400000 + slotIndex core * 2 ^ 18
def checkAt (core : Nat) : Nat := 0x1C00000 + slotIndex core * 2 ^ 17

/-- Global address of an offset in the vault beneath a core of a die: a vault is 32 MiB. -/
def vaultByte (die core off : Nat) : Nat := vaultBase die + vaultOf (strOf core) * 2 ^ 25 + off

/-! ## The blocks of an image (R384) -/

/-- Words padded with zeros to a number of them. -/
def padWords (n : Nat) (l : List Word) : List Word := (l ++ List.replicate n 0).take n

def wordBytes (l : List Word) : List Byte := l.flatMap fun w => natBytes 8 w.toNat

/-- The core block. -/
def Core.block (c : Core) : List Word :=
  let regs (r : Nat) : List Word := (List.range 8).map fun j => c.csr.getD (r + j) 0
  padWords 40 (regs Csr.bfmt ++ regs Csr.chcfg ++ regs Csr.chhnd ++ regs Csr.chptr ++ [c.csr.getD Csr.stealctl 0])

/-- Word 7 of the task record of a context's task (R187). -/
def Ctx.word7 (c : Ctx) : Word :=
  word (field c.id.pagent.toNat 51 + field c.id.joff.toNat 34 + field c.launch.lid.toNat 22 + field (bnat c.id.jv) 21)

/-- The string word (R174), with the pending muster of the string. -/
def Ctx.strWord (c : Ctx) (muster : Option Word) : Word :=
  word (field ((muster.getD 0).toNat % 2 ^ 48) 16 + field (bnat c.arrived) 1 + bnat c.att)

/-- The region word. -/
def Ctx.regionWord (c : Ctx) : Word :=
  match c.region with
  | none => 0
  | some r => word (field (r.begin.toNat % 2 ^ 48) 16 + field (bnat r.disc) 1 + 1)

/-- The word of the record that a handler context runs. -/
def Ctx.recWord (c : Ctx) : Word :=
  match c.run with
  | none => 0
  | some r => word (field (r.off % 2 ^ 17) 16 + r.chan.toNat)

/-- Two instruction words in one. -/
def pairWords : List Word32 → List Word
  | [] => []
  | [a] => [a.setWidth 64]
  | a :: b :: l => (b ++ a) :: pairWords l

/-- The system registers that a context block holds between the place of the repeat stream and the live-tile mask, in their order. -/
def blockCsrs : List Nat :=
  [Csr.reppos, Csr.tilepos, Csr.fflags, Csr.fenab, Csr.rngctr, Csr.rphase, Csr.taskj, Csr.msgseq, Csr.fltva, Csr.fltinfo,
    Csr.merrinfo, Csr.raceinfo]

/-- A context block. -/
def Ctx.block (c : Ctx) (muster : Option Word) (handler : Bool) : List Word :=
  let r := c.regs
  let queue (n : Nat) : List Word := padWords 8 (r.getQ n) ++ [word (r.getQ n).length]
  padWords 128 (
    (List.range 27).map (fun j => r.getS (j + 1)) ++ [(r.p &&& 0xFE).setWidth 64] ++ r.e.toList ++ r.h.toList ++
    (List.range 4).flatMap queue ++ padWords 8 (pairWords r.repBuf) ++ [r.pc] ++ blockCsrs.map r.getCsr ++
    [word (c.flog.length + field c.flogLost.toNat 16), r.getCsr Csr.tcause, r.getCsr Csr.tepc, r.getCsr Csr.tstat,
      r.live.setWidth 64, c.strWord muster, c.regionWord, 0, 0, 0, 0] ++
    c.cnt.toList ++ [c.id.wid, c.id.path.setWidth 64, (c.id.path >>> 64).setWidth 64, if handler then 0 else c.word7] ++
    [if handler then c.recWord else 0])

/-- A fault log: 64 entries of four words. -/
def Ctx.logBlock (c : Ctx) : List Word := padWords 256 (c.flog.flatMap fun e => [e.va, e.opnd, e.wt, e.info])

/-- The barriers. -/
def Core.barBlock (c : Core) : List Word := (List.range 512).map fun n => (c.bars.getD n {}).word

/-- A tile's planes. -/
def Tile.bytes (t : Tile) : List Byte := natBytes 2048 t.data.toNat ++ natBytes 512 t.scale.toNat

/-- The tags of a local store. -/
def State.tagBlock (s : State) (die core : Nat) : List Byte :=
  (List.range 2048).map fun j =>
    BitVec.ofNat 8 (joinFields 1 ((List.range 8).map fun i => bnat (s.tag (lsWord die core (8 * (8 * j + i))))))

/-! ## The header (R385) -/

/-- A tile is written: its live bit is 1 and its bytes are not all zero (R365). -/
def Core.writesTile (c : Core) (live : BitVec 32) (n : Nat) : Bool := bit live n && c.tiles.getD n {} != {}

/-- A segment of 1 KiB of a local store holds a byte that is not zero, or a full tag. -/
def State.writesSegment (s : State) (die core j : Nat) : Bool :=
  let a := lsBase die core + 1024 * j
  (s.mem.any fun x => decide (a ≤ x.1) && decide (x.1 < a + 1024)) || s.full.any fun w => decide (a / 8 ≤ w) && decide (w < a / 8 + 128)

/-- A bit for each of n parts that is written. -/
def partMask (n : Nat) (f : Nat → Bool) : Nat := joinFields 1 ((List.range n).map fun j => bnat (f j))

/-- A context is written: it is neither dormant nor ended. -/
def Ctx.written (c : Ctx) : Bool := c.st == .running || c.st == .parked || c.st == .saved

/-- The image of a core as it stands, in a form and for a request (R385). -/
def State.imageOf (s : State) (die core form req : Nat) (live : BitVec 32) (key : Option Nat) : Image :=
  let c := s.coreOf (coreKey die core)
  let ctx (x : Nat) : Ctx := s.ctxOf (ctxKey die core x)
  { form := BitVec.ofNat 2 form
    barp := c.bars.any fun p => p.2.count != 0
    flogp := BitVec.ofNat 3 (partMask 3 fun x => !(ctx x).flog.isEmpty || (ctx x).flogLost != 0)
    ctxp := BitVec.ofNat 3 (partMask 3 fun x => (ctx x).written)
    tmask := BitVec.ofNat 32 (partMask 32 (c.writesTile live))
    amask := BitVec.ofNat 2 (partMask 2 fun n => bits (if n = 0 then c.acc0 else c.acc1).st 19 18 != 0)
    lsmask := BitVec.ofNat 128 (partMask 128 (s.writesSegment die core))
    wt := s.wt
    req := BitVec.ofNat 16 req
    key := key }

/-- The header's eight words. -/
def Image.header (i : Image) : List Word :=
  [word (field i.form.toNat 40 + field (bnat i.barp) 39 + field i.flogp.toNat 36 + field i.ctxp.toNat 33 + i.tmask.toNat),
    word i.amask.toNat, i.lsmask.setWidth 64, (i.lsmask >>> 64).setWidth 64, i.wt, word i.req.toNat, 0, 0]

/-- The parts of an image that are written: their offsets in its slot and their bytes (R384). -/
def State.imageParts (s : State) (die core : Nat) (i : Image) : List (Nat × List Byte) :=
  let c := s.coreOf (coreKey die core)
  let ctx (x : Nat) : Ctx := s.ctxOf (ctxKey die core x)
  let some_ (n : Nat) (f : Nat → Bool) (g : Nat → Nat × List Byte) : List (Nat × List Byte) := ((List.range n).filter f).map g
  let muster := (s.strAt (homeDie die) (strOf core)).muster
  [(0, wordBytes i.header), (0x40, wordBytes c.block)] ++
    some_ 3 (bit i.ctxp) (fun x => (0x180 + 0x400 * x, wordBytes ((ctx x).block muster (x != 0)))) ++
    some_ 3 (bit i.flogp) (fun x => (0xD80 + 0x800 * x, wordBytes (ctx x).logBlock)) ++
    (if i.barp then [(0x2580, wordBytes c.barBlock)] else []) ++ [(0x3580, s.tagBlock die core)] ++
    some_ 32 (bit i.tmask) (fun n => (0x3D80 + 2560 * n, (c.tiles.getD n {}).bytes)) ++
    some_ 2 (bit i.amask) (fun n => (0x17D80 + 16704 * n, (if n = 0 then c.acc0 else c.acc1).image)) ++
    some_ 128 (bit i.lsmask) fun j => (0x20000 + 1024 * j, s.bytesAt (lsBase die core + 1024 * j) 1024)

/-- The byte ranges of the slot that an image's parts take: offset and length. -/
def Image.ranges (i : Image) : List (Nat × Nat) :=
  let some_ (n : Nat) (f : Nat → Bool) (g : Nat → Nat × Nat) : List (Nat × Nat) := ((List.range n).filter f).map g
  [(0, 0x180)] ++ some_ 3 (bit i.ctxp) (fun x => (0x180 + 0x400 * x, 0x400)) ++
    some_ 3 (bit i.flogp) (fun x => (0xD80 + 0x800 * x, 0x800)) ++ (if i.barp then [(0x2580, 0x1000)] else []) ++ [(0x3580, 0x800)] ++
    some_ 32 (bit i.tmask) (fun n => (0x3D80 + 2560 * n, 2560)) ++ some_ 2 (bit i.amask) (fun n => (0x17D80 + 16704 * n, 16704)) ++
    some_ 128 (bit i.lsmask) fun j => (0x20000 + 1024 * j, 1024)

/-- A word of the vault lies in a part of an image in its core's slot. -/
def Image.takesWord (i : Image) (die core w : Nat) : Bool :=
  let a := vaultByte (homeDie die) core (imageAt core)
  i.ranges.any fun r => decide (a + r.1 ≤ 8 * w) && decide (8 * w < a + r.1 + r.2)

/-- An image kept in its slot: what it is written over takes fresh check bits (R100). -/
def State.keepImage (s : State) (die core : Nat) (i : Image) : State :=
  { s with
    images := s.images.set (coreKey die core) i
    bad := s.bad.filter fun w => !i.takesWord die core w
    soft := s.soft.filter fun w => !i.takesWord die core w }

/-- The serial of the key under which the reserved areas of a core's vault are encrypted: that of KEYB of its paddock (R397). -/
def State.areaKey (s : State) (die core : Nat) : Option Nat :=
  (s.padOfCore die core).bind fun p => (s.pad? die p).bind fun p => s.keyOf die (BitVec.ofNat 12 p.keyB)

/-- A core's image cannot be read: an uncorrectable error has met it, or its key is gone (R101, R397). -/
def State.imageLost (s : State) (die core : Nat) : Bool :=
  match s.images.find? (coreKey die core) with
  | none => false
  | some i => i.lost || i.key != s.areaKey (homeDie die) core || s.bad.any (i.takesWord die core)

end Sys2Proof.Machine
end

