-- ==== Sys2Proof/Machine/Preempt.lean ====
section
/-!
DEFINITION. Sys2Proof/Machine/Preempt.lean: pre-emption: requests and their broadcast (R379 to R381), the stop, the images and
the restore (R382 to R387, R391), CTX.SAVE and CTX.RST (R364).
-/

namespace Sys2Proof.Machine

/-! ## Requests (R379, R387) -/

/-- A request block is refused: a reserved field is set, or REASON is 3 to 15. -/
def preRefused (ws : List Word) : Bool :=
  let w0 := ws.getD 0 0
  ws.length != 6 || bits w0 59 48 != 0 || decide (2 < bits w0 63 60) || bits (ws.getD 5 0) 63 1 != 0

/-- Physical string k is named. -/
def preNames (ws : List Word) (k : Nat) : Bool := bit (ws.getD (1 + k / 64) 0) (k % 64)

/-- The strings that a request names. -/
def preStrs (ws : List Word) : List Nat := (List.range 256).filter (preNames ws)

/-- The controller takes the next of the waiting requests while it has none: a release acts at once, another is accepted and
broadcast. -/
def State.nextRequest (s : State) (die : Nat) : Nat → State
  | 0 => s
  | fuel + 1 =>
    let d := s.dieAt die
    match d.pre.cur, d.pre.queue with
    | none, ws :: rest =>
      if bit (ws.getD 5 0) 0 then
        let s := s.modDie die fun d => { d with pre := { d.pre with queue := rest } }
        State.nextRequest ((preStrs ws).foldl (fun s k =>
          if (s.strAt die k).pre.held then s.modStr die k fun x => { x with pre := { x.pre with releasing := true } } else s) s)
          die fuel
      else
        let s := s.modDie die fun d => { d with pre := { d.pre with queue := rest, cur := some ws, acceptedAt := s.wt } }
        (preStrs ws).foldl (fun s k => s.modStr die k fun x => { x with pre := { x.pre with named := true } }) s
    | _, _ => s

/-- A request block written by the physical function, taken in order of arrival unless it is refused. -/
def State.preRequest (s : State) (die : Nat) (rel : Bool) (ws : List Word) : State :=
  if preRefused ws || bit (ws.getD 5 0) 0 != rel || (s.dieAt die).held then s
  else
    let s := s.modDie die fun d => { d with pre := { d.pre with queue := d.pre.queue ++ [ws] } }
    s.nextRequest die (s.dieAt die).pre.queue.length

/-- PREEMPTION_REQUEST (R379). -/
def execPreemptionRequest (die : BitVec 2) (words : List (BitVec 64)) (s : State) : Host.Outcome State Fault Refusal :=
  .next (s.preRequest die.toNat false words)

/-- RELEASE (R387). -/
def execRelease (die : BitVec 2) (words : List (BitVec 64)) (s : State) : Host.Outcome State Fault Refusal :=
  .next (s.preRequest die.toNat true words)

/-! ## The choice (R381) -/

/-- The contexts of a string's good cores. -/
def State.strCtxs (s : State) (die str : Nat) : List Agent :=
  ((s.dieAt die).goodCores str).flatMap fun c => (List.range 3).map fun x => { die := die, core := c, ctx := x }

def State.ctxAt (s : State) (a : Agent) : Ctx := s.ctxOf (ctxKey a.die a.core a.ctx)
def State.modCtxAt (s : State) (a : Agent) (f : Ctx → Ctx) : State := s.modCtx (ctxKey a.die a.core a.ctx) f

/-- The live contexts of a string: tasks that have not executed DONE, and handler runs. -/
def State.liveCtxs (s : State) (die str : Nat) : List Agent :=
  (s.strCtxs die str).filter fun a => (s.ctxAt a).live && !(s.ctxAt a).halted

/-- Worst image write with waits: 9 µs. -/
def imageTime : Nat := 18000

/-- Remaining wheel time of a live context, or none for infinity. -/
def State.remaining (s : State) (a : Agent) : Option Nat :=
  let c := s.ctxAt a
  if a.ctx ≠ 0 ∨ c.st = .parked ∨ c.launch.ctbud = 0 then none
  else
    let b := (c.launch.ctbud.toNat + max 1 c.launch.nw - 1) / max 1 c.launch.nw
    some (2000 * b - (c.cnt[0]?.getD 0).toNat)

/-- The discard condition: every live task context has a discardable region and no handler run is in progress. -/
def State.discardable (s : State) (die str : Nat) : Bool :=
  (s.liveCtxs die str).all fun a => a.ctx == 0 && (((s.ctxAt a).region.map (·.disc)).getD false)

def State.setPre (s : State) (die str : Nat) (f : PreState → PreState) : State :=
  s.modStr die str fun x => { x with pre := f x.pre }

/-- PREEMPT_BROADCAST (R381): the named string chooses. One that is held already keeps its earlier choice (R393). -/
def execPreemptBroadcast (die : BitVec 2) (str : BitVec 8) (s : State) : Host.Outcome State Fault Refusal :=
  let d := die.toNat
  let k := str.toNat
  let p := (s.strAt d k).pre
  .next (match (s.dieAt d).pre.cur with
    | none => s
    | some ws =>
      if !p.named || p.releasing || p.writing then s
      else if p.held then s.setPre d k fun p => { p with named := false }
      else
        let t := s.wt.toNat - (s.dieAt d).pre.acceptedAt.toNat
        let dl := max 20000 (bits (ws.getD 0 0) 31 0) - t
        let live := s.liveCtxs d k
        let rems := live.map s.remaining
        let rem := (rems.map (·.getD 0)).foldl max 0
        let choice : PreChoice :=
          if live.isEmpty then .idle
          else if rems.all (·.isSome) && decide (rem + imageTime ≤ dl) then .drain
          else if s.discardable d k then .discard
          else .save
        s.setPre d k fun p =>
          { p with named := false, choice := some choice, arrival := s.wt, d := dl, held := choice == .idle, restored := false })

/-- FALLBACK (R381): at a + D − M a draining string with live contexts discards or saves them. -/
def execFallback (die : BitVec 2) (str : BitVec 8) (s : State) : Host.Outcome State Fault Refusal :=
  let d := die.toNat
  let k := str.toNat
  let p := (s.strAt d k).pre
  .next (if p.choice != some .drain || p.writing || p.held || (s.liveCtxs d k).isEmpty ||
      decide (s.wt.toNat + imageTime < p.arrival.toNat + p.d) then s
    else s.setPre d k fun p => { p with choice := some (if s.discardable d k then .discard else .save) })

/-- DRAIN_END (R382): no context of a draining string is live, and its images are written. -/
def execDrainEnd (die : BitVec 2) (str : BitVec 8) (s : State) : Host.Outcome State Fault Refusal :=
  let d := die.toNat
  let k := str.toNat
  let p := (s.strAt d k).pre
  .next (if p.choice != some .drain || p.held || !(s.liveCtxs d k).isEmpty then s
    else s.setPre d k fun p => { p with writing := true })

/-! ## The stop (R380, R383, R391) -/

/-- A global access of a context is under way, or its answer has not been taken (R292, R380). -/
def State.accessOpen (s : State) (a : Agent) : Bool :=
  let c := s.ctxAt a
  (c.st == .running && (c.wait.memPending || c.waitRep.memPending)) ||
    s.reqs.any fun r => r.slot.isNone && r.agent.same a

/-- An answer has come to a context, or is on its way to it, for a request of its that has been served. -/
def State.answerDue (s : State) (a : Agent) : Bool :=
  (match (s.ctxAt a).wait with
    | .answered _ => true
    | _ => false) ||
    (match (s.ctxAt a).waitRep with
    | .answered _ => true
    | _ => false) ||
    ((s.dieAt a.die).bmsgs.any fun m => m.agent.same a && m.reply.isSome) || (s.yardAt a.die).accepts.any fun x => x.1.same a

/-- A running context has not yet come to a boundary at which it may stop. -/
def State.notStopped (s : State) (a : Agent) : Bool :=
  let c := s.ctxAt a
  c.saving.isNone &&
    (s.accessOpen a || (c.st == .running && (s.answerDue a || c.pendFp || c.pendFpRep || c.pendOvf)))

/-- What a stopped context's instruction still waits for is withdrawn, since it executes from its start when the context goes on
(R367): arrivals and queries at barriers, circuit requests, table commands and its place among those that wait for an entry of the
command queue. An invalidation runs on; the instruction asks again (R35). -/
def State.forget (s : State) (a : Agent) : State :=
  let mine (b : Agent) : Bool := b.same a
  let s := s.modDie a.die fun d =>
    { d with
      tlbis := d.tlbis.map fun t => if mine t.agent && !t.hw then { t with agent := { t.agent with ctx := 3 } } else t
      bmsgs := d.bmsgs.filter fun m => !mine m.agent
      cmds := d.cmds.filter fun c => !((c.agent.map mine).getD false && (c.table == 0 || c.cmd != 2)) }
  let s := s.modYard a.die fun y =>
    { y with reqs := y.reqs.filter (fun r => !mine r.agent), accepts := y.accepts.filter fun x => !mine x.1 }
  let s := s.modStr a.die (strOf a.core) fun x => { x with waiters := x.waiters.filter fun w => !mine w.1 }
  { s with cores := s.cores.mapValues fun _ c =>
      if c.leanBars.isEmpty then c else { c with leanBars := c.leanBars.filter fun m => !mine m.agent } }

/-- The buffered stores of a stopped context's open region committed before its save (R383): its instruction, which executes again from
its start, waits for nothing more. A fault parks the context, and leaves one that is parked already as it is; it ends the commit (log 148). -/
def State.commitFor (s : State) (a : Agent) : State :=
  let done (s : State) : State := s.modMe fun c => { c with saving := some false, wait := .idle }
  match (s.ctxAt a).saving with
  | some false => s
  | x =>
    let s := if x.isSome then s
      else (s.forget a).modCtxAt a fun c => { c with saving := some true, wait := .idle, waitRep := .idle, prog := none, progRep := none }
    s.onBehalf { a with rep := false } fun s =>
      s.endDisc.commitLines (fun r s => done (if s.me.st = .running then s.trapReply r else s)) 65 done

/-- A discard of a context's region (R391): the checkpoint's registers, tiles, accumulators and channel registers, and C7. An arrival at a
muster is withdrawn, and the string's pending muster stays (log 144). -/
def State.discardFor (s : State) (a : Agent) : State :=
  match (s.ctxAt a).region with
  | none => s
  | some r =>
    let s := s.onBehalf a fun s => s.count 7 r.retired
    let s := (s.forget a).modCtxAt a fun c =>
      { c with
        st := .running, regs := r.ck.regs, region := none, wait := .idle, waitRep := .idle, prog := none, progRep := none
        pendFp := false, pendFpRep := false, arrived := false, wpos := r.ck.wpos }
    s.modCore (coreKey a.die a.core) fun c =>
      { c with
        tiles := r.ck.tiles
        acc0 := r.ck.acc0
        acc1 := r.ck.acc1
        csr := r.chanCfg.foldl (fun m n =>
          [Csr.chcfg + n, Csr.chhnd + n, Csr.chptr + n].foldl (fun m j => m.set j (r.ck.chans.getD j 0)) m) c.csr }

/-! ## Images (R384 to R386) -/

/-- An uncorrectable error stands in what a core's image would be written from (R101). -/
def State.imageError (s : State) (die core : Nat) : Bool :=
  let c := s.coreOf (coreKey die core)
  let live := (s.task die core).regs.live
  let a := lsBase die core / 8
  (c.badTiles.any fun w => bit live (w / 320)) || !c.badAccs.isEmpty || s.bad.any fun w => decide (a ≤ w) && decide (w < a + 2 ^ 14)

/-- What an image elides reads as its restored value: tiles that are not live, accumulators in MODE 00, barriers that are all
uninitialised; the deque moves to the spill area (R190, R383, R385). -/
def Core.elide (c : Core) (live : BitVec 32) : Core :=
  { c with
    tiles := c.tiles.filter fun p => bit live p.1
    badTiles := c.badTiles.filter fun w => bit live (w / 320)
    softTiles := c.softTiles.filter fun w => bit live (w / 320)
    acc0 := if bits c.acc0.st 19 18 = 0 then {} else c.acc0
    acc1 := if bits c.acc1.st 19 18 = 0 then {} else c.acc1
    bars := if c.bars.all fun p => p.2.count == 0 then [] else c.bars
    deque := []
    spill := c.deque ++ c.spill }

/-- A context as its image holds it: live ones are saved, a parked one with TSTAT.STATE 01, others are restored dormant. An
instruction that waits is executed again from its start (R367). -/
def Ctx.save (c : Ctx) : Ctx :=
  match c.st with
  | .running => { c with st := .saved, wait := .idle, waitRep := .idle, prog := none, progRep := none, saving := none }
  | .parked => { c with st := .saved, saving := none, regs := c.regs.setCsr Csr.tstat (setBits (c.regs.getCsr Csr.tstat) 1 0 1) }
  | .ended => { c with st := .dormant }
  | .terminated => { c with st := .dormant }
  | _ => c

/-- A context lost with its image: its launch ends FATAL (R101). -/
def State.loseCtx (s : State) (a : Agent) : State :=
  let st := (s.ctxAt a).st
  if st = .running ∨ st = .parked ∨ st = .saved then s.terminate a else s

/-- A core's image written in a form. -/
def State.writeImage (s : State) (die core : Nat) (form req : Nat) : State :=
  let agents : List Agent := (List.range 3).map fun x => { die := die, core := core, ctx := x }
  let s := if s.imageError die core then agents.foldl State.loseCtx s else s
  let s := s.modCore (coreKey die core) (·.elide (s.task die core).regs.live)
  let s := agents.foldl (fun s a => (s.forget a).modCtxAt a Ctx.save) s
  s.keepImage die core (s.imageOf die core form req (s.task die core).regs.live (s.areaKey die core))

def PreChoice.form : PreChoice → Nat
  | .discard => 1
  | .save => 2
  | _ => 0

/-- After a discard the leader's branches from its place on are decided anew, and the window is empty (R169, R391). -/
def State.trimBranches (s : State) (die str : Nat) : State :=
  let lead := ((s.attached die str).head?.map fun j => (s.task die (coreAt str j)).wpos).getD 0
  s.modStr die str fun x => { x with brLog := x.brLog.filter fun b => decide (b.1 < lead) }

/-- The string's stop: its stores committed or its regions discarded, then one image for every core. -/
def State.writeImages (s : State) (die str : Nat) (ch : PreChoice) (req : Nat) : State :=
  let live := s.liveCtxs die str
  let s := match ch with
    | .save => live.foldl State.commitFor s
    | .discard => (live.foldl State.discardFor s).trimBranches die str
    | _ => s
  if live.any fun a => s.accessOpen a || (s.ctxAt a).saving == some true then s
  else
    let s := ((s.dieAt die).goodCores str).foldl (fun s c => s.writeImage die c ch.form req) s
    let s := match ((s.dieAt die).goodCores str).head?.bind (s.padOfCore die) with
      | some p => s.modUsage die p fun u => { u with preempts := u.preempts + 1 }
      | none => s
    s.modStr die str fun x => { x with window := [], pre := { x.pre with writing := false, held := true } }

/-- IMAGES_WRITTEN (R386): every context has stopped, the images are complete, and the string is free and held. -/
def execImagesWritten (die : BitVec 2) (str : BitVec 8) (s : State) : Host.Outcome State Fault Refusal :=
  let d := die.toNat
  let k := str.toNat
  let p := (s.strAt d k).pre
  let req := (((s.dieAt d).pre.cur.map fun ws => bits (ws.getD 0 0) 47 32)).getD 0
  .next (match p.choice with
    | none => s
    | some ch =>
      if p.held || ch == .idle || (ch == .drain && !p.writing) || ((s.strCtxs d k).any fun a => (s.ctxAt a).live && s.notStopped a)
      then s
      else s.writeImages d k ch req)

/-! ## Response, release, restore (R379, R387) -/

def PreChoice.code : Option PreChoice → Nat
  | some .drain => 1
  | some .discard => 2
  | some .save => 3
  | _ => 0

/-- The eight words of a response. -/
def State.preResponse (s : State) (die : Nat) (ws : List Word) : List Word :=
  (List.range 8).map fun i => word (((List.range 32).map fun j =>
    let k := 32 * i + j
    if preNames ws k then field (PreChoice.code (s.strAt die k).pre.choice) (2 * j) else 0).foldl (· + ·) 0)

/-- PREEMPTION_RESPONSE (R379): every named string is free. -/
def execPreemptionResponse (die : BitVec 2) (s : State) : Host.Outcome State Fault Refusal :=
  let d := die.toNat
  .next (match (s.dieAt d).pre.cur with
    | none => s
    | some ws =>
      if (preStrs ws).all fun k => (s.strAt d k).pre.held && !(s.strAt d k).pre.named then
        (s.modDie d fun x =>
          { x with pre := { x.pre with cur := none, response := s.preResponse d ws
                                       respId := BitVec.ofNat 16 (bits (ws.getD 0 0) 47 32) } }).nextRequest d
          (s.dieAt d).pre.queue.length
      else s)

/-- A saved context restored: it runs on, or stays parked with TSTAT.STATE 00. -/
def Ctx.restore (c : Ctx) : Ctx :=
  if c.st ≠ .saved then c
  else if bits (c.regs.getCsr Csr.tstat) 1 0 = 1 then
    { c with st := .parked, regs := c.regs.setCsr Csr.tstat (setBits (c.regs.getCsr Csr.tstat) 1 0 0) }
  else { c with st := .running }

/-- A core's image read back, and the messages in its lean-to delivered again (R387). -/
def State.restoreCore (s : State) (die core : Nat) : State :=
  let agents : List Agent := (List.range 3).map fun x => { die := die, core := core, ctx := x }
  let s := if s.imageLost die core then agents.foldl State.loseCtx s else agents.foldl (fun s a => s.modCtxAt a Ctx.restore) s
  let s := ({ s with images := s.images.erase (coreKey die core) } : State).countWaiting die core
  ((List.range 8).foldl (fun s n => s.moveLean die core n (s.coreOf (coreKey die core)).lean.length) s).rebatch die core

/-- RESTORE_COMPLETE (R387): a restored gang waits for a dispatch round. -/
def execRestoreComplete (die : BitVec 2) (str : BitVec 8) (s : State) : Host.Outcome State Fault Refusal :=
  let d := die.toNat
  let k := str.toNat
  let p := (s.strAt d k).pre
  .next (if !p.releasing || !p.held then s
    else
      let s := s.setPre d k fun _ => {}
      let s := ((s.dieAt d).goodCores k).foldl (fun s c => s.restoreCore d c) s
      if (s.liveCtxs d k).isEmpty then s else s.setPre d k fun p => { p with restored := true })

/-! ## CTX.SAVE and CTX.RST (R364) -/

/-- What waits for acceptance or may still be read past belongs to the contexts of a core wherever they are. -/
def State.relabel (s : State) (d c d' c' : Nat) : State :=
  let f (a : Agent) : Agent := if a.die = d ∧ a.core = c then { a with die := d', core := c' } else a
  { s with
    older := s.older.map fun p => (p.1, p.2.map fun o => { o with agent := f o.agent, seen := o.seen.map fun x => (f x.1, x.2) })
    dies := s.dies.mapValues fun _ x =>
      { x with msgs := x.msgs.map fun m => { m with src := f m.src }, acks := x.acks.map f } }

/-- System registers of a core that an image holds: the channels' and the bank formats', and STEALCTL. -/
def inImage (n : Nat) : Bool := n == Csr.stealctl || (decide (Csr.bfmt ≤ n) && decide (n < Csr.chptr + 8))

/-- What an image holds (R384) moved from one place, a core or its image slot, to another: contexts, registers of the core, tiles,
accumulators, barriers, channel records with the lean-to, and the local store with its tags. The place it leaves has no channel
enabled. -/
def State.moveUnit (s : State) (d c d' c' : Nat) : State :=
  let x := s.coreOf (coreKey d c)
  let a := lsBase d c
  let l := s.bytesAt a (2 ^ 17)
  let tags := (s.full.filter fun w => decide (a / 8 ≤ w) && decide (w < a / 8 + 2 ^ 14)).map fun w => w - a / 8 + lsBase d' c' / 8
  let s := s.modCore (coreKey d' c') fun t =>
    { t with
      csr := (x.csr.filter fun p => inImage p.1).foldl (fun m p => m.set p.1 p.2) (t.csr.filter fun p => !inImage p.1)
      tiles := x.tiles, acc0 := x.acc0, acc1 := x.acc1, bars := x.bars, recs := x.recs, lean := x.lean, leanBars := x.leanBars
      batch := x.batch, batchWin := x.batchWin, last := x.last, badTiles := [], badAccs := [], softTiles := x.softTiles
      softAccs := x.softAccs }
  let s := s.modCore (coreKey d c) fun t =>
    { t with csr := t.csr.filter fun p => !(decide (Csr.chcfg ≤ p.1) && decide (p.1 < Csr.chptr + 8))
             bars := [], recs := [], lean := [], leanBars := [], batch := [] }
  let s := [0, 1, 2].foldl (fun s n =>
    (s.setCtxOf (ctxKey d' c' n) (s.ctxOf (ctxKey d c n))).setCtxOf (ctxKey d c n) {}) s
  let s := (s.clearLs d' c').putBytes (lsBase d' c') l
  { s with full := tags.foldl insertNat s.full }.relabel d c d' c'

/-- The contexts of a core. -/
def coreAgents (die core : Nat) : List Agent := [0, 1, 2].map fun x => { die := die, core := core, ctx := x }

/-- A core's contexts have stopped, and nothing that they have issued is under way (R364, R383). -/
def State.quiet (s : State) (die core : Nat) : Bool :=
  (coreAgents die core).all fun a =>
    !s.accessOpen a && !((s.ctxAt a).live && s.notStopped a) && !s.fenceBusy a [0, 1, 2, 3, 4] 11 && (s.cmdsOf a).isEmpty

/-- A parked task's image is written into its core's slot, and the core is free; an error in what is written loses the task
(R101, R364). -/
def State.saveTask (s : State) (die core : Nat) : State :=
  if s.imageError die core then s.loseCtx { die := die, core := core }
  else
    let s := s.modCore (coreKey die core) (·.elide (s.task die core).regs.live)
    let s := (coreAgents die core).foldl (fun s a => (s.forget a).modCtxAt a Ctx.save) s
    let i := s.imageOf die core 2 0 (s.task die core).regs.live (s.areaKey die core)
    let s := s.moveUnit die core (slotDie die) core
    (s.modCore (coreKey die core) fun c => { c with idleSince := s.wt }).keepImage (slotDie die) core i

/-- CTX.SAVE: a parked task context's image is written and its core is freed. The instruction waits while its slot holds another
task, and while what the core's contexts have issued is under way. -/
def execCtxSave (g : BitVec 3) (a : BitVec 5) (s : State) : Host.Outcome State Fault Refusal :=
  .next (if wrongWay s.cur.rep [a] none then s.trap causeIllegal
    else s.guarded g 4 fun s =>
      if !s.meSupv then s.trap causePrivilege
      else s.needIdle fun s => s.withOps [a] none fun vs s =>
        match (s.agentNamed (arg vs 0)).filter fun x => x.ctx == 0 && (s.ctxAt x).st == .parked with
        | none => s.trap causeOperand
        | some x =>
          if s.savedOn x.die x.core || !s.quiet x.die x.core then s
          else
            let s := s.commitFor x
            if (s.ctxAt x).saving == some false && s.quiet x.die x.core then (s.saveTask x.die x.core).finish [a] 4 else s)

/-- A core may take a restored task: it is good, none of its contexts is live, and no work is granted to it. -/
def State.freeCore (s : State) (die dst : Nat) : Bool :=
  (s.task die dst).free && !(s.coreOf (coreKey die dst)).granted && !s.coreHeld die dst &&
    !(s.ctxOf (ctxKey die dst 1)).live && !(s.ctxOf (ctxKey die dst 2)).live

/-- A saved task restored on a core: its context stays parked, and the messages and arrivals that waited for it are delivered. -/
def State.restoreTask (s : State) (die src dst : Nat) : State :=
  let s := (s.moveUnit (slotDie die) src die dst).dropSaved die src
  let s := ((coreAgents die dst).foldl (fun s a => s.modCtxAt a Ctx.restore) s).countWaiting die dst
  ((List.range 8).foldl (fun s n => s.moveLean die dst n (s.coreOf (coreKey die dst)).lean.length) s).rebatch die dst

/-- CTX.RST: a saved task's image is restored on a free core of its string; the context stays parked. -/
def execCtxRst (g : BitVec 3) (b a : BitVec 5) (s : State) : Host.Outcome State Fault Refusal :=
  .next (if wrongWay s.cur.rep [b, a] none then s.trap causeIllegal
    else s.guarded g 4 fun s =>
      if !s.meSupv then s.trap causePrivilege
      else s.withOps [b, a] none fun vs s =>
        let d := s.cur.die
        match (s.agentNamed (arg vs 1)).filter fun x => x.ctx == 0 && s.savedCtx x with
        | none => s.trap causeOperand
        | some x =>
          match (s.physOf d s.me.launch.pad.toNat (arg vs 0).toNat).filter fun dst =>
              strOf dst == strOf x.core && s.freeCore d dst with
          | none => s.trap causeOperand
          | some dst =>
            (if s.imageLost (slotDie d) x.core then s.endSaved d x.core else s.restoreTask d x.core dst).finish [b, a] 4)

end Sys2Proof.Machine
end

