-- ==== Sys2Proof/Machine/Trust.lean ====
section
/-!
DEFINITION. Sys2Proof/Machine/Trust.lean: the trust die: SPDM messages and sessions, confidential streams (R405), IDE streams
and TDISP interfaces (R409). The bytes of answers are uninterpreted (Config).
-/

namespace Sys2Proof.Machine

/-! ## SPDM (R405) -/

/-- The SPDM connection of a die's physical function. -/
def State.spdmAt (s : State) (die : Nat) : Spdm := s.pkg.spdm.getD die {}
def State.setSpdm (s : State) (die : Nat) (x : Spdm) : State := { s with pkg := { s.pkg with spdm := s.pkg.spdm.set die x } }

/-- The answer that refuses a message. -/
def spdmError : List Byte := Config.spdmFixed 3

/-- A message served once the connection has reached a stage and PCIe trains (R411): the new connection; else an error answer. -/
def State.spdm (s : State) (die : BitVec 2) (stage : Nat) (f : Spdm → Spdm) : State :=
  let x := s.spdmAt die.toNat
  if s.pkg.boot < 3 then s
  else if x.stage < stage then s.setSpdm die.toNat { x with resp := spdmError }
  else s.setSpdm die.toNat (f x)

/-- VERSION: the connection begins. -/
def execVersion (die : BitVec 2) (s : State) : Host.Outcome State Fault Refusal :=
  .next (s.spdm die 0 fun x => { x with stage := 1, resp := Config.spdmFixed 0 })

/-- CAPABILITIES. -/
def execCapabilities (die : BitVec 2) (s : State) : Host.Outcome State Fault Refusal :=
  .next (s.spdm die 1 fun x => { x with stage := max x.stage 2, resp := Config.spdmFixed 1 })

/-- ALGORITHMS: Ed448, secp384r1, AES-256-GCM and SHA3-512 are agreed. -/
def execAlgorithms (die : BitVec 2) (s : State) : Host.Outcome State Fault Refusal :=
  .next (s.spdm die 2 fun x => { x with stage := 3, resp := Config.spdmFixed 2 })

/-- The certificate chain of slot 0 (alias) or 1 (usage), and its digest (R400, R405). -/
def State.chain (s : State) (slot : Nat) : List Byte :=
  Config.certChain s.pkg.trust.identity (if slot = 0 then s.pkg.trust.alias_ else s.pkg.trust.usage)
def State.chainDigest (s : State) (slot : Nat) : List Byte := Config.certDigest (s.chain slot)

/-- A message with its signature under the alias key (R400). -/
def State.signed (s : State) (body : List Byte) : List Byte := body ++ Config.ed448Sign s.pkg.trust.alias_ body

/-- Measurement n from 1 to 4 (R404). -/
def State.measurement (s : State) (n : Nat) : List Byte := s.pkg.measured.getD (n - 1) []

/-- DIGESTS of both certificate slots. -/
def execDigests (die : BitVec 2) (s : State) : Host.Outcome State Fault Refusal :=
  .next (s.spdm die 3 fun x => { x with resp := s.chainDigest 0 ++ s.chainDigest 1 })

/-- CERTIFICATE: a part of the chain of slot 0 (alias) or 1 (usage). -/
def execCertificate (die : BitVec 2) (certSlot : BitVec 4) (offset len : BitVec 16) (s : State) : Host.Outcome State Fault Refusal :=
  .next (s.spdm die 3 fun x =>
    { x with resp := if certSlot.toNat < 2 then ((s.chain certSlot.toNat).drop offset.toNat).take len.toNat else spdmError })

/-- CHALLENGE: signed under the alias key (R400). -/
def execChallenge (die : BitVec 2) (certSlot : BitVec 4) (nonce : List (BitVec 8)) (s : State) : Host.Outcome State Fault Refusal :=
  .next (s.spdm die 3 fun x =>
    { x with resp := if certSlot.toNat < 2 then s.signed (s.chainDigest certSlot.toNat ++ nonce) else spdmError })

/-- MEASUREMENTS: blocks 1 to 4 hold the digests of R404; block 0 answers their number and block 255 all of them. -/
def execMeasurements (die : BitVec 2) (block : BitVec 8) (nonce : List (BitVec 8)) (s : State) : Host.Outcome State Fault Refusal :=
  .next (s.spdm die 3 fun x =>
    let n := block.toNat
    let body : List Byte := if n = 0 then [4]
      else if n = 255 then [1, 2, 3, 4].flatMap s.measurement
      else s.measurement n
    { x with resp := if n ≤ 4 ∨ n = 255 then s.signed (body ++ nonce) else spdmError })

/-- KEY_EXCHANGE: a session opens with a number of its own and a derived key; FINISH completes it. -/
def execKeyExchange (die : BitVec 2) (share : List (BitVec 8)) (s : State) : Host.Outcome State Fault Refusal :=
  .next (s.spdm die 3 fun x =>
    let n := x.nextSession
    { x with
      sessions := x.sessions.set n (false, Config.sessionKey die.toNat n share)
      nextSession := n + 1
      resp := Config.spdmRandom n })

/-- FINISH: the session stands when its verification holds, and is dropped otherwise. -/
def execFinish (die : BitVec 2) (session : Nat) (verify : List (BitVec 8)) (s : State) : Host.Outcome State Fault Refusal :=
  .next (s.spdm die 3 fun x =>
    match x.sessions.find? session with
    | some (false, k) =>
      if Config.finishOk k verify then { x with sessions := x.sessions.set session (true, k), resp := [] }
      else { x with sessions := x.sessions.erase session, resp := spdmError }
    | _ => { x with resp := spdmError })

/-- Streams cleared from every die's table. -/
def State.dropStreams (s : State) (p : Stream → Bool) : State :=
  { s with dies := s.dies.mapValues fun _ d => { d with streams := d.streams.filter fun x => !p x } }

/-- The connection serves messages of sessions: its algorithms are agreed, and PCIe trains. -/
def State.spdmReady (s : State) (die : Nat) : Bool := decide (3 ≤ s.pkg.boot) && decide (3 ≤ (s.spdmAt die).stage)

/-- END_SESSION: the session ends, and the stream entries bound in it are cleared. -/
def execEndSession (die : BitVec 2) (session : Nat) (s : State) : Host.Outcome State Fault Refusal :=
  .next (match (s.spdmAt die.toNat).sessions.find? session, s.spdmReady die.toNat with
    | none, _ => s.spdm die 3 fun x => { x with resp := spdmError }
    | some _, false => s.spdm die 3 fun x => { x with resp := spdmError }
    | some _, true => (s.spdm die 3 fun x => { x with sessions := x.sessions.erase session, resp := [] }).dropStreams fun x =>
        x.conn == die.toNat && x.session == session)

/-- The key of a session that FINISH has completed, while the connection serves its messages. -/
def State.sessionKey (s : State) (die session : Nat) : Option (BitVec 256) :=
  match (s.spdmAt die).sessions.find? session, s.spdmReady die with
  | some (true, k), true => some k
  | _, _ => none

/-- BIND is refused: no such paddock, the table full, an ASID that is not the paddock's, or a stream that is bound on the die or
not above the paddock's floor. -/
def State.bindRefused (s : State) (die pad asid : Nat) (stream : BitVec 32) : Bool :=
  let d := s.dieAt die
  match d.pads.find? pad with
  | none => true
  | some p => decide (256 ≤ d.streams.length) || !d.ownsAsid pad asid || (d.streams.any fun x => x.id == stream) ||
      decide (stream.toNat ≤ p.floor.toNat)

/-- BIND. -/
def execBind (die : BitVec 2) (session : Nat) (target : BitVec 2) (slot : BitVec 4) (asid : BitVec 11) (stream : BitVec 32)
    (s : State) : Host.Outcome State Fault Refusal :=
  let t := target.toNat
  .next (match s.sessionKey die.toNat session with
    | none => s.spdm die 3 fun x => { x with resp := spdmError }
    | some k =>
      if s.bindRefused t slot.toNat asid.toNat stream then s.spdm die 3 fun x => { x with resp := spdmError }
      else
        let s := s.spdm die 3 fun x => { x with resp := [] }
        s.modDie t fun d =>
          { d with
            streams := d.streams ++ [{ id := stream, asid := asid, pad := slot, conn := die.toNat, session := session
                                       key := Config.streamKey k stream }]
            pads := d.pads.modify slot.toNat {} fun p => { p with floor := stream } })

/-- UNBIND of a stream bound in the session: the entry is cleared and the floor stays. -/
def execUnbind (die : BitVec 2) (session : Nat) (target : BitVec 2) (stream : BitVec 32) (s : State) :
    Host.Outcome State Fault Refusal :=
  let mine (x : Stream) : Bool := x.id == stream && x.conn == die.toNat && x.session == session
  .next (if (s.sessionKey die.toNat session).isNone || !((s.dieAt target.toNat).streams.any mine) then
      s.spdm die 3 fun x => { x with resp := spdmError }
    else (s.spdm die 3 fun x => { x with resp := [] }).modDie target.toNat fun d =>
      { d with streams := d.streams.filter fun x => !mine x })

/-! ## IDE and TDISP (R409) -/

/-- IDE_KM: at most 72 selective streams are keyed. -/
def execIdeKm (die : BitVec 2) (session : Nat) (stream : BitVec 8) (key : BitVec 256) (s : State) : Host.Outcome State Fault Refusal :=
  .next (if (s.sessionKey die.toNat session).isNone ||
      ((s.pkg.ide.find? stream.toNat).isNone && decide (72 ≤ s.pkg.ide.length)) then
      s.spdm die 3 fun x => { x with resp := spdmError }
    else
      let s := s.spdm die 3 fun x => { x with resp := [] }
      { s with pkg := { s.pkg with ide := s.pkg.ide.set stream.toNat key } })

/-- A transition of a function's interface. -/
def State.tdispMove (s : State) (die : BitVec 2) (fn : BitVec 5) (f : Tdisp → Tdisp) : State :=
  if s.pkg.boot < 3 ∨ 16 < fn.toNat then s
  else s.modDie die.toNat fun d => { d with funcs := d.funcs.modify fn.toNat {} fun x => { x with tdisp := f x.tdisp } }

/-- LOCK_INTERFACE: CONFIG_UNLOCKED to CONFIG_LOCKED. -/
def execLockInterface (die : BitVec 2) (fn : BitVec 5) (s : State) : Host.Outcome State Fault Refusal :=
  .next (s.tdispMove die fn fun t => if t = .unlocked then .locked else t)

/-- START_INTERFACE: CONFIG_LOCKED to RUN. -/
def execStartInterface (die : BitVec 2) (fn : BitVec 5) (s : State) : Host.Outcome State Fault Refusal :=
  .next (s.tdispMove die fn fun t => if t = .locked then .run else t)

/-- STOP_INTERFACE: to CONFIG_UNLOCKED, from ERROR too. -/
def execStopInterface (die : BitVec 2) (fn : BitVec 5) (s : State) : Host.Outcome State Fault Refusal :=
  .next (s.tdispMove die fn fun _ => .unlocked)

end Sys2Proof.Machine
end

