-- ==== Sys2Proof/Machine/HostPort.lean ====
section
/-!
DEFINITION. Sys2Proof/Machine/HostPort.lean: the registers of BAR0 as the host reads and writes them (R403, R406 to R408, R419 to
R422), and memory requests through a function (R409).
-/

namespace Sys2Proof.Machine

/-! ## Device status counters (R408) -/

/-- COUNTER_CLEAR (R408): a write of zero clears one counter. -/
def execCounterClear (die : BitVec 2) (offset : BitVec 16) (v : BitVec 64) (s : State) : Host.Outcome State Fault Refusal :=
  .next (if v ≠ 0 ∨ s.pkg.boot < 3 then s
    else s.modDie die.toNat fun d =>
      match offset.toNat with
      | 0x4808 => { d with misroute := 0 }
      | 0x4810 => { d with lostCompl := 0 }
      | 0x4818 => { d with eccCor := 0 }
      | 0x4820 => { d with eccUnc := 0 }
      | 0x4828 => { d with linkFail := 0 }
      | _ => d)

/-! ## The management window (R408) -/

/-- The system register that an offset of the window stands for. -/
def windowReg (off : Nat) : Option Nat :=
  [(0x4000, Csr.asidsel), (0x4008, Csr.asiddat0), (0x4010, Csr.asiddat1), (0x4018, Csr.asidcmd), (0x4020, Csr.hndsel),
    (0x4028, Csr.hnddat), (0x4030, Csr.hnddat + 1), (0x4038, Csr.hnddat + 2), (0x4040, Csr.hnddat + 3), (0x4048, Csr.hndcmd),
    (0x4050, Csr.rrsel), (0x4058, Csr.rrdat), (0x4060, Csr.rrdat + 1), (0x4068, Csr.rrdat + 2), (0x4070, Csr.rrdat + 3),
    (0x4078, Csr.rrcmd), (0x4080, Csr.slotsel), (0x4088, Csr.slotdat)].lookup off

/-- A command of the host for one of the tables, with the rights of the physical function. -/
def Die.hostCmd (d : Die) (table : BitVec 2) (v : Word) (sel dat count : Nat) : Die :=
  { d with cmds := d.cmds ++
      [{ table := table, cmd := v.toNat, sel := (d.win.getD sel 0).toNat
         words := (List.range count).map fun j => d.win.getD (dat + j) 0, pf := true }] }

/-- A write of a command register: a value that is not listed is refused with ERR; a REVOKE or REMOVE sets BUSY. -/
def Die.windowCmd (d : Die) (n : Nat) (v : Word) : Die :=
  if v = 0 ∨ 3 < v.toNat ∨ n = Csr.asidcmd ∧ v = 3 then { d with win := d.win.set n (errWord true) }
  else
    let d := if n = Csr.asidcmd then d.hostCmd 0 v Csr.asidsel Csr.asiddat0 2
      else if n = Csr.hndcmd then d.hostCmd 1 v Csr.hndsel Csr.hnddat 4
      else d.hostCmd 2 v Csr.rrsel Csr.rrdat 4
    if n ≠ Csr.asidcmd ∧ v = 2 then { d with win := d.win.set n (word (2 ^ 62)) } else d

/-- A write of a register of the window: a select register ignores a write that sets a reserved bit. -/
def Die.windowWrite (d : Die) (n : Nat) (v : Word) : Die :=
  if n = Csr.asidcmd ∨ n = Csr.hndcmd ∨ n = Csr.rrcmd then d.windowCmd n v
  else
    match csrMask n with
    | some (rw, ro) => if v &&& ~~~(rw ||| ro) = 0 then { d with win := d.win.set n ((d.win.getD n 0 &&& ~~~rw) ||| (v &&& rw)) } else d
    | none => d

/-! ## Register writes (R232, R394, R395, R408, R420) -/

/-- A write of PDCMD: ignored while BUSY; commands 1 to 3 begin, other values set BADDESC. -/
def Die.pdWrite (d : Die) (v : Word) : Die :=
  if bit d.pdcmd 63 then d
  else
    let cmd := bits v 3 0
    let keep := setBits (setBits d.pdcmd 7 4 (bits v 7 4)) 3 0 cmd
    if 1 ≤ cmd ∧ cmd ≤ 3 then { d with pdcmd := setBits keep 63 63 1 } else { d with pdcmd := setBits keep 55 48 2 }

/-- A write of a register of the physical function alone. Of a die that is held in reset only the cap mailbox takes one (R411). -/
def State.pfWrite (s : State) (die off : Nat) (v : Word) : State :=
  if (s.dieAt die).held ∧ off ≠ 0x2800 ∧ off ≠ 0x2808 then s
  else if 0x1000 ≤ off ∧ off < 0x1400 then
    let slot := (off - 0x1000) / 64
    (s.tdispError die slot).modDie die fun d =>
      { d with pdTable := d.pdTable.set slot (setAt (d.tableWords slot) ((off - 0x1000) / 8 % 8) v) }
  else if off = 0x1400 then s.modDie die fun d => d.pdWrite v
  else if off = 0x2800 then s.modDie die fun d => { d with cap0 := v }
  else if off = 0x2808 then s.modDie die fun d => { d with cap1 := v }
  else
    match windowReg off with
    | some n => s.modDie die fun d => d.windowWrite n v
    | none => s

/-- A write of a BAR0 register that has no step of its own: LQnBASE, the counter selector, and those of the physical function.
Reserved bits, and read-only registers, leave everything as it is. -/
def State.registerWrite (s : State) (die fn off : Nat) (v : Word) : State :=
  if !s.fnOpen die fn || off % 8 != 0 then s
  else if off < 0x100 then
    (if off % 32 = 8 ∧ bits v 4 0 = 0 then s.setLq die fn (off / 32) { s.lq die fn (off / 32) with base := v } else s)
  else if off = 0x400 then
    (if bits v 63 13 ≠ 0 then s
     else s.modDie die fun d => { d with funcs := d.funcs.modify fn {} fun f => { f with ctrSel := v } })
  else if fn = 0 then s.pfWrite die off v
  else s

/-- REGISTER_WRITE. -/
def execRegisterWrite (die : BitVec 2) (fn : BitVec 5) (offset : BitVec 16) (v : BitVec 64) (s : State) :
    Host.Outcome State Fault Refusal :=
  .next (s.registerWrite die.toNat fn.toNat offset.toNat v)

/-- A change of a function's BAR: a locked interface moves to ERROR (R409). -/
def State.changeBar (s : State) (die fn : Nat) (v : Word) : State :=
  (s.fnError die fn).modDie die fun d => { d with funcs := d.funcs.modify fn {} fun f => { f with bar := v } }

/-! ## Register reads -/

/-- The context that a function's counter selector names (R408): the core's own, or the one in the core's image slot while the task
that it held is saved and no other has started there. -/
def State.counterCtx (s : State) (die fn : Nat) : Option Ctx :=
  let sel := ((s.dieAt die).funcs.getD fn {}).ctrSel
  if bits sel 1 0 = 3 then none
  else ((s.dieAt die).fnPad fn).bind fun p => (s.physOf die p (bits sel 12 2)).map fun c =>
    let own := s.ctxOf (ctxKey die c (bits sel 1 0))
    if own.st = .dormant ∧ s.savedOn die c then s.ctxOf (ctxKey (slotDie die) c (bits sel 1 0)) else own

/-- The tenant-counter window (R408). -/
def State.counterRead (s : State) (die fn off : Nat) : Word :=
  let i := (off - 0x408) / 8
  if off = 0x400 then ((s.dieAt die).funcs.getD fn {}).ctrSel
  else if off < 0x448 then (((s.counterCtx die fn).bind fun c => c.cnt[i]?)).getD 0
  else if off < 0x488 then ((((s.dieAt die).fnPad fn).bind (s.pad? die)).bind fun p => p.tot[i - 8]?).getD 0
  else 0

/-- The power status block (R419). -/
def State.powerRead (s : State) (i : Nat) : Word :=
  let p := s.pkg
  match i with
  | 0 => word (field (bnat p.mt) 63 + field (bnat p.lease.isSome) 62 + field p.step 60 + field p.allow 32 + p.budget)
  | 1 => p.gcnt
  | 2 => p.gwt
  | 3 => p.cseq
  | _ => 0

/-- A word of the stud-book window: the index, or the record it exposes; a record not held reads as zeros (R403). -/
def State.studRead (s : State) (die fn off : Nat) : Word :=
  let d := s.dieAt die
  let seq := (d.funcs.getD fn {}).studIdx
  if off = 0x800 then seq
  else if 0x900 ≤ off ∧ off < 0xA00 then
    word (bytesNat ((((recordOf (s.ringOf die (d.studPad fn)) seq.toNat).getD []).drop (off - 0x900)).take 8))
  else 0

/-- The device status block (R408). -/
def Die.statusRead (d : Die) (off : Nat) : Word :=
  match off with
  | 0x4800 => word (field d.fstep.toNat 8 + d.state.toNat)
  | 0x4808 => d.misroute
  | 0x4810 => d.lostCompl
  | 0x4818 => d.eccCor
  | 0x4820 => d.eccUnc
  | 0x4828 => d.linkFail
  | _ => 0

/-- The reserved bits of a word of a paddock descriptor, which read zero (R9, R394). -/
def padReserved (i : Nat) : Word :=
  match i with
  | 0 => 0
  | 1 => 0x1F00F
  | 2 => 0x3FF
  | 3 => 0xFFFF
  | 4 => 0xFFF
  | _ => 0xFFFFFFFFFFFFFFFF

/-- A register of the management window as it reads: as the system register of its name (R14, R29, R47, R89). -/
def State.windowRead (s : State) (die n : Nat) : Word :=
  let v := (s.dieAt die).win.getD n 0
  if n = Csr.slotdat then s.slotEntry die ((s.dieAt die).win.getD Csr.slotsel 0)
  else if n = Csr.hndcmd then s.hndBusy die v
  else v &&& ~~~datReserved n

/-- A register of the physical function alone; what software may only write reads zero. -/
def State.pfRead (s : State) (die off : Nat) : Word :=
  let d := s.dieAt die
  let i := (off - 0x1000) / 8 % 8
  if 0x1000 ≤ off ∧ off < 0x1400 then (d.tableWords ((off - 0x1000) / 64)).getD i 0 &&& ~~~padReserved i
  else if off = 0x1400 then setBits d.pdcmd 7 0 0
  else if 0x2040 ≤ off ∧ off < 0x2080 then d.pre.response.getD ((off - 0x2040) / 8) 0
  else if off = 0x2810 then word (field d.capRes.toNat 56)
  else if off = 0x2818 then s.pkg.threshold.setWidth 64
  else if 0x3000 ≤ off ∧ off < 0x3400 then (d.supFault.getD ((off - 0x3000) / 64) []).getD ((off - 0x3000) / 8 % 8) 0
  else if 0x4800 ≤ off then d.statusRead off
  else
    match windowReg off with
    | some n => s.windowRead die n
    | none => 0

/-- The value of an 8 B register of BAR0 (R406). -/
def State.registerRead (s : State) (die fn off : Nat) : Word :=
  if off < 0x100 then
    let q := s.lq die fn (off / 32)
    match off % 32 with
    | 0 => q.cfg
    | 8 => q.base
    | 24 => q.head.setWidth 64
    | _ => 0
  else if 0x400 ≤ off ∧ off < 0x800 then s.counterRead die fn off
  else if 0x800 ≤ off ∧ off < 0xC00 then s.studRead die fn off
  else if 0xC00 ≤ off ∧ off < 0xC20 then s.powerRead ((off - 0xC00) / 8)
  else if fn = 0 then s.pfRead die off
  else 0

/-! ## Memory requests (R406, R409) -/

/-- The answer to a host read: its bytes, or none with Unsupported Request. -/
def State.hostAnswer (s : State) (die : Nat) (b : List Byte) : State := s.modDie die fun d => { d with hostOut := d.hostOut ++ [b] }

/-- Bytes of the paddock's memory moved for the host under an ASID that the function's queues may name. -/
def State.hostMemory (s : State) (die fn : Nat) (write : Bool) (asid : BitVec 11) (addr : Word) (len : Nat) (bytes : List Byte) :
    State :=
  let d := s.dieAt die
  if d.held || !d.queueAsidOk fn asid.toNat then (if write then s else s.hostAnswer die [])
  else
    let pad := (d.fnPad fn).getD 0
    let l : LaunchInfo :=
      { asid := asid, pad := BitVec.ofNat 4 pad, pf := fn == 0, ten := BitVec.ofNat 8 (((s.pad? die pad).map (·.ten)).getD 0) }
    if write then (s.mangerWrite die l addr bytes).2
    else
      let (r, t) := s.mangerRead die l addr len
      t.hostAnswer die (r.getD [])

/-- A host write of an 8 B register of BAR0: it is the register's own step where it has one (R208, R403, R408, R420, R422). -/
def hostWrite (die : BitVec 2) (fn : BitVec 5) (off : BitVec 16) (v : Word) (s : State) : Host.Outcome State Fault Refusal :=
  let o := off.toNat
  let q := BitVec.ofNat 3 (o / 32)
  if o < 0x100 ∧ o % 32 = 0 then execLqConfigWrite die fn q v s
  else if o < 0x100 ∧ o % 32 = 16 then execDoorbell die fn q v s
  else if o = 0x800 then execStudBookIndex die fn v s
  else if fn = 0 ∧ o = 0x2810 then execCapMessage die v s
  else if fn = 0 ∧ o = 0x2818 then execThresholdWrite die v s
  else if fn = 0 ∧ 0x4808 ≤ o ∧ o ≤ 0x4828 then execCounterClear die off v s
  else execRegisterWrite die fn off v s

/-- A host write to BAR0: 8 bytes are a register, and 48 bytes at the request block are a pre-emption request or a release (R379,
R387). A write of another length changes nothing. -/
def barWrite (die : BitVec 2) (fn : BitVec 5) (off : BitVec 16) (bytes : List Byte) (s : State) : Host.Outcome State Fault Refusal :=
  if bytes.length = 8 then hostWrite die fn off (word (bytesNat bytes)) s
  else if fn = 0 ∧ off = 0x2000 ∧ bytes.length = 48 then
    let ws := (List.range 6).map fun i => word (bytesNat ((bytes.drop (8 * i)).take 8))
    .next (s.preRequest die.toNat (bit (ws.getD 5 0) 0) ws)
  else .next s

/-- MEMORY_REQUEST: a request to BAR0 or to memory through a function; through one whose memory space is closed it is completed
with Unsupported Request. -/
def execMemoryRequest (die : BitVec 2) (fn : BitVec 5) (write : Bool) (bar : Bool) (asid : BitVec 11) (addr : BitVec 64) (len : Nat)
    (bytes : List (BitVec 8)) (s : State) : Host.Outcome State Fault Refusal :=
  let d := die.toNat
  let f := fn.toNat
  if !s.fnOpen d f then .next (if write then s else s.hostAnswer d [])
  else if !bar then .next (s.hostMemory d f write asid addr len bytes)
  else if write then barWrite die fn (addr.setWidth 16) bytes s
  else .next (if addr.toNat % 8 ≠ 0 then s.hostAnswer d []
    else s.hostAnswer d (natBytes 8 (s.registerRead d f (addr.toNat % 2 ^ 16)).toNat))

end Sys2Proof.Machine
end

