-- ==== Sys2Proof/Machine/MemI.lean ====
section
/-!
DEFINITION. Sys2Proof/Machine/MemI.lean: loads and stores, tagged words, atomics, reductions, fences and QTRY (R270 to R292),
with the 16-bit load and store (R234).
-/

namespace Sys2Proof.Machine

/-! ## Loads and stores -/

/-- Effective address of format D: the base plus the signed immediate scaled by the size (R270). -/
def effective (base : Word) (i : BitVec 7) (n : Nat) : Word := base + i.signExtend 64 * word n

/-- A scalar load of n bytes (R270 to R272, R276, R278). -/
def State.memLoad (s : State) (ls ordered : Bool) (ea : Word) (n : Nat) (k : List Byte → State → State) : State :=
  if ls then
    if lsOutside ea n then s.trapAt causeLsRange ea
    else if ordered && ea.toNat % n != 0 then s.trapAt causeAlign ea
    else s.lsLoad ea.toNat n 0 0 k
  else if (if ordered then ea.toNat % n != 0 else decide (64 < ea.toNat % 64 + n)) then s.trapAt causeAlign ea
  else s.accessOk ea n (.read n) (!ordered) 0 fun l s => k (s.overlay ea.toNat l) s

/-- A scalar store (R270 to R272, R274, R276, R278). -/
def State.memStore (s : State) (ls ordered : Bool) (ea : Word) (l : List Byte) (opField : BitVec 8) (k : State → State) :
    State :=
  let n := l.length
  if ls then
    if lsOutside ea n then s.trapAt causeLsRange ea
    else if ordered && ea.toNat % n != 0 then s.trapAt causeAlign ea
    else if ordered then s.committing fun s => k (s.lsStore ea.toNat l opField)
    else k (s.lsStore ea.toNat l opField)
  else if (if ordered then ea.toNat % n != 0 else decide (64 < ea.toNat % 64 + n)) then s.trapAt causeAlign ea
  else if ordered then s.committing fun s => s.accessOk ea n (.write l) false opField fun _ s => k s
  else s.plainStore ea l opField k

/-- Bytes of an access by its WD field. -/
def wdSize (w : BitVec 2) : Nat := 2 ^ w.toNat

/-- The loaded value, extended with zeros or with the sign (R276). -/
def loadValue (signed : Bool) (l : List Byte) : Word :=
  if signed then iword (sext (8 * l.length) (bytesNat l)) else word (bytesNat l)

/-- A load instruction whose address is a base register plus an offset. -/
def State.loadInstr (s : State) (g : BitVec 3) (ls ordered signed : Bool) (n : Nat) (b a : BitVec 5) (len : Nat)
    (ea : Word → Word) : State :=
  s.instr g [b] (some a) len fun vs s =>
    s.memLoad ls ordered (ea (arg vs 0)) n fun l s => (s.put a (loadValue signed l)).finish [b] len

/-- A store instruction whose address is a base register plus an offset. -/
def State.storeInstr (s : State) (g : BitVec 3) (ls ordered : Bool) (n : Nat) (b a : BitVec 5) (len : Nat)
    (ea : Word → Word) (opField : BitVec 8) : State :=
  s.instr g [b, a] none len fun vs s =>
    s.memStore ls ordered (ea (arg vs 0)) (natBytes n (arg vs 1).toNat) opField fun s => s.finish [b, a] len

def execLd (g : BitVec 3) (sp : BitVec 1) (i : BitVec 7) (w : BitVec 2) (b a : BitVec 5) (s : State) :
    Host.Outcome State Fault Refusal :=
  .next (s.loadInstr g (sp == 1) false false (wdSize w) b a 4 fun x => effective x i (wdSize w))
def execLds (g : BitVec 3) (sp : BitVec 1) (i : BitVec 7) (w : BitVec 2) (b a : BitVec 5) (s : State) :
    Host.Outcome State Fault Refusal :=
  .next (s.loadInstr g (sp == 1) false true (wdSize w) b a 4 fun x => effective x i (wdSize w))
def execLda (g : BitVec 3) (sp : BitVec 1) (i : BitVec 7) (w : BitVec 2) (b a : BitVec 5) (s : State) :
    Host.Outcome State Fault Refusal :=
  .next (s.loadInstr g (sp == 1) true false (wdSize w) b a 4 fun x => effective x i (wdSize w))

/-- The operation field of a store is its WD, that of an STL has KND 001 (R288). -/
def execSt (g : BitVec 3) (sp : BitVec 1) (i : BitVec 7) (w : BitVec 2) (b a : BitVec 5) (s : State) :
    Host.Outcome State Fault Refusal :=
  .next (s.storeInstr g (sp == 1) false (wdSize w) b a 4 (fun x => effective x i (wdSize w)) (w.setWidth 8))
def execStl (g : BitVec 3) (sp : BitVec 1) (i : BitVec 7) (w : BitVec 2) (b a : BitVec 5) (s : State) :
    Host.Outcome State Fault Refusal :=
  .next (s.storeInstr g (sp == 1) true (wdSize w) b a 4 (fun x => effective x i (wdSize w)) (0x20 ||| w.setWidth 8))

def execCLdd (d : BitVec 5) (i : BitVec 6) (s : State) : Host.Outcome State Fault Refusal :=
  .next (s.loadInstr 0 true false false 8 2 d 2 fun x => x + i.setWidth 64 * 8)
def execCStd (a : BitVec 5) (i : BitVec 6) (s : State) : Host.Outcome State Fault Refusal :=
  .next (s.storeInstr 0 true false 8 2 a 2 (fun x => x + i.setWidth 64 * 8) 3)

/-! ## Tagged words (R279 to R281) -/

/-- The checks of a tagged form in order: range, alignment, error; then its step on the word at an offset, whose global word
number is given. -/
def State.tagged (s : State) (ea : Word) (acc : Nat) (k : Nat → State → State) : State :=
  if lsOutside ea 8 then s.trapAt causeLsRange ea
  else if ea.toNat % 8 != 0 then s.trapAt causeAlign ea
  else
    let a := lsBase s.cur.die s.cur.core + ea.toNat
    if s.eccHit a 8 then (s.eccCount s.cur.die).trapReply (.mem ea (merrInfo 2 0 acc 0))
    else k (lsWord s.cur.die s.cur.core ea.toNat) (s.eccCorrect s.cur.die a 8)

/-- The word at an offset of the present core's local store. -/
def State.lsWord64 (s : State) (off : Nat) : Word := word (bytesNat (s.seen s.cur off (s.lsRead off 8)))

/-- A load has observed a word full: the word, and all that the engine write that filled it has written, is ordered before its
agent's later loads (R82, R141). -/
def State.sawFull (s : State) (w : Nat) : State := (s.seeFor s.cur 0 (8 * w) 8).seeMates s.cur 0 w

/-- LDF: a handler may not wait, and a task waits until the word is full. It reads the latest value (log 40). -/
def execLdf (g : BitVec 3) (b a : BitVec 5) (s : State) : Host.Outcome State Fault Refusal :=
  .next (s.instr g [b] (some a) 4 fun vs s =>
    if s.inHandler then s.trap causeHandler
    else s.tagged (arg vs 0) 2 fun w s =>
      if s.tag w then ((((s.put a (s.lsWord64 (arg vs 0).toNat)).sawFull w).setTag w false).endDisc).finish [b] 4 else s)

/-- LDFN: false where the word is empty. It reads the latest value (log 40). -/
def execLdfn (g p : BitVec 3) (b a : BitVec 5) (s : State) : Host.Outcome State Fault Refusal :=
  .next (s.instr g [b] (some a) 4 fun vs s =>
    s.tagged (arg vs 0) 2 fun w s =>
      if s.tag w then
        (((((s.put a (s.lsWord64 (arg vs 0).toNat)).sawFull w).setTag w false).writeP p true).endDisc).finish [b] 4
      else (s.writeP p false).finish [b] 4)

def execSte (g : BitVec 3) (b a : BitVec 5) (s : State) : Host.Outcome State Fault Refusal :=
  .next (s.instr g [b, a] none 4 fun vs s =>
    if s.inHandler then s.trap causeHandler
    else s.tagged (arg vs 0) 1 fun w s =>
      if s.tag w then s
      else (((s.lsPut s.cur.die s.cur.core (arg vs 0).toNat (natBytes 8 (arg vs 1).toNat)).setTag w true).endDisc).finish
        [b, a] 4)

def execSten (g p : BitVec 3) (b a : BitVec 5) (s : State) : Host.Outcome State Fault Refusal :=
  .next (s.instr g [b, a] none 4 fun vs s =>
    s.tagged (arg vs 0) 1 fun w s =>
      if s.tag w then (s.writeP p false).finish [b, a] 4
      else ((((s.lsPut s.cur.die s.cur.core (arg vs 0).toNat (natBytes 8 (arg vs 1).toNat)).setTag w true).writeP p
        true).endDisc).finish [b, a] 4)

/-- TAGSET and TAGCLR. -/
def State.tagInstr (s : State) (g : BitVec 3) (b : BitVec 5) (full : Bool) : State :=
  s.instr g [b] none 4 fun vs s => s.tagged (arg vs 0) 1 fun w s => ((s.setTag w full).endDisc).finish [b] 4

def execTagset (g : BitVec 3) (b : BitVec 5) (s : State) : Host.Outcome State Fault Refusal := .next (s.tagInstr g b true)
def execTagclr (g : BitVec 3) (b : BitVec 5) (s : State) : Host.Outcome State Fault Refusal := .next (s.tagInstr g b false)

/-! ## AMO and CAS (R282 to R284) -/

/-- An atomic on a naturally aligned word; the buffer of a region commits first (R278). -/
def State.atomic (s : State) (g : BitVec 3) (w : BitVec 1) (srcs : List (BitVec 5)) (a : BitVec 5)
    (op : List Word → MemOp) : State :=
  s.instr g srcs (some a) 4 fun vs s =>
    let ea := arg vs 0
    let n := if w = 1 then 8 else 4
    if ea.toNat % n != 0 then s.trapAt causeAlign ea
    else s.committing fun s => s.accessOk ea n (op vs) false 0 fun l s => (s.put a (word (bytesNat l))).finish srcs 4

def execAmo (g : BitVec 3) (w : BitVec 1) (o : BitVec 4) (c b a : BitVec 5) (s : State) :
    Host.Outcome State Fault Refusal :=
  .next (s.atomic g w [b, c] a fun vs => .amo o (w == 1) (arg vs 1))

/-- CAS reads SA as the expected value (R283); a queue in SA is illegal (R273). -/
def execCas (g : BitVec 3) (w : BitVec 1) (c b a : BitVec 5) (s : State) : Host.Outcome State Fault Refusal :=
  .next (s.atomic g w [b, c, a] a fun vs => .cas (w == 1) (arg vs 2) (arg vs 1))

/-! ## Reductions (R285 to R288) -/

/-- A posted reduction with what it aims at and its place, as its core and, for HBM and the peer window, the port group translate
its address (R26, R139, R292; log 149). One whose translation fails counts as within every scope, and is translated again when it is
applied. -/
def State.postAim (s : State) (p : Posted) : Posted × State :=
  let bad : Posted := { p with aim := { failed := true } }
  let d := s.cur.die
  let asid := p.launch.asid.toNat
  if (addrFault p.va p.size).isSome then (bad, s)
  else
    match s.coreTranslate d s.cur.core asid p.va p.size 3 with
    | (.error _, s) => (bad, s)
    | (.ok e, s) =>
      if !e.peer && e.kind != 0 then
        let x := s.pieceOf d e p.va p.size
        ({ p with piece := some x, vault := some x.unit, aim := aimOf [x] }, s)
      else
        match s.pgTranslate d (pgOf p.va) asid p.va p.size 3 with
        | (.error _, s) => (bad, s)
        | (.ok e, s) =>
          if e.peer then ({ p with exporter := e.exporter, aim := { tos := [e.exporter] } }, s)
          else
            let x := s.pieceOf d e p.va p.size
            ({ p with piece := some x, aim := aimOf [x] }, s)

/-- A reduction takes a posting entry and retires; a context with 32 posted reductions waits (R287). One to a vault page is
posted at that vault with the address that the micro-TLB gave it (R26, R94). -/
def State.post (s : State) (srcs : List (BitVec 5)) (p : Posted) : State :=
  if decide (32 ≤ (s.postedOf s.cur).length) then s
  else
    match s.postAim { p with agent := { s.cur with rep := false }, launch := s.me.launch, ident := s.agentId s.cur } with
    | (p, s) =>
      let s := match p.vault with
        | some v => s.setVault s.cur.die v { s.vaultAt s.cur.die v with posted := (s.vaultAt s.cur.die v).posted ++ [p] }
        | none => (s.modPg s.cur.die (pgOf p.va) fun x => { x with posted := x.posted ++ [p] }).noteDemand s.cur.die (pgOf p.va)
      s.endDisc.finish srcs 4

/-- The alignment check and the posting of a reduction at the address SB. -/
def State.reduce (s : State) (g : BitVec 3) (srcs : List (BitVec 5)) (n : Nat) (p : List Word → Posted) : State :=
  s.instr g srcs none 4 fun vs s =>
    if (arg vs 0).toNat % n != 0 then s.trapAt causeAlign (arg vs 0) else s.post srcs { p vs with va := arg vs 0 }

def execRed (g : BitVec 3) (w : BitVec 1) (o : BitVec 4) (c b : BitVec 5) (s : State) :
    Host.Outcome State Fault Refusal :=
  let n := if w = 1 then 8 else 4
  .next (s.reduce g [b, c] n fun vs =>
    { form := 0, op := o, wide := w == 1, opnd := word ((arg vs 1).toNat % 2 ^ (8 * n))
      opField := 0x40 ||| (w.setWidth 8 <<< 4) ||| o.setWidth 8 })

def execRedf (g : BitVec 3) (t : BitVec 1) (c b a : BitVec 5) (s : State) : Host.Outcome State Fault Refusal :=
  let n := if t = 1 then 2 else 4
  .next (s.reduce g [b, c, a] n fun vs =>
    { form := 1, op := t.setWidth 4, opnd := word ((arg vs 1).toNat % 2 ^ (8 * n)), contrib := arg vs 2
      opField := 0x60 ||| t.setWidth 8 })

def execRedfU (g : BitVec 3) (t : BitVec 1) (c b : BitVec 5) (s : State) : Host.Outcome State Fault Refusal :=
  let n := if t = 1 then 2 else 4
  .next (s.reduce g [b, c] n fun vs =>
    { form := 2, op := t.setWidth 4, opnd := word ((arg vs 1).toNat % 2 ^ (8 * n)), opField := 0x80 ||| t.setWidth 8 })

/-! ## Fences (R289, R290) -/

/-- FENCE and FENCE.X: commit, wait, halt on a fault log that is not empty, retire (R104, R139, R140). -/
def State.fence (s : State) (g : BitVec 3) (classes : List Nat) (scope : BitVec 4) : State :=
  s.instrIdle g [] none 4 fun _ s =>
    s.committing fun s =>
      if s.fenceBusy s.cur classes scope.toNat then s
      else if !s.me.flog.isEmpty then s.trap causeAsync
      else (s.orderWrites s.cur classes scope.toNat).retire 4

def execFence (g : BitVec 3) (sc : BitVec 4) (s : State) : Host.Outcome State Fault Refusal :=
  .next (s.fence g [0, 1, 2, 3, 4] sc)
def execFenceX (g y x : BitVec 3) (sc : BitVec 4) (s : State) : Host.Outcome State Fault Refusal :=
  .next (s.fence g [x.toNat, y.toNat] sc)

/-! ## QTRY (R291) -/

def execQtryRd (g p : BitVec 3) (q : BitVec 2) (a : BitVec 5) (s : State) : Host.Outcome State Fault Refusal :=
  .next (if decide (q.toNat < 2) then s.trap causeIllegal
    else s.guarded g 4 fun s =>
      match s.inHandler, s.me.regs.getQ q.toNat with
      | false, v :: l => (((s.modRegs (·.setQ q.toNat l)).put a v).writeP p true).endDisc.retire 4
      | _, _ => (s.writeP p false).retire 4)

def execQtryWr (g p : BitVec 3) (q : BitVec 2) (a : BitVec 5) (s : State) : Host.Outcome State Fault Refusal :=
  .next (if decide (2 ≤ q.toNat) then s.trap causeIllegal
    else s.guarded g 4 fun s =>
      let l := s.me.regs.getQ q.toNat
      if l.length < 8 then ((s.modRegs (·.setQ q.toNat (l ++ [s.readS a]))).writeP p true).endDisc.retire 4
      else (s.writeP p false).retire 4)

end Sys2Proof.Machine
end

