-- ==== Sys2Proof/Machine/Scalar.lean ====
section
/-!
DEFINITION. Sys2Proof/Machine/Scalar.lean: the integer instructions, predicates, extension registers and WID (R226, R244 to
R253), with their 16-bit forms (R234).
-/

namespace Sys2Proof.Machine

/-- Number of leading zero bits (R247). -/
def clz64 (a : Word) : Word := word (64 - (if a = 0 then 0 else Nat.log2 a.toNat + 1))

/-- Number of one bits (R247). -/
def popc64 (a : Word) : Word := word ((List.range 64).countP fun i => bit a i)

/-- Two sources and a result. -/
def State.int2 (s : State) (g : BitVec 3) (c b a : BitVec 5) (f : Word → Word → Word) : Host.Outcome State Fault Refusal :=
  .next (s.compute g [b, c] a 4 fun vs => f (arg vs 0) (arg vs 1))

/-- One source and a result. -/
def State.int1 (s : State) (g : BitVec 3) (b a : BitVec 5) (f : Word → Word) : Host.Outcome State Fault Refusal :=
  .next (s.compute g [b] a 4 fun vs => f (arg vs 0))

def aluAdd (x y : Word) : Word := x + y
def aluSub (x y : Word) : Word := x - y
def aluMul (x y : Word) : Word := x * y
def aluMulh (x y : Word) : Word := BitVec.ofInt 64 (x.toInt * y.toInt / 2 ^ 64)
def aluMulhU (x y : Word) : Word := word (x.toNat * y.toNat / 2 ^ 64)
/-- Quotient toward zero; 0 for a zero divisor, and modulo 2^64 (R248). -/
def aluDiv (x y : Word) : Word := iword (x.toInt.tdiv y.toInt)
def aluDivU (x y : Word) : Word := word (x.toNat / y.toNat)
def aluRem (x y : Word) : Word := iword (x.toInt.tmod y.toInt)
def aluRemU (x y : Word) : Word := word (x.toNat % y.toNat)
def aluShl (x y : Word) : Word := x <<< (y.toNat % 64)
def aluShr (x y : Word) : Word := x >>> (y.toNat % 64)
def aluSra (x y : Word) : Word := x.sshiftRight (y.toNat % 64)
def aluMin (x y : Word) : Word := if x.toInt ≤ y.toInt then x else y
def aluMinU (x y : Word) : Word := if x.toNat ≤ y.toNat then x else y
def aluMax (x y : Word) : Word := if x.toInt ≤ y.toInt then y else x
def aluMaxU (x y : Word) : Word := if x.toNat ≤ y.toNat then y else x

/-- The sign-extended 10-bit immediate. -/
def imm10 (i : BitVec 10) : Word := i.signExtend 64

def execAdd (g : BitVec 3) (c b a : BitVec 5) (s : State) : Host.Outcome State Fault Refusal := s.int2 g c b a aluAdd
def execSub (g : BitVec 3) (c b a : BitVec 5) (s : State) : Host.Outcome State Fault Refusal := s.int2 g c b a aluSub
def execMul (g : BitVec 3) (c b a : BitVec 5) (s : State) : Host.Outcome State Fault Refusal := s.int2 g c b a aluMul
def execMulh (g : BitVec 3) (c b a : BitVec 5) (s : State) : Host.Outcome State Fault Refusal := s.int2 g c b a aluMulh
def execMulhU (g : BitVec 3) (c b a : BitVec 5) (s : State) : Host.Outcome State Fault Refusal := s.int2 g c b a aluMulhU
def execDiv (g : BitVec 3) (c b a : BitVec 5) (s : State) : Host.Outcome State Fault Refusal := s.int2 g c b a aluDiv
def execDivU (g : BitVec 3) (c b a : BitVec 5) (s : State) : Host.Outcome State Fault Refusal := s.int2 g c b a aluDivU
def execRem (g : BitVec 3) (c b a : BitVec 5) (s : State) : Host.Outcome State Fault Refusal := s.int2 g c b a aluRem
def execRemU (g : BitVec 3) (c b a : BitVec 5) (s : State) : Host.Outcome State Fault Refusal := s.int2 g c b a aluRemU
def execAnd (g : BitVec 3) (c b a : BitVec 5) (s : State) : Host.Outcome State Fault Refusal := s.int2 g c b a (· &&& ·)
def execOr (g : BitVec 3) (c b a : BitVec 5) (s : State) : Host.Outcome State Fault Refusal := s.int2 g c b a (· ||| ·)
def execXor (g : BitVec 3) (c b a : BitVec 5) (s : State) : Host.Outcome State Fault Refusal := s.int2 g c b a (· ^^^ ·)
def execShl (g : BitVec 3) (c b a : BitVec 5) (s : State) : Host.Outcome State Fault Refusal := s.int2 g c b a aluShl
def execShr (g : BitVec 3) (c b a : BitVec 5) (s : State) : Host.Outcome State Fault Refusal := s.int2 g c b a aluShr
def execSra (g : BitVec 3) (c b a : BitVec 5) (s : State) : Host.Outcome State Fault Refusal := s.int2 g c b a aluSra
def execMin (g : BitVec 3) (c b a : BitVec 5) (s : State) : Host.Outcome State Fault Refusal := s.int2 g c b a aluMin
def execMinU (g : BitVec 3) (c b a : BitVec 5) (s : State) : Host.Outcome State Fault Refusal := s.int2 g c b a aluMinU
def execMax (g : BitVec 3) (c b a : BitVec 5) (s : State) : Host.Outcome State Fault Refusal := s.int2 g c b a aluMax
def execMaxU (g : BitVec 3) (c b a : BitVec 5) (s : State) : Host.Outcome State Fault Refusal := s.int2 g c b a aluMaxU
def execClz (g : BitVec 3) (b a : BitVec 5) (s : State) : Host.Outcome State Fault Refusal := s.int1 g b a clz64
def execPopc (g : BitVec 3) (b a : BitVec 5) (s : State) : Host.Outcome State Fault Refusal := s.int1 g b a popc64
def execMov (g : BitVec 3) (b a : BitVec 5) (s : State) : Host.Outcome State Fault Refusal := s.int1 g b a id

/-- SEL is never guarded; its G field selects (R247). -/
def execSel (q : BitVec 3) (c b a : BitVec 5) (s : State) : Host.Outcome State Fault Refusal :=
  s.int2 0 c b a fun x y => if s.readP q then x else y

def execAddi (g : BitVec 3) (i : BitVec 10) (b a : BitVec 5) (s : State) : Host.Outcome State Fault Refusal :=
  s.int1 g b a fun x => aluAdd x (imm10 i)
def execAndi (g : BitVec 3) (i : BitVec 10) (b a : BitVec 5) (s : State) : Host.Outcome State Fault Refusal :=
  s.int1 g b a fun x => x &&& imm10 i
def execOri (g : BitVec 3) (i : BitVec 10) (b a : BitVec 5) (s : State) : Host.Outcome State Fault Refusal :=
  s.int1 g b a fun x => x ||| imm10 i
def execXori (g : BitVec 3) (i : BitVec 10) (b a : BitVec 5) (s : State) : Host.Outcome State Fault Refusal :=
  s.int1 g b a fun x => x ^^^ imm10 i
def execShli (g : BitVec 3) (i : BitVec 6) (b a : BitVec 5) (s : State) : Host.Outcome State Fault Refusal :=
  s.int1 g b a fun x => aluShl x (i.setWidth 64)
def execShri (g : BitVec 3) (i : BitVec 6) (b a : BitVec 5) (s : State) : Host.Outcome State Fault Refusal :=
  s.int1 g b a fun x => aluShr x (i.setWidth 64)
def execSrai (g : BitVec 3) (i : BitVec 6) (b a : BitVec 5) (s : State) : Host.Outcome State Fault Refusal :=
  s.int1 g b a fun x => aluSra x (i.setWidth 64)

/-- MOVI (R250). -/
def execMovi (h : BitVec 2) (i : BitVec 16) (a : BitVec 5) (s : State) : Host.Outcome State Fault Refusal :=
  .next (s.compute 0 [] a 4 fun _ => i.signExtend 64 <<< (16 * h.toNat))

/-- One halfword of a word replaced. -/
def putHalf (w : Word) (h : BitVec 2) (i : BitVec 16) : Word := setBits w (16 * h.toNat + 15) (16 * h.toNat) i.toNat

/-- LUI (R250): into a queue it writes the field into zero. -/
def execLui (h : BitVec 2) (i : BitVec 16) (a : BitVec 5) (s : State) : Host.Outcome State Fault Refusal :=
  .next (s.compute 0 [] a 4 fun _ => putHalf (if isQueue a then 0 else s.readS a) h i)

/-- A write of E4 to E7 in the main stream waits for an idle repeat stream (R229); E0 to E3 are written at once. -/
def State.extWait (s : State) (e : BitVec 3) (k : State → State) : State :=
  if decide (4 ≤ e.toNat) then s.needIdle k else k s

/-- EXT, writing an extension register (R226). -/
def execExt (g : BitVec 3) (b : BitVec 5) (e : BitVec 3) (s : State) : Host.Outcome State Fault Refusal :=
  .next (s.instr g [b] none 4 fun vs s => s.extWait e fun s => (s.modRegs (·.setE e.toNat (arg vs 0))).finish [b] 4)

/-- EXT, reading an extension register (R226). -/
def execExtRead (g : BitVec 3) (e : BitVec 3) (a : BitVec 5) (s : State) : Host.Outcome State Fault Refusal :=
  .next (s.compute g [] a 4 fun _ => s.readE e.toNat)

/-- EXTI (R226). -/
def execExti (h : BitVec 2) (i : BitVec 16) (e : BitVec 3) (s : State) : Host.Outcome State Fault Refusal :=
  .next (s.extWait e fun s => (s.modRegs (·.setE e.toNat (putHalf (s.readE e.toNat) h i))).retire 4)

/-- Conditions of CMP and CMPI (R251). -/
def compareInt (cond : Nat) (x y : Word) : Bool :=
  match cond with
  | 0 => x == y
  | 1 => x != y
  | 2 => decide (x.toInt < y.toInt)
  | 3 => decide (y.toInt ≤ x.toInt)
  | 4 => decide (y.toInt < x.toInt)
  | 5 => decide (x.toInt ≤ y.toInt)
  | 6 => decide (x.toNat < y.toNat)
  | 7 => decide (y.toNat ≤ x.toNat)
  | 8 => decide (y.toNat < x.toNat)
  | _ => decide (x.toNat ≤ y.toNat)

def execCmp (g : BitVec 3) (n c b : BitVec 5) (d : BitVec 3) (s : State) : Host.Outcome State Fault Refusal :=
  .next (s.test g [b, c] d 4 fun vs => compareInt n.toNat (arg vs 0) (arg vs 1))

def execCmpi (g : BitVec 3) (i : BitVec 6) (n : BitVec 4) (b : BitVec 5) (d : BitVec 3) (s : State) :
    Host.Outcome State Fault Refusal :=
  .next (s.test g [b] d 4 fun vs => compareInt n.toNat (arg vs 0) (i.signExtend 64))

def execPand (g q p d : BitVec 3) (s : State) : Host.Outcome State Fault Refusal :=
  .next (s.test g [] d 4 fun _ => s.readP p && s.readP q)
def execPor (g q p d : BitVec 3) (s : State) : Host.Outcome State Fault Refusal :=
  .next (s.test g [] d 4 fun _ => s.readP p || s.readP q)
def execPnot (g p d : BitVec 3) (s : State) : Host.Outcome State Fault Refusal :=
  .next (s.test g [] d 4 fun _ => !s.readP p)

/-- The value of field f of a work identifier whose fields have the given widths, field 0 first and most significant
(R160). -/
def widField (widths : List Nat) (f : Nat) (wid : Word) : Word :=
  let below := (widths.drop (f + 1)).foldl (· + ·) 0
  word (wid.toNat / 2 ^ below % 2 ^ widths.getD f 0)

/-- WID (R253). -/
def State.widValue (s : State) (f : Nat) : Word :=
  if s.inHandler then 0
  else if f = 6 then s.me.id.wid
  else if s.me.launch.widths.length ≤ f then 0
  else widField s.me.launch.widths f s.me.id.wid

def execWid (g : BitVec 3) (i : BitVec 10) (a : BitVec 5) (s : State) : Host.Outcome State Fault Refusal :=
  .next (s.compute g [] a 4 fun _ => s.widValue i.toNat)

/-! 16-bit forms (R234): the expansion, with a length of 2. -/

def execCMov (d a : BitVec 5) (s : State) : Host.Outcome State Fault Refusal :=
  .next (s.compute 0 [a] d 2 fun vs => arg vs 0)
def execCAddi (d : BitVec 5) (i : BitVec 6) (s : State) : Host.Outcome State Fault Refusal :=
  .next (s.compute 0 [d] d 2 fun vs => aluAdd (arg vs 0) (i.signExtend 64))
def execCAdd (d a : BitVec 5) (s : State) : Host.Outcome State Fault Refusal :=
  .next (s.compute 0 [d, a] d 2 fun vs => aluAdd (arg vs 0) (arg vs 1))
def execCSub (d a : BitVec 5) (s : State) : Host.Outcome State Fault Refusal :=
  .next (s.compute 0 [d, a] d 2 fun vs => aluSub (arg vs 0) (arg vs 1))
def execCNop (s : State) : Host.Outcome State Fault Refusal := .next (s.retire 2)

end Sys2Proof.Machine
end

