-- ==== Sys2Proof/Machine/Trap.lean ====
section
/-!
DEFINITION. Sys2Proof/Machine/Trap.lean: trap records on their way to the supervisor's ring (R372 to R375), and the physical
function's service of a supervisor that has trapped itself (R377).
-/

namespace Sys2Proof.Machine

/-- Ring index, entries and base of a TSCR (R373). -/
def ringRoom (t : Word) : Bool := bit t 0 && (bits t 31 24 + 256 - bits t 39 32) % 256 != 2 ^ bits t 23 20
def ringOff (t : Word) : Nat := bits t 16 6 * 64 + 64 * (bits t 31 24 % 2 ^ bits t 23 20)

/-- A record written into the ring of a core at TAIL, every word full, and TAIL advanced (R372). -/
def State.ringWrite (s : State) (die core : Nat) (ws : List Word) : State :=
  let t := (s.coreOf (coreKey die core)).csr.getD Csr.tscr 0
  let off := ringOff t
  let s := s.lsPutSeen die core off (ws.flatMap fun w => natBytes 8 w.toNat)
  let s := (List.range 8).foldl (fun s j => s.setTag (lsWord die core (off + 8 * j)) true) s
  s.modCore (coreKey die core) fun c => { c with csr := c.csr.set Csr.tscr (setBits t 31 24 (bits t 31 24 + 1)) }

/-- The first record of a string is offered to its supervisor: written, or held for the next revolution (R372, R374). -/
def State.offerTrap (s : State) (die str : Nat) (r : TrapRec) (rest : List TrapRec) : State :=
  match (s.supvCore die r.pad.toNat).filter fun c =>
      s.supvAt die c && ringRoom ((s.coreOf (coreKey die c)).csr.getD Csr.tscr 0) with
  | some c => (s.modStr die str fun x => { x with traps := rest }).ringWrite die c r.words
  | none => s.modStr die str fun x => { x with traps := { r with held := true, rev := s.rev } :: rest }

/-- TRAP_RECORD (R372): the string's oldest record reaches the supervisor's core. -/
def execTrapRecord (die : BitVec 2) (str : BitVec 8) (s : State) : Host.Outcome State Fault Refusal :=
  .next (match (s.strAt die.toNat str.toNat).traps with
    | [] => s
    | r :: rest => if r.held then s else s.offerTrap die.toNat str.toNat r rest)

/-- TRAP_RECORD_RETRY (R372): a held record is offered again, once per revolution. -/
def execTrapRecordRetry (die : BitVec 2) (str : BitVec 8) (s : State) : Host.Outcome State Fault Refusal :=
  .next (match (s.strAt die.toNat str.toNat).traps with
    | [] => s
    | r :: rest => if r.held && decide (r.rev < s.rev) then s.offerTrap die.toNat str.toNat r rest else s)

/-- The parked contexts of a paddock, in order of core and context code. -/
def State.parkedOf (s : State) (die pad : Nat) : List Agent :=
  (s.lcores die pad).flatMap fun c =>
    ((List.range 3).filter fun x => (s.ctxOf (ctxKey die c x)).st == .parked).map fun x => { die := die, core := c, ctx := x }

/-- SUPERVISOR_RESUME (R374, R377): after a supervisor-fault report the physical function resumes the parked supervisor context at an
address; or, while no supervisor context serves the ring, it terminates every parked context of the paddock, whose launches then end
TRAPPED. -/
def execSupervisorResume (die : BitVec 2) (slot : BitVec 4) (terminate : Bool) (pc : BitVec 64) (s : State) :
    Host.Outcome State Fault Refusal :=
  let d := die.toNat
  .next (match s.supvCore d slot.toNat with
    | none => s
    | some c =>
      let t := s.task d c
      if terminate then
        if t.st == .running && bit ((s.coreOf (coreKey d c)).csr.getD Csr.tscr 0) 0 then s
        else (s.parkedOf d slot.toNat).foldl (fun s a =>
          (s.modLaunch d (s.ctxOf (ctxKey a.die a.core a.ctx)).launch fun l => { l with trapped := true }).terminate a) s
      else if t.st != .parked || bit pc 0 || bits pc 63 48 != 0 then s
      else s.leaveTrap (ctxKey d c 0) pc)

end Sys2Proof.Machine
end

