-- ==== Sys2Proof/Machine/Dispatch.lean ====
section
/-!
DEFINITION. Sys2Proof/Machine/Dispatch.lean: one arm per row of the opcode table.
-/

namespace Sys2Proof.Machine

/-- The meaning of an instruction or event at a state. -/
def exec (i : Instr) (s : State) : Host.Outcome State Fault Refusal :=
  match i with
  | .add g c b a => Sys2Proof.Machine.execAdd g c b a s
  | .sub g c b a => Sys2Proof.Machine.execSub g c b a s
  | .mul g c b a => Sys2Proof.Machine.execMul g c b a s
  | .mulh g c b a => Sys2Proof.Machine.execMulh g c b a s
  | .mulhU g c b a => Sys2Proof.Machine.execMulhU g c b a s
  | .div g c b a => Sys2Proof.Machine.execDiv g c b a s
  | .divU g c b a => Sys2Proof.Machine.execDivU g c b a s
  | .rem g c b a => Sys2Proof.Machine.execRem g c b a s
  | .remU g c b a => Sys2Proof.Machine.execRemU g c b a s
  | .and g c b a => Sys2Proof.Machine.execAnd g c b a s
  | .or g c b a => Sys2Proof.Machine.execOr g c b a s
  | .xor g c b a => Sys2Proof.Machine.execXor g c b a s
  | .shl g c b a => Sys2Proof.Machine.execShl g c b a s
  | .shr g c b a => Sys2Proof.Machine.execShr g c b a s
  | .sra g c b a => Sys2Proof.Machine.execSra g c b a s
  | .min g c b a => Sys2Proof.Machine.execMin g c b a s
  | .minU g c b a => Sys2Proof.Machine.execMinU g c b a s
  | .max g c b a => Sys2Proof.Machine.execMax g c b a s
  | .maxU g c b a => Sys2Proof.Machine.execMaxU g c b a s
  | .clz g b a => Sys2Proof.Machine.execClz g b a s
  | .popc g b a => Sys2Proof.Machine.execPopc g b a s
  | .mov g b a => Sys2Proof.Machine.execMov g b a s
  | .sel q c b a => Sys2Proof.Machine.execSel q c b a s
  | .addi g im b a => Sys2Proof.Machine.execAddi g im b a s
  | .andi g im b a => Sys2Proof.Machine.execAndi g im b a s
  | .ori g im b a => Sys2Proof.Machine.execOri g im b a s
  | .xori g im b a => Sys2Proof.Machine.execXori g im b a s
  | .shli g im b a => Sys2Proof.Machine.execShli g im b a s
  | .shri g im b a => Sys2Proof.Machine.execShri g im b a s
  | .srai g im b a => Sys2Proof.Machine.execSrai g im b a s
  | .movi h im a => Sys2Proof.Machine.execMovi h im a s
  | .lui h im a => Sys2Proof.Machine.execLui h im a s
  | .ext g b e => Sys2Proof.Machine.execExt g b e s
  | .extRead g e a => Sys2Proof.Machine.execExtRead g e a s
  | .exti h im e => Sys2Proof.Machine.execExti h im e s
  | .cmp g n c b d => Sys2Proof.Machine.execCmp g n c b d s
  | .cmpi g im n b d => Sys2Proof.Machine.execCmpi g im n b d s
  | .wid g im a => Sys2Proof.Machine.execWid g im a s
  | .b o => Sys2Proof.Machine.execB o s
  | .bl o => Sys2Proof.Machine.execBl o s
  | .bp p n o => Sys2Proof.Machine.execBp p n o s
  | .jr g b => Sys2Proof.Machine.execJr g b s
  | .ret g => Sys2Proof.Machine.execRet g s
  | .stray => Sys2Proof.Machine.execStray s
  | .muster => Sys2Proof.Machine.execMuster s
  | .done => Sys2Proof.Machine.execDone s
  | .pand g q p d => Sys2Proof.Machine.execPand g q p d s
  | .por g q p d => Sys2Proof.Machine.execPor g q p d s
  | .pnot g p d => Sys2Proof.Machine.execPnot g p d s
  | .rep n l st => Sys2Proof.Machine.execRep n l st s
  | .repReg a l st => Sys2Proof.Machine.execRepReg a l st s
  | .ld g st im w b a => Sys2Proof.Machine.execLd g st im w b a s
  | .lds g st im w b a => Sys2Proof.Machine.execLds g st im w b a s
  | .st g st im w b a => Sys2Proof.Machine.execSt g st im w b a s
  | .lda g st im w b a => Sys2Proof.Machine.execLda g st im w b a s
  | .stl g st im w b a => Sys2Proof.Machine.execStl g st im w b a s
  | .ldf g b a => Sys2Proof.Machine.execLdf g b a s
  | .ldfn g p b a => Sys2Proof.Machine.execLdfn g p b a s
  | .ste g b a => Sys2Proof.Machine.execSte g b a s
  | .sten g p b a => Sys2Proof.Machine.execSten g p b a s
  | .tagset g b => Sys2Proof.Machine.execTagset g b s
  | .tagclr g b => Sys2Proof.Machine.execTagclr g b s
  | .amo g w o c b a => Sys2Proof.Machine.execAmo g w o c b a s
  | .cas g w c b a => Sys2Proof.Machine.execCas g w c b a s
  | .red g w o c b => Sys2Proof.Machine.execRed g w o c b s
  | .redf g t c b a => Sys2Proof.Machine.execRedf g t c b a s
  | .redfU g t c b => Sys2Proof.Machine.execRedfU g t c b s
  | .fence g st => Sys2Proof.Machine.execFence g st s
  | .fenceX g y x st => Sys2Proof.Machine.execFenceX g y x st s
  | .qtryRd g p q a => Sys2Proof.Machine.execQtryRd g p q a s
  | .qtryWr g p q a => Sys2Proof.Machine.execQtryWr g p q a s
  | .fadd g r t c b a => Sys2Proof.Machine.execFadd g r t c b a s
  | .fsub g r t c b a => Sys2Proof.Machine.execFsub g r t c b a s
  | .fmul g r t c b a => Sys2Proof.Machine.execFmul g r t c b a s
  | .ffma g r t c b a => Sys2Proof.Machine.execFfma g r t c b a s
  | .fdiv g r t c b a => Sys2Proof.Machine.execFdiv g r t c b a s
  | .fsqrt g r t b a => Sys2Proof.Machine.execFsqrt g r t b a s
  | .fmin g t c b a => Sys2Proof.Machine.execFmin g t c b a s
  | .fmax g t c b a => Sys2Proof.Machine.execFmax g t c b a s
  | .fcmp g r t c b d => Sys2Proof.Machine.execFcmp g r t c b d s
  | .fcvt g r k j b a => Sys2Proof.Machine.execFcvt g r k j b a s
  | .tadd m p b a d => Sys2Proof.Machine.execTadd m p b a d s
  | .tsub m p b a d => Sys2Proof.Machine.execTsub m p b a d s
  | .tmul m p b a d => Sys2Proof.Machine.execTmul m p b a d s
  | .tfma m p b a d => Sys2Proof.Machine.execTfma m p b a d s
  | .tmax m p b a d => Sys2Proof.Machine.execTmax m p b a d s
  | .tmin m p b a d => Sys2Proof.Machine.execTmin m p b a d s
  | .texp m p a d => Sys2Proof.Machine.execTexp m p a d s
  | .trcp m p a d => Sys2Proof.Machine.execTrcp m p a d s
  | .trsq m p a d => Sys2Proof.Machine.execTrsq m p a d s
  | .tlog m p a d => Sys2Proof.Machine.execTlog m p a d s
  | .tcvt m p a d => Sys2Proof.Machine.execTcvt m p a d s
  | .tred m p x o a d => Sys2Proof.Machine.execTred m p x o a d s
  | .tbcast m p x a d => Sys2Proof.Machine.execTbcast m p x a d s
  | .ttrans m p a d => Sys2Proof.Machine.execTtrans m p a d s
  | .tcmpEq m p b a d => Sys2Proof.Machine.execTcmpEq m p b a d s
  | .tcmpNe m p b a d => Sys2Proof.Machine.execTcmpNe m p b a d s
  | .tcmpLt m p b a d => Sys2Proof.Machine.execTcmpLt m p b a d s
  | .tcmpLe m p b a d => Sys2Proof.Machine.execTcmpLe m p b a d s
  | .tsel m b a d => Sys2Proof.Machine.execTsel m b a d s
  | .tsqz m st a d => Sys2Proof.Machine.execTsqz m st a d s
  | .txpd m p a d => Sys2Proof.Machine.execTxpd m p a d s
  | .trand m p d => Sys2Proof.Machine.execTrand m p d s
  | .tmov m p a d => Sys2Proof.Machine.execTmov m p a d s
  | .tzero m p d => Sys2Proof.Machine.execTzero m p d s
  | .tfill m p st d => Sys2Proof.Machine.execTfill m p st d s
  | .tld m p st a d => Sys2Proof.Machine.execTld m p st a d s
  | .tst m st a d => Sys2Proof.Machine.execTst m st a d s
  | .tldG m p st im a d => Sys2Proof.Machine.execTldG m p st im a d s
  | .tstG m st im a d => Sys2Proof.Machine.execTstG m st im a d s
  | .shpSet g b k => Sys2Proof.Machine.execShpSet g b k s
  | .shpGet g k a => Sys2Proof.Machine.execShpGet g k a s
  | .mma c b a => Sys2Proof.Machine.execMma c b a s
  | .mmaG c b im => Sys2Proof.Machine.execMmaG c b im s
  | .mmas c b a => Sys2Proof.Machine.execMmas c b a s
  | .accClr c => Sys2Proof.Machine.execAccClr c s
  | .accAnch c im => Sys2Proof.Machine.execAccAnch c im s
  | .accDrn c d => Sys2Proof.Machine.execAccDrn c d s
  | .accSend c b a => Sys2Proof.Machine.execAccSend c b a s
  | .accLd c a => Sys2Proof.Machine.execAccLd c a s
  | .accSt c a => Sys2Proof.Machine.execAccSt c a s
  | .cpy g c b a => Sys2Proof.Machine.execCpy g c b a s
  | .cpyW g b a => Sys2Proof.Machine.execCpyW g b a s
  | .cpyWPoll g p b a => Sys2Proof.Machine.execCpyWPoll g p b a s
  | .cpyT g c b a => Sys2Proof.Machine.execCpyT g c b a s
  | .cpyDig g c b a => Sys2Proof.Machine.execCpyDig g c b a s
  | .deal g c b a => Sys2Proof.Machine.execDeal g c b a s
  | .put g c b a => Sys2Proof.Machine.execPut g c b a s
  | .circOpen g b a => Sys2Proof.Machine.execCircOpen g b a s
  | .circWiden g b a => Sys2Proof.Machine.execCircWiden g b a s
  | .circClose g c b a => Sys2Proof.Machine.execCircClose g c b a s
  | .circQ g b a => Sys2Proof.Machine.execCircQ g b a s
  | .send g b a => Sys2Proof.Machine.execSend g b a s
  | .sendn g p b a => Sys2Proof.Machine.execSendn g p b a s
  | .hret g => Sys2Proof.Machine.execHret g s
  | .chanCfg g c b a => Sys2Proof.Machine.execChanCfg g c b a s
  | .spawn g b a => Sys2Proof.Machine.execSpawn g b a s
  | .spawnn g p b a => Sys2Proof.Machine.execSpawnn g p b a s
  | .join g o a => Sys2Proof.Machine.execJoin g o a s
  | .joinn g p o a => Sys2Proof.Machine.execJoinn g p o a s
  | .launch g b a => Sys2Proof.Machine.execLaunch g b a s
  | .launchn g c b d => Sys2Proof.Machine.execLaunchn g c b d s
  | .barInit g b a => Sys2Proof.Machine.execBarInit g b a s
  | .barArr g b a => Sys2Proof.Machine.execBarArr g b a s
  | .barWait g b a => Sys2Proof.Machine.execBarWait g b a s
  | .barTest g c b d => Sys2Proof.Machine.execBarTest g c b d s
  | .trap g k => Sys2Proof.Machine.execTrap g k s
  | .eret g b a => Sys2Proof.Machine.execEret g b a s
  | .brk g => Sys2Proof.Machine.execBrk g s
  | .nop g => Sys2Proof.Machine.execNop g s
  | .idemBegin g => Sys2Proof.Machine.execIdemBegin g s
  | .idemEnd g => Sys2Proof.Machine.execIdemEnd g s
  | .tlbiR g c b a => Sys2Proof.Machine.execTlbiR g c b a s
  | .ctxLive g a => Sys2Proof.Machine.execCtxLive g a s
  | .ctxSave g a => Sys2Proof.Machine.execCtxSave g a s
  | .ctxRst g b a => Sys2Proof.Machine.execCtxRst g b a s
  | .csrr g r a => Sys2Proof.Machine.execCsrr g r a s
  | .csrw g r a => Sys2Proof.Machine.execCsrw g r a s
  | .cMov d a => Sys2Proof.Machine.execCMov d a s
  | .cAddi d im => Sys2Proof.Machine.execCAddi d im s
  | .cAdd d a => Sys2Proof.Machine.execCAdd d a s
  | .cSub d a => Sys2Proof.Machine.execCSub d a s
  | .cLdd d im => Sys2Proof.Machine.execCLdd d im s
  | .cStd a im => Sys2Proof.Machine.execCStd a im s
  | .cB o => Sys2Proof.Machine.execCB o s
  | .cBp p n o => Sys2Proof.Machine.execCBp p n o s
  | .cNop => Sys2Proof.Machine.execCNop s
  | .cRet => Sys2Proof.Machine.execCRet s
  | .cMuster => Sys2Proof.Machine.execCMuster s
  | .cDone => Sys2Proof.Machine.execCDone s
  | .cStray => Sys2Proof.Machine.execCStray s
  | .asidInstall die => Sys2Proof.Machine.execAsidInstall die s
  | .asidLoad die => Sys2Proof.Machine.execAsidLoad die s
  | .exportHandle die => Sys2Proof.Machine.execExportHandle die s
  | .revoke die => Sys2Proof.Machine.execRevoke die s
  | .handleRead die => Sys2Proof.Machine.execHandleRead die s
  | .revokeNotice die im => Sys2Proof.Machine.execRevokeNotice die im s
  | .revokeAck die hnd => Sys2Proof.Machine.execRevokeAck die hnd s
  | .revokeTimeout die hnd => Sys2Proof.Machine.execRevokeTimeout die hnd s
  | .fillRequest die core eng va acc => Sys2Proof.Machine.execFillRequest die core eng va acc s
  | .tlbiBroadcast die => Sys2Proof.Machine.execTlbiBroadcast die s
  | .holderAck die holder => Sys2Proof.Machine.execHolderAck die holder s
  | .peerAccess die pg => Sys2Proof.Machine.execPeerAccess die pg s
  | .accessResponse die core ctx => Sys2Proof.Machine.execAccessResponse die core ctx s
  | .timeExchange offset => Sys2Proof.Machine.execTimeExchange offset s
  | .timeAlign master => Sys2Proof.Machine.execTimeAlign master s
  | .slotForward unit row col => Sys2Proof.Machine.execSlotForward unit row col s
  | .circuitRequest yard => Sys2Proof.Machine.execCircuitRequest yard s
  | .circuitResearch yard im => Sys2Proof.Machine.execCircuitResearch yard im s
  | .circuitDeadline yard im => Sys2Proof.Machine.execCircuitDeadline yard im s
  | .circAcceptance die im => Sys2Proof.Machine.execCircAcceptance die im s
  | .exchangeRequest yard => Sys2Proof.Machine.execExchangeRequest yard s
  | .configurationFlit yard => Sys2Proof.Machine.execConfigurationFlit yard s
  | .chainClear yard im => Sys2Proof.Machine.execChainClear yard im s
  | .linkFailure die link => Sys2Proof.Machine.execLinkFailure die link s
  | .replay yard cid => Sys2Proof.Machine.execReplay yard cid s
  | .laneRepair link => Sys2Proof.Machine.execLaneRepair link s
  | .laneShed link => Sys2Proof.Machine.execLaneShed link s
  | .linkWake link => Sys2Proof.Machine.execLinkWake link s
  | .tokenRefill die pg => Sys2Proof.Machine.execTokenRefill die pg s
  | .hbmAccess die pg ten => Sys2Proof.Machine.execHbmAccess die pg ten s
  | .stopNotice die pg port ten => Sys2Proof.Machine.execStopNotice die pg port ten s
  | .demandBeacon die pg port ten => Sys2Proof.Machine.execDemandBeacon die pg port ten s
  | .goNotice die pg port ten => Sys2Proof.Machine.execGoNotice die pg port ten s
  | .peerForward die point => Sys2Proof.Machine.execPeerForward die point s
  | .relayForward die im => Sys2Proof.Machine.execRelayForward die im s
  | .vaultAccess die vault => Sys2Proof.Machine.execVaultAccess die vault s
  | .reductionApply die pg => Sys2Proof.Machine.execReductionApply die pg s
  | .install die => Sys2Proof.Machine.execInstall die s
  | .remove die => Sys2Proof.Machine.execRemove die s
  | .regionRead die => Sys2Proof.Machine.execRegionRead die s
  | .dealBlock die str slot pg => Sys2Proof.Machine.execDealBlock die str slot pg s
  | .engineExecute die str slot n => Sys2Proof.Machine.execEngineExecute die str slot n s
  | .payloadArrival die im => Sys2Proof.Machine.execPayloadArrival die im s
  | .commandComplete die str slot => Sys2Proof.Machine.execCommandComplete die str slot s
  | .flogClear die core ctx => Sys2Proof.Machine.execFlogClear die core ctx s
  | .raceSweep die vault unit => Sys2Proof.Machine.execRaceSweep die vault unit s
  | .dispatchRound die => Sys2Proof.Machine.execDispatchRound die s
  | .stealRequest die core => Sys2Proof.Machine.execStealRequest die core s
  | .stealReply die im => Sys2Proof.Machine.execStealReply die im s
  | .taskRecordArrival die im => Sys2Proof.Machine.execTaskRecordArrival die im s
  | .taskStart die core => Sys2Proof.Machine.execTaskStart die core s
  | .joinWordWrite die im => Sys2Proof.Machine.execJoinWordWrite die im s
  | .messageArrival die im => Sys2Proof.Machine.execMessageArrival die im s
  | .messageAck die im => Sys2Proof.Machine.execMessageAck die im s
  | .messageResend die im => Sys2Proof.Machine.execMessageResend die im s
  | .handlerStart die core hc => Sys2Proof.Machine.execHandlerStart die core hc s
  | .batch die core => Sys2Proof.Machine.execBatch die core s
  | .barrierArrival die im => Sys2Proof.Machine.execBarrierArrival die im s
  | .barrierQuery die im => Sys2Proof.Machine.execBarrierQuery die im s
  | .barrierReply die im => Sys2Proof.Machine.execBarrierReply die im s
  | .doorbell die fn q v => Sys2Proof.Machine.execDoorbell die fn q v s
  | .lqConfigWrite die fn q v => Sys2Proof.Machine.execLqConfigWrite die fn q v s
  | .launchIntake die => Sys2Proof.Machine.execLaunchIntake die s
  | .coreTimeRefill die => Sys2Proof.Machine.execCoreTimeRefill die s
  | .completionRecord die lid => Sys2Proof.Machine.execCompletionRecord die lid s
  | .trapRecord die str => Sys2Proof.Machine.execTrapRecord die str s
  | .trapRecordRetry die str => Sys2Proof.Machine.execTrapRecordRetry die str s
  | .tscrWrite die core v => Sys2Proof.Machine.execTscrWrite die core v s
  | .terminate die core agent => Sys2Proof.Machine.execTerminate die core agent s
  | .preemptionRequest die words => Sys2Proof.Machine.execPreemptionRequest die words s
  | .release die words => Sys2Proof.Machine.execRelease die words s
  | .preemptBroadcast die str => Sys2Proof.Machine.execPreemptBroadcast die str s
  | .fallback die str => Sys2Proof.Machine.execFallback die str s
  | .drainEnd die str => Sys2Proof.Machine.execDrainEnd die str s
  | .imagesWritten die str => Sys2Proof.Machine.execImagesWritten die str s
  | .preemptionResponse die => Sys2Proof.Machine.execPreemptionResponse die s
  | .restoreComplete die str => Sys2Proof.Machine.execRestoreComplete die str s
  | .checkpointComplete die core => Sys2Proof.Machine.execCheckpointComplete die core s
  | .create die slot => Sys2Proof.Machine.execCreate die slot s
  | .destroy die slot => Sys2Proof.Machine.execDestroy die slot s
  | .paddockRead die slot => Sys2Proof.Machine.execPaddockRead die slot s
  | .usageRecord die slot => Sys2Proof.Machine.execUsageRecord die slot s
  | .studBookIndex die fn seq => Sys2Proof.Machine.execStudBookIndex die fn seq s
  | .version die => Sys2Proof.Machine.execVersion die s
  | .capabilities die => Sys2Proof.Machine.execCapabilities die s
  | .algorithms die => Sys2Proof.Machine.execAlgorithms die s
  | .digests die => Sys2Proof.Machine.execDigests die s
  | .certificate die certSlot offset len => Sys2Proof.Machine.execCertificate die certSlot offset len s
  | .challenge die certSlot nonce => Sys2Proof.Machine.execChallenge die certSlot nonce s
  | .measurements die block nonce => Sys2Proof.Machine.execMeasurements die block nonce s
  | .keyExchange die share => Sys2Proof.Machine.execKeyExchange die share s
  | .finish die session verify => Sys2Proof.Machine.execFinish die session verify s
  | .endSession die session => Sys2Proof.Machine.execEndSession die session s
  | .bind die session target slot asid stream => Sys2Proof.Machine.execBind die session target slot asid stream s
  | .unbind die session target stream => Sys2Proof.Machine.execUnbind die session target stream s
  | .ideKm die session stream key => Sys2Proof.Machine.execIdeKm die session stream key s
  | .lockInterface die fn => Sys2Proof.Machine.execLockInterface die fn s
  | .stopInterface die fn => Sys2Proof.Machine.execStopInterface die fn s
  | .domainMembership domain number coords => Sys2Proof.Machine.execDomainMembership domain number coords s
  | .packageLinkCheck link domain number coords delay => Sys2Proof.Machine.execPackageLinkCheck link domain number coords delay s
  | .powerOn => Sys2Proof.Machine.execPowerOn s
  | .counterClear die offset v => Sys2Proof.Machine.execCounterClear die offset v s
  | .arbiterPeriod => Sys2Proof.Machine.execArbiterPeriod s
  | .guardStepChange => Sys2Proof.Machine.execGuardStepChange s
  | .frequencyRaise => Sys2Proof.Machine.execFrequencyRaise s
  | .coreStop die core => Sys2Proof.Machine.execCoreStop die core s
  | .coreRestart die core => Sys2Proof.Machine.execCoreRestart die core s
  | .capMessage die v => Sys2Proof.Machine.execCapMessage die v s
  | .leaseExpiry => Sys2Proof.Machine.execLeaseExpiry s
  | .thresholdWrite die v => Sys2Proof.Machine.execThresholdWrite die v s
  | .thermalEvaluation => Sys2Proof.Machine.execThermalEvaluation s
  | .registerWrite die fn offset v => Sys2Proof.Machine.execRegisterWrite die fn offset v s
  | .memoryRequest die fn write bar asid addr len bytes => Sys2Proof.Machine.execMemoryRequest die fn write bar asid addr len bytes s
  | .startInterface die fn => Sys2Proof.Machine.execStartInterface die fn s
  | .linkReturn link => Sys2Proof.Machine.execLinkReturn link s
  | .supervisorResume die slot terminate pc => Sys2Proof.Machine.execSupervisorResume die slot terminate pc s

end Sys2Proof.Machine
end

