-- ==== Sys2Proof/Machine/Outside.lean ====
section
/-!
DEFINITION. Sys2Proof/Machine/Outside.lean: the passing of wheel time, and what comes to the package from outside.
-/

namespace Sys2Proof.Machine

/-- The use of a core by a context of a paddock, in its row's account (R404). -/
def State.noteUse (s : State) (a : Agent) (pad n : Nat) : State :=
  s.modPkg fun p =>
    { p with rows := p.rows.modify (a.die * 128 + vrowOf a.core) {} fun r => { r with used := r.used.modify pad 0 (· + n) } }

/-- The good cores of a paddock in a row. -/
def State.rowCores (s : State) (row pad : Nat) : Nat :=
  ((s.lcores (row / 128) pad).filter fun c => vrowOf c == row % 128).length

/-- The energy metered of a row split among the paddocks with cores in it: by their core-µs, and the idle remainder by their good
cores (R404; log 150). -/
def State.meterRow (s : State) (row mj : Nat) : State :=
  let die := row / 128
  let r := s.pkg.rows.getD row {}
  let pads := ((s.dieAt die).pads.keys.map fun p => (p, r.used.getD p 0, s.rowCores row p)).filter fun x => x.2.2 != 0
  let cores := (pads.map (·.2.2)).foldl (· + ·) 0
  let busy := (pads.map (·.2.1)).foldl (· + ·) 0
  let whole := max 1 (max busy (cores * (s.wt - r.metered).toNat))
  let nj := mj * 1000000
  let idle := nj - (pads.map fun x => nj * x.2.1 / whole).foldl (· + ·) 0
  let s := pads.foldl (fun s x => s.modUsage die x.1 fun u => { u with energy := u.energy + nj * x.2.1 / whole + idle * x.2.2 / cores }) s
  s.modPkg fun p => { p with rows := p.rows.set row { r with used := [], metered := s.wt } }

/-- The agent of a context's key. -/
def agentOfKey (k : Nat) : Agent := { die := k / 8192, core := k / 4 % 2048, ctx := k % 4 }

/-- Wheel time passes for a live context: its core is not idle (R413); of one that runs C0 counts it (R392), and its launch is
charged (R359). -/
def State.passFor (s : State) (k n : Nat) : State :=
  let c := s.ctxOf k
  let a := agentOfKey k
  let s := if c.live then s.modCore (coreKey a.die a.core) fun x => { x with idleSince := s.wt } else s
  if c.st != .running then s
  else
    let s := (s.setCtxOf k { c with charge := (c.charge + n) % 2000 }).noteUse a c.launch.pad.toNat n
    let s := s.onBehalf a fun s => s.count 0 n
    s.modLaunch a.die c.launch fun l => { l with charge := l.charge + n }

/-- The core-µs that running contexts of a die have used up when n wt more have passed (R212). -/
def State.drawsDue (s : State) (die n : Nat) : List LaunchInfo :=
  (s.ctxs.filter fun p => p.1 / 8192 == die && p.2.st == .running).flatMap fun p =>
    List.replicate ((p.2.charge + n) / 2000) p.2.launch

/-- Every die's tenants are charged for n wt that pass (R212). -/
def State.chargeTenants (s t : State) (n : Nat) : State :=
  (List.range 4).foldl (fun t d => t.drawAll d (s.drawsDue d n).length (s.drawsDue d n)) t

/-- Wheel time passes for the requests held at network ports: C4 of their contexts counts it (R71, R392). -/
def State.passHeld (s : State) (n : Nat) : State :=
  (s.strs.values.flatMap (·.held)).foldl (fun s r => s.countOf r.agent 4 n) s

/-- The writes of configuration flits under way take effect when a revolution begins (R52). -/
def State.passFlits (s : State) (n : Nat) : State :=
  let r := (s.rev + 1) * 256
  if s.wt.toNat + n < r || s.yards.values.all (·.flying.isEmpty) then s
  else { ({ s with wt := word r } : State).landFlits with wt := s.wt }

/-- A revolution begins within n wt: rows fall to the points decided for them (R413), and a trip stops the clocks (R422). -/
def State.passRows (s : State) (n : Nat) : State :=
  if s.wt.toNat % 256 + n < 256 then s
  else s.modPkg fun p =>
    { p with
      rows := p.rows.mapValues fun _ r => r.fall
      tripped := p.tripped || p.rows.values.any fun r => r.therm == .trip }

/-- Wheel time passes no word that waits in a router for its slot (R48), and no revolution's begin while a trip is to stop the clocks
there (R422): so much of n wt may pass. -/
def State.passRoom (s : State) (n : Nat) : Nat :=
  let n := if !s.pkg.tripped && s.pkg.rows.values.any (fun r => r.therm == .trip) then min n (256 - s.wt.toNat % 256) else n
  s.flits.foldl (fun m f => min m (f.wt.toNat - s.wt.toNat)) n

/-- Wheel time passes (R42): running contexts age and are charged, and held requests wait. A trip holds every context in place
(R422). -/
def State.pass (s : State) (n : Nat) : State :=
  let n := s.passRoom n
  let s := s.passFlits n
  let was := s.pkg.tripped
  let s := s.passRows n
  let t := { s with wt := s.wt + word n }
  if was then t else (s.chargeTenants (t.ctxs.keys.foldl (fun s k => s.passFor k n) t) n).passHeld n

/-- The exporter has answered a peer store whose bytes at these addresses it did not apply: it is logged with code ECC (R101,
R274), and the access is complete. -/
def State.storeLost (s : State) (q : Req) (lost : List Nat) : State :=
  match q.op with
  | .write l => (q.who.lost q.va l lost).foldl (fun s x =>
      s.logFault q.agent q.launch q.ident x.va x.opnd 0x21 x.opField.toNat 0) (s.answerReq q (.data []))
  | _ => s.answerReq q (.data [])

/-- An input from outside. -/
def State.input (s : State) (i : Input) : State :=
  match i with
  | .eccBad w => { s with bad := insertNat s.bad w }
  | .eccSoft w => { s with soft := insertNat s.soft w }
  | .tileBad d c n => s.modCore (coreKey d c) fun x => { x with badTiles := insertNat x.badTiles n }
  | .accBad d c n => s.modCore (coreKey d c) fun x => { x with badAccs := insertNat x.badAccs n }
  | .tileSoft d c n => s.modCore (coreKey d c) fun x => { x with softTiles := insertNat x.softTiles n }
  | .accSoft d c n => s.modCore (coreKey d c) fun x => { x with softAccs := insertNat x.softAccs n }
  | .dropCore d c i => s.modCore (coreKey d c) fun x => { x with utlb := dropAt x.utlb i }
  | .dropEngine d k i => s.modStr d k fun x => { x with etlb := dropAt x.etlb i }
  | .dropPg d p i => s.modPg d p fun x => { x with tlb := dropAt x.tlb i }
  | .dropWalk d p i => s.modPg d p fun x => { x with walks := dropAt x.walks i }
  | .dropLine d k i => s.modStr d k fun x => { x with icache := dropAt x.icache i }
  | .peerFences pkg a classes scope ten => s.orderFar pkg a classes scope ten
  | .peerCompletes pkg die uid scope ten => s.orderFarLaunch pkg die uid scope ten
  | .packagePower mw => { s with pkg := { s.pkg with power := mw } }
  | .rowPower r mw => { s with pkg := { s.pkg with rows := s.pkg.rows.modify r {} fun x => { x with power := mw } } }
  | .rowTemp r t => { s with pkg := { s.pkg with rows := s.pkg.rows.modify r {} fun x => { x with temp := t } } }
  | .bootFault k => { s with pkg := { s.pkg with bootFail := insertNat s.pkg.bootFail k } }
  | .energy row mj => s.meterRow row mj
  | .flash v => { s with pkg := { s.pkg with firmware := v } }
  | .peerArrives r => { s with pkg := { s.pkg with ldQ := s.pkg.ldQ ++ [.access r] } }
  | .reductionArrives p => { s with pkg := { s.pkg with ldQ := s.pkg.ldQ ++ [.reduction { p with peer := true }] } }
  | .peerAnswers d i r =>
    match (s.dieAt d).peerOut[i]? with
    | some q => (s.modDie d fun x => { x with peerOut := dropAt x.peerOut i }).answerReq q r
    | none => s
  | .peerStoreLost d i lost =>
    match (s.dieAt d).peerOut[i]? with
    | some q => (s.modDie d fun x => { x with peerOut := dropAt x.peerOut i }).storeLost q lost
    | none => s
  | .peerStop d k pkg x h pg stop => s.modStr d k fun y =>
      { y with farStops := (if stop then insertNat else removeNat) y.farStops (((pkg * 4 + x) * 4096 + h) * 16 + pg) }
  | .farAnswers i code row col port link slot refused => s.farAnswer i code row col port link slot refused
  | .farFrees link => s.farFrees link
  | .segmentArrives sg dst xpkg deadline => s.segmentAsks { op := .openC, b := dst.setWidth 64, xpkg := xpkg, deadline := deadline, seg := some sg }
  | .segmentCloses id slots => s.segmentAsks { op := .close, seg := some { id := id, slots := slots } }
  | .segmentWord id seq l => s.segmentWord id seq l
  | .peerReduced d i code =>
    match (s.dieAt d).peerPosted[i]? with
    | none => s
    | some p =>
      let s := s.modDie d fun x => { x with peerPosted := dropAt x.peerPosted i }
      if code = 0 then s else s.logFault p.agent p.launch p.ident p.va p.opnd code p.opField.toNat 4
  | .noticeAcked d i => s.modDie d fun x =>
      { x with notices := match x.notices[i]? with
        | some n => setAt x.notices i { n with acked := true }
        | none => x.notices }
  | .noticeArrives d n => s.modDie d fun x => { x with notices := x.notices ++ [n] }
  | .imageBad d c => { s with images := match s.images.find? (coreKey d c) with
      | some im => s.images.set (coreKey d c) { im with lost := true }
      | none => s.images }
  | .barChange d f v => s.changeBar d f v

end Sys2Proof.Machine
end

