-- ==== Sys2Proof/Machine/Step.lean ====
section
/-!
DEFINITION. Sys2Proof/Machine/Step.lean: one step of the package. The agenda says what the step is; when it is empty, the
step is the next instruction of the present agent.
-/

namespace Sys2Proof.Machine

/-- The next instruction of the present agent. -/
def runAgent (s : State) : Host.Outcome State Fault Refusal :=
  match s.issue with
  | .done t => .next t
  | .exec i t => exec i t

/-- One step. -/
def step (s : State) : Host.Outcome State Fault Refusal :=
  match s.agenda with
  | [] => runAgent s
  | p :: rest =>
    let t := { s with agenda := rest }
    match p with
    | .run a => runAgent (t.as a)
    | .event e => if isWord e then .fault .notAnEvent else exec e t
    | .pass n => .next (t.pass n)
    | .input i => .next (t.input i)

/-- The bytes of a word as they lie in a cache line from an offset on; what lies past the line's end is not in it. -/
def lineData (off w : Nat) : BitVec 512 :=
  if off = 0 then (BitVec.ofNat 32 w).setWidth 512 else BitVec.ofNat 512 (w % 2 ^ 32 * 2 ^ (8 * off))

/-- The state with an instruction placed where the next step fetches: the string of the present agent holds the
instruction's bytes in its instruction cache, and nothing in its decoded window, at the agent's next address (in two lines when they cross a line's end), the
agent's context runs, in its main stream and with no event of a boundary waiting, on a clocked core of a package that has not
tripped, and nothing stands on the agenda. -/
def State.withFetchWord (s : State) (_nbits w : Nat) : State :=
  let t := { s with agenda := [], cur := { s.cur with rep := false }, pkg := { s.pkg with tripped := false } }
  let pc := t.me.regs.pc
  let asid := t.me.launch.asid
  let off := (pc &&& 63).toNat
  let base := pc &&& ~~~(63 : Word)
  let lines : List ILine := { asid := asid, va := base, data := lineData off w } ::
    (if 60 < off then [{ asid := asid, va := base + 64, data := lineData 0 (w % 2 ^ 32 / 2 ^ (8 * (64 - off))) }] else [])
  let t := t.modMe fun c => { c with
    st := .running
    pendFp := false
    pendFpRep := false
    pendOvf := false }
  let t := t.modMyCore fun c => { c with
    on := true
    div := 1 }
  t.modMyStr fun x => { x with icache := lines ++ x.icache, window := [] }

end Sys2Proof.Machine
end

