-- ==== Sys2Proof/Safety.lean ====
section
/-!
DEFINITION. Sys2Proof/Safety.lean: the words that statements are written in: when an instruction's operands are ready, what
its retirement gives, and the canonical form of memory as an invariant.
-/

namespace Sys2Proof.Machine

/-- The scalar operands of an instruction are ready (R178, R202, R223, R224): no field names a queue in the wrong direction or
in a handler context, every source has a value, and a queue destination has room. The sources hold the values given. -/
structure Operands (s : State) (srcs : List (BitVec 5)) (dst : Option (BitVec 5)) (vs : List Word) : Prop where
  way : wrongWay s.cur.rep srcs dst = false
  task : usesQueue srcs dst = true → s.inHandler = false
  read : (s.me.regs.take srcs).map (·.1) = some vs
  room : s.me.regs.room dst = true

/-- A main-stream instruction whose repeat stream is idle and which has no request outstanding (R175). -/
structure Quiet (s : State) : Prop where
  main : s.cur.rep = false
  idle : s.me.regs.repActive = false
  wait : s.waiting = .idle

/-- The instruction retires with a result in its destination field, and its queue sources have given up their values. -/
def State.result (s : State) (srcs : List (BitVec 5)) (a : BitVec 5) (v : Word) (len : Nat) : State := (s.put a v).finish srcs len

/-- The access that the present instruction makes ends with bytes read, or written, at the state given. -/
def Accesses (s : State) (va : Word) (runs : List (Nat × Nat)) (op : MemOp) (plain : Bool) (opField : BitVec 8) (l : List Byte)
    (t : State) : Prop :=
  ∀ k : Reply → State → State, s.access 0 va runs op plain opField k = k (.data l) t

/-- Bytes of the present core's local store lie in range and without an error (R78, R100). -/
structure LocalOk (s : State) (ea : Word) (n : Nat) : Prop where
  inside : lsOutside ea n = false
  good : s.eccHit (lsBase s.cur.die s.cur.core + ea.toNat) n = false
  soft : (s.soft.filter fun w => (wordsOf (lsBase s.cur.die s.cur.core + ea.toNat) n).contains w) = []

/-- A byte of its core's local store as the present context finds it, and whether the record of its handler run shows there (R8). -/
def State.sees (s : State) (o : Nat) : Byte := (s.seen s.cur o [s.byte (lsBase s.cur.die s.cur.core + o)]).getD 0 0
def State.shows (s : State) (o : Nat) : Bool := ((s.runOf s.cur).bind (·.place o)).isSome

/-- No earlier write may still be read by the present context in a class (R95, R136): its reads see the latest bytes. -/
def State.Settled (s : State) (cls : Nat) : Prop := ∀ w, olderVals s.cur cls (s.older.getD w []) = []

/-- The string's instruction cache holds the two halfwords of a word at an address (R25, R216). -/
def State.HoldsWord (s : State) (pc : Word) (w : Word32) : Prop :=
  ∀ k < 2, ∃ l, s.cacheLine s.me.launch.asid ((pc + BitVec.ofNat 64 (2 * k)) &&& ~~~(63 : Word)) = some l ∧
    l.data.toNat / 2 ^ (8 * ((pc + BitVec.ofNat 64 (2 * k)) &&& 63).toNat) % 65536 = w.toNat / 2 ^ (16 * k) % 65536

/-- It holds the words that stand from an address on. -/
def State.Cached (s : State) (pc : Word) (ws : List Word32) : Prop :=
  ∀ k, (h : k < ws.length) → s.HoldsWord (pc + BitVec.ofNat 64 (4 * k)) ws[k]

/-- Every context of the package but one is as it was. -/
def SameOthers (s t : State) (k : Nat) : Prop := ∀ j, j ≠ k → t.ctxOf j = s.ctxOf j

/-! ## Exact values -/

/-- The magnitude and the number that the digits of an exact value stand for. -/
def Dy.size (d : Dy) : Rat := d.mag * (2 : Rat) ^ d.exp
def Dy.rat (d : Dy) : Rat := if d.neg then -d.size else d.size

/-- The value is exactly a number, and a zero has the sign given. -/
structure Dy.Is (d : Dy) (x : Rat) (zero : Bool) : Prop where
  whole : d.sticky = false
  value : d.rat = x
  sign : x = 0 → d.neg = zero

/-- The magnitude stands for a non-negative number by its first 60 bits or more, and a sticky bit says that more follow. -/
structure Dy.Near (d : Dy) (x : Rat) : Prop where
  long : 2 ^ 60 ≤ d.mag
  low : d.size ≤ x
  high : x < d.size + (2 : Rat) ^ d.exp
  rest : d.sticky = true ↔ d.size ≠ x

/-- The sign of an exact zero sum of numbers of the signs given (R113, IEEE 754). -/
def zeroSign (m : Rm) (signs : List Bool) : Bool :=
  if signs.all id then true else if signs.any id then decide (m = .rdn) else false

/-- What the sum of some encodings gives (R303): the exact sum rounded once, and NaN and the infinities as R303 has them. -/
structure Sums (f : Fmt) (m : Rm) (u : Nat) (l : List Nat) (w : Nat) : Prop where
  empty : l = [] → w = 0
  nan : ((∃ b ∈ l, (f.value b).isNan = true) ∨ (f.inf false ∈ l ∧ f.inf true ∈ l)) → w = f.nan
  inf : ∀ n, (∀ b ∈ l, (f.value b).isNan = false) → f.inf n ∈ l → f.inf (!n) ∉ l → w = f.inf n
  num : ∀ ds : List Dy, l ≠ [] → l.map f.value = ds.map Val.fin →
    ∃ v : Dy, v.Is (ds.map Dy.rat).sum (zeroSign m (ds.map (·.neg))) ∧ w = (f.pack m u (.fin v)).1

/-! ## Tiles -/

/-- The shape that HA names in E4, and the one that HB names (R227, R293). -/
def State.shapeA (s : State) : Shape := shapeOf (s.readH (bits (s.readE 4) 2 0))
def State.shapeB (s : State) : Shape := shapeOf (s.readH (bits (s.readE 4) 6 4))

/-- The rounding mode of E4 (R113, R227). -/
def State.tileRm (s : State) : Rm := Rm.of (bits (s.readE 4) 10 8)

/-- A tile instruction may go on to its own checks (R297): a task context, an idle repeat stream or the repeat stream itself, no
reserved bit of E4, a defined rounding mode, draws to be had, and no error, correctable or not, in a tile register. -/
structure TileReady (s : State) : Prop where
  task : s.inHandler = false
  idle : s.cur.rep = true ∨ s.me.regs.repActive = false
  e4 : e4Reserved (s.readE 4) = false
  mode : bits (s.readE 4) 10 8 < 5
  draws : (s.csr Csr.rngctr).toNat + 2 ^ 16 ≤ 2 ^ 64
  good : s.myCore.badTiles = []
  soft : s.myCore.softTiles = []

/-- A shape of one of the formats whose elements are not grouped in blocks (R107). -/
def Shape.plain (x : Shape) : Prop := x.valid = true ∧ x.fmt < 6

/-- The bits of an element of a tile register under a plain shape, by its position in the register (R183). -/
def State.elem (s : State) (x : Shape) (n i : Nat) : Nat :=
  (s.tile n).data.toNat / 2 ^ (elemBits x.fmt * i) % 2 ^ elemBits x.fmt

/-- A source element: zero outside the valid extent (R183). -/
def State.source (s : State) (x : Shape) (n i : Nat) : Nat := if x.inside i then s.elem x n i else 0

/-- Register n holds the results f in its valid extent where the mask writes, its old elements or zeros where it does not, and
zeros outside the extent (R295). -/
def Written (s t : State) (x : Shape) (m : BitVec 3) (p : BitVec 1) (n : Nat) (f : Nat → Nat) : Prop :=
  ∀ i < x.size, t.elem x n i =
    if x.inside i then (if s.maskOn m i then f i else if p = 1 then 0 else s.elem x n i) else 0

/-- What a tile instruction leaves as it was: every other tile register, memory, and the registers of its context; the place of
its stream goes on. -/
structure TileFrame (s t : State) (d : BitVec 7) : Prop where
  tiles : ∀ n, n ∉ s.group d → t.tile n = s.tile n
  mem : t.mem = s.mem
  regs : t.me.regs.s = s.me.regs.s ∧ t.me.regs.p = s.me.regs.p ∧ t.me.regs.e = s.me.regs.e ∧ t.me.regs.h = s.me.regs.h
  pc : t.me.regs.pc = if s.cur.rep then s.me.regs.pc else s.me.regs.pc + 4

/-! ## Guards and forms -/

/-- The guard of an instruction that the guard turns into one that only goes on (R218). A branch with a false guard is an outcome
of the branch (R262), and JR and RET are not listed here. -/
def guardOf : Instr → Option (BitVec 3)
  | .add g _ _ _ => some g
  | .sub g _ _ _ => some g
  | .mul g _ _ _ => some g
  | .mulh g _ _ _ => some g
  | .mulhU g _ _ _ => some g
  | .div g _ _ _ => some g
  | .divU g _ _ _ => some g
  | .rem g _ _ _ => some g
  | .remU g _ _ _ => some g
  | .and g _ _ _ => some g
  | .or g _ _ _ => some g
  | .xor g _ _ _ => some g
  | .shl g _ _ _ => some g
  | .shr g _ _ _ => some g
  | .sra g _ _ _ => some g
  | .min g _ _ _ => some g
  | .minU g _ _ _ => some g
  | .max g _ _ _ => some g
  | .maxU g _ _ _ => some g
  | .clz g _ _ => some g
  | .popc g _ _ => some g
  | .mov g _ _ => some g
  | .addi g _ _ _ => some g
  | .andi g _ _ _ => some g
  | .ori g _ _ _ => some g
  | .xori g _ _ _ => some g
  | .shli g _ _ _ => some g
  | .shri g _ _ _ => some g
  | .srai g _ _ _ => some g
  | .ext g _ _ => some g
  | .extRead g _ _ => some g
  | .cmp g _ _ _ _ => some g
  | .cmpi g _ _ _ _ => some g
  | .wid g _ _ => some g
  | .pand g _ _ _ => some g
  | .por g _ _ _ => some g
  | .pnot g _ _ => some g
  | .ld g _ _ _ _ _ => some g
  | .lds g _ _ _ _ _ => some g
  | .st g _ _ _ _ _ => some g
  | .lda g _ _ _ _ _ => some g
  | .stl g _ _ _ _ _ => some g
  | .ldf g _ _ => some g
  | .ldfn g _ _ _ => some g
  | .ste g _ _ => some g
  | .sten g _ _ _ => some g
  | .tagset g _ => some g
  | .tagclr g _ => some g
  | .amo g _ _ _ _ _ => some g
  | .cas g _ _ _ _ => some g
  | .red g _ _ _ _ => some g
  | .redf g _ _ _ _ => some g
  | .redfU g _ _ _ => some g
  | .fence g _ => some g
  | .fenceX g _ _ _ => some g
  | .qtryRd g _ _ _ => some g
  | .qtryWr g _ _ _ => some g
  | .fadd g _ _ _ _ _ => some g
  | .fsub g _ _ _ _ _ => some g
  | .fmul g _ _ _ _ _ => some g
  | .ffma g _ _ _ _ _ => some g
  | .fdiv g _ _ _ _ _ => some g
  | .fsqrt g _ _ _ _ => some g
  | .fmin g _ _ _ _ => some g
  | .fmax g _ _ _ _ => some g
  | .fcmp g _ _ _ _ _ => some g
  | .fcvt g _ _ _ _ _ => some g
  | .shpSet g _ _ => some g
  | .shpGet g _ _ => some g
  | .cpy g _ _ _ => some g
  | .cpyW g _ _ => some g
  | .cpyWPoll g _ _ _ => some g
  | .cpyT g _ _ _ => some g
  | .cpyDig g _ _ _ => some g
  | .deal g _ _ _ => some g
  | .put g _ _ _ => some g
  | .circOpen g _ _ => some g
  | .circWiden g _ _ => some g
  | .circClose g _ _ _ => some g
  | .circQ g _ _ => some g
  | .send g _ _ => some g
  | .sendn g _ _ _ => some g
  | .hret g => some g
  | .chanCfg g _ _ _ => some g
  | .spawn g _ _ => some g
  | .spawnn g _ _ _ => some g
  | .join g _ _ => some g
  | .joinn g _ _ _ => some g
  | .launch g _ _ => some g
  | .launchn g _ _ _ => some g
  | .barInit g _ _ => some g
  | .barArr g _ _ => some g
  | .barWait g _ _ => some g
  | .barTest g _ _ _ => some g
  | .trap g _ => some g
  | .eret g _ _ => some g
  | .brk g => some g
  | .nop g => some g
  | .idemBegin g => some g
  | .idemEnd g => some g
  | .tlbiR g _ _ _ => some g
  | .ctxLive g _ => some g
  | .ctxSave g _ => some g
  | .ctxRst g _ _ => some g
  | .csrr g _ _ => some g
  | .csrw g _ _ => some g
  | _ => none

/-- What an instruction that works on registers alone names: guard, sources, destination, predicate destination, and the system
registers that it writes (R244 to R259). -/
structure RegisterForm where
  guard : BitVec 3 := 0
  srcs : List (BitVec 5) := []
  dst : Option (BitVec 5) := none
  pred : Option (BitVec 3) := none
  csrs : List Nat := []
deriving DecidableEq, Repr

/-- The forms of the integer, predicate and floating-point instructions, and of their 16-bit spellings. -/
def registerForm : Instr → Option RegisterForm
  | .add g c b a => some { guard := g, srcs := [b, c], dst := some a }
  | .sub g c b a => some { guard := g, srcs := [b, c], dst := some a }
  | .mul g c b a => some { guard := g, srcs := [b, c], dst := some a }
  | .mulh g c b a => some { guard := g, srcs := [b, c], dst := some a }
  | .mulhU g c b a => some { guard := g, srcs := [b, c], dst := some a }
  | .div g c b a => some { guard := g, srcs := [b, c], dst := some a }
  | .divU g c b a => some { guard := g, srcs := [b, c], dst := some a }
  | .rem g c b a => some { guard := g, srcs := [b, c], dst := some a }
  | .remU g c b a => some { guard := g, srcs := [b, c], dst := some a }
  | .and g c b a => some { guard := g, srcs := [b, c], dst := some a }
  | .or g c b a => some { guard := g, srcs := [b, c], dst := some a }
  | .xor g c b a => some { guard := g, srcs := [b, c], dst := some a }
  | .shl g c b a => some { guard := g, srcs := [b, c], dst := some a }
  | .shr g c b a => some { guard := g, srcs := [b, c], dst := some a }
  | .sra g c b a => some { guard := g, srcs := [b, c], dst := some a }
  | .min g c b a => some { guard := g, srcs := [b, c], dst := some a }
  | .minU g c b a => some { guard := g, srcs := [b, c], dst := some a }
  | .max g c b a => some { guard := g, srcs := [b, c], dst := some a }
  | .maxU g c b a => some { guard := g, srcs := [b, c], dst := some a }
  | .sel _ c b a => some { srcs := [b, c], dst := some a }
  | .clz g b a => some { guard := g, srcs := [b], dst := some a }
  | .popc g b a => some { guard := g, srcs := [b], dst := some a }
  | .mov g b a => some { guard := g, srcs := [b], dst := some a }
  | .addi g _ b a => some { guard := g, srcs := [b], dst := some a }
  | .andi g _ b a => some { guard := g, srcs := [b], dst := some a }
  | .ori g _ b a => some { guard := g, srcs := [b], dst := some a }
  | .xori g _ b a => some { guard := g, srcs := [b], dst := some a }
  | .shli g _ b a => some { guard := g, srcs := [b], dst := some a }
  | .shri g _ b a => some { guard := g, srcs := [b], dst := some a }
  | .srai g _ b a => some { guard := g, srcs := [b], dst := some a }
  | .movi _ _ a => some { dst := some a }
  | .lui _ _ a => some { dst := some a }
  | .extRead g _ a => some { guard := g, dst := some a }
  | .wid g _ a => some { guard := g, dst := some a }
  | .cmp g _ c b d => some { guard := g, srcs := [b, c], pred := some d }
  | .cmpi g _ _ b d => some { guard := g, srcs := [b], pred := some d }
  | .pand g _ _ d => some { guard := g, pred := some d }
  | .por g _ _ d => some { guard := g, pred := some d }
  | .pnot g _ d => some { guard := g, pred := some d }
  | .fadd g _ _ c b a => some { guard := g, srcs := [b, c], dst := some a, csrs := [Csr.fflags, Csr.rngctr] }
  | .fsub g _ _ c b a => some { guard := g, srcs := [b, c], dst := some a, csrs := [Csr.fflags, Csr.rngctr] }
  | .fmul g _ _ c b a => some { guard := g, srcs := [b, c], dst := some a, csrs := [Csr.fflags, Csr.rngctr] }
  | .fdiv g _ _ c b a => some { guard := g, srcs := [b, c], dst := some a, csrs := [Csr.fflags, Csr.rngctr] }
  | .ffma g _ _ c b a => some { guard := g, srcs := [b, c, a], dst := some a, csrs := [Csr.fflags, Csr.rngctr] }
  | .fsqrt g _ _ b a => some { guard := g, srcs := [b], dst := some a, csrs := [Csr.fflags, Csr.rngctr] }
  | .fmin g _ c b a => some { guard := g, srcs := [b, c], dst := some a, csrs := [Csr.fflags] }
  | .fmax g _ c b a => some { guard := g, srcs := [b, c], dst := some a, csrs := [Csr.fflags] }
  | .fcmp g _ _ c b d => some { guard := g, srcs := [b, c], pred := some d, csrs := [Csr.fflags] }
  | .fcvt g _ _ _ b a => some { guard := g, srcs := [b], dst := some a, csrs := [Csr.fflags, Csr.rngctr] }
  | .cMov d a => some { srcs := [a], dst := some d }
  | .cAddi d _ => some { srcs := [d], dst := some d }
  | .cAdd d a => some { srcs := [d, a], dst := some d }
  | .cSub d a => some { srcs := [d, a], dst := some d }
  | .cNop => some {}
  | .nop _ => some {}
  | _ => none

/-- What an instruction of a register form leaves as it was: memory and its tags, every unit, every other context, every register
but those its form names, and every system register but those and the V bit of TILEPOS (R184). -/
structure RegisterFrame (s t : State) (f : RegisterForm) : Prop where
  mem : t.mem = s.mem ∧ t.memKey = s.memKey ∧ t.full = s.full ∧ t.bad = s.bad ∧ t.soft = s.soft ∧ t.older = s.older
  units : t.cores = s.cores ∧ t.strs = s.strs ∧ t.pgs = s.pgs ∧ t.vaults = s.vaults ∧ t.yards = s.yards ∧ t.slots = s.slots ∧
    t.links = s.links ∧ t.pkg = s.pkg ∧ t.wt = s.wt ∧ t.cur = s.cur ∧ t.images = s.images
  others : SameOthers s t s.key
  general : ∀ r, f.dst ≠ some r → t.readS r = s.readS r
  preds : ∀ q, f.pred ≠ some q → t.readP q = s.readP q
  exts : t.me.regs.e = s.me.regs.e ∧ t.me.regs.h = s.me.regs.h
  queues : ∀ n, (∀ r ∈ f.srcs ++ f.dst.toList, isQueue r = true → queueNo r ≠ n) → t.me.regs.getQ n = s.me.regs.getQ n
  csrs : ∀ n, n ∉ f.csrs → n ≠ Csr.tilepos → t.csr n = s.csr n
  tilepos : bits (t.csr Csr.tilepos) 14 0 = bits (s.csr Csr.tilepos) 14 0
  rest : t.me.regs.repBuf = s.me.regs.repBuf ∧ t.me.regs.live = s.me.regs.live ∧ t.me.st = s.me.st ∧ t.me.id = s.me.id ∧
    t.me.launch = s.me.launch ∧ t.me.flog = s.me.flog ∧ t.me.att = s.me.att

end Sys2Proof.Machine
end

