-- ==== Sys2Proof/Certificates/Slice0/Obligations.lean ====
section
/-!
DEFINITION. Sys2Proof/Certificates/Slice0/Obligations.lean: the statements for the provers.
-/

open Sys2Proof Sys2Proof.Machine

/-! ## Scalar instructions -/

/-- R247: the results of the register forms, for every operand form; SEL is never guarded.
R247: CLZ, POPC and MOV. The leading zeros are the bits above the highest one. -/
def Obligations.IntegerResults : Prop :=
  (∀ (s : State) (g q : BitVec 3) (c b a : BitVec 5) (x y : Word), Operands s [b, c] (some a) [x, y] → s.readP g = true →
    exec (.add g c b a) s = .next (s.result [b, c] a (BitVec.ofInt 64 (x.toInt + y.toInt)) 4) ∧
    exec (.sub g c b a) s = .next (s.result [b, c] a (BitVec.ofInt 64 (x.toInt - y.toInt)) 4) ∧
    exec (.mul g c b a) s = .next (s.result [b, c] a (BitVec.ofInt 64 (x.toInt * y.toInt)) 4) ∧
    exec (.mulh g c b a) s = .next (s.result [b, c] a (BitVec.ofInt 64 (x.toInt * y.toInt / 2 ^ 64)) 4) ∧
    exec (.mulhU g c b a) s = .next (s.result [b, c] a (BitVec.ofNat 64 (x.toNat * y.toNat / 2 ^ 64)) 4) ∧
    exec (.and g c b a) s = .next (s.result [b, c] a (x &&& y) 4) ∧
    exec (.or g c b a) s = .next (s.result [b, c] a (x ||| y) 4) ∧
    exec (.xor g c b a) s = .next (s.result [b, c] a (x ^^^ y) 4) ∧
    exec (.shl g c b a) s = .next (s.result [b, c] a (BitVec.ofNat 64 (x.toNat * 2 ^ (y.toNat % 64))) 4) ∧
    exec (.shr g c b a) s = .next (s.result [b, c] a (BitVec.ofNat 64 (x.toNat / 2 ^ (y.toNat % 64))) 4) ∧
    exec (.sra g c b a) s = .next (s.result [b, c] a (BitVec.ofInt 64 (x.toInt / 2 ^ (y.toNat % 64))) 4) ∧
    exec (.min g c b a) s = .next (s.result [b, c] a (BitVec.ofInt 64 (min x.toInt y.toInt)) 4) ∧
    exec (.minU g c b a) s = .next (s.result [b, c] a (BitVec.ofNat 64 (min x.toNat y.toNat)) 4) ∧
    exec (.max g c b a) s = .next (s.result [b, c] a (BitVec.ofInt 64 (max x.toInt y.toInt)) 4) ∧
    exec (.maxU g c b a) s = .next (s.result [b, c] a (BitVec.ofNat 64 (max x.toNat y.toNat)) 4) ∧
    exec (.sel q c b a) s = .next (s.result [b, c] a (if s.readP q then x else y) 4)) ∧
  (∀ (s : State) (g : BitVec 3) (b a : BitVec 5) (x : Word), Operands s [b] (some a) [x] → s.readP g = true →
    exec (.mov g b a) s = .next (s.result [b] a x 4) ∧
    exec (.popc g b a) s = .next (s.result [b] a (BitVec.ofNat 64 ((List.range 64).filter fun i => x.getLsbD i).length) 4) ∧
    ∃ n ≤ 64, (∀ i < n, x.getLsbD (63 - i) = false) ∧ (n < 64 → x.getLsbD (63 - n) = true) ∧
      exec (.clz g b a) s = .next (s.result [b] a (BitVec.ofNat 64 n) 4))

/-- R248: division never traps: a zero divisor gives the quotient 0 and the remainder sb, and every other case the quotient
rounded toward zero, modulo 2^64, and its remainder. -/
def Obligations.DivideResults : Prop :=
  ∀ (s : State) (g : BitVec 3) (c b a : BitVec 5) (x y : Word), Operands s [b, c] (some a) [x, y] → s.readP g = true →
    ∃ q r u v : Word,
      exec (.div g c b a) s = .next (s.result [b, c] a q 4) ∧ exec (.rem g c b a) s = .next (s.result [b, c] a r 4) ∧
      exec (.divU g c b a) s = .next (s.result [b, c] a u 4) ∧ exec (.remU g c b a) s = .next (s.result [b, c] a v 4) ∧
      x = q * y + r ∧ x = u * y + v ∧
      (y = 0 → q = 0 ∧ u = 0 ∧ r = x ∧ v = x) ∧
      (y ≠ 0 → q = BitVec.ofInt 64 (x.toInt.tdiv y.toInt) ∧ u.toNat = x.toNat / y.toNat)

/-- R249, R250: the immediate forms. LUI replaces one halfword, of zero when its destination is a queue.
R226, R229: the extension registers: EXT writes one whole, EXTI one halfword of it, EXT reads one. A main-stream write of
E4 to E7 goes ahead when the repeat stream is idle.
R251, R252: compares write their predicate with the condition, signed or unsigned, and the predicate operations theirs.
R160, R253: WID reads a field of the task's work identifier, field 0 the most significant. -/
def Obligations.ImmediatesAndPredicates : Prop :=
  (∀ (s : State) (g : BitVec 3) (b a : BitVec 5) (x : Word) (i : BitVec 10) (n : BitVec 6) (h : BitVec 2) (j : BitVec 16),
    (Operands s [b] (some a) [x] → s.readP g = true →
      exec (.addi g i b a) s = .next (s.result [b] a (BitVec.ofInt 64 (x.toInt + i.toInt)) 4) ∧
      exec (.andi g i b a) s = .next (s.result [b] a (x &&& BitVec.ofInt 64 i.toInt) 4) ∧
      exec (.ori g i b a) s = .next (s.result [b] a (x ||| BitVec.ofInt 64 i.toInt) 4) ∧
      exec (.xori g i b a) s = .next (s.result [b] a (x ^^^ BitVec.ofInt 64 i.toInt) 4) ∧
      exec (.shli g n b a) s = .next (s.result [b] a (BitVec.ofNat 64 (x.toNat * 2 ^ n.toNat)) 4) ∧
      exec (.shri g n b a) s = .next (s.result [b] a (BitVec.ofNat 64 (x.toNat / 2 ^ n.toNat)) 4) ∧
      exec (.srai g n b a) s = .next (s.result [b] a (BitVec.ofInt 64 (x.toInt / 2 ^ n.toNat)) 4)) ∧
    (Operands s [] (some a) [] →
      exec (.movi h j a) s = .next (s.result [] a (BitVec.ofInt 64 (j.toInt * 2 ^ (16 * h.toNat))) 4) ∧
      ∃ v : Word, exec (.lui h j a) s = .next (s.result [] a v 4) ∧
        ∀ k < 64, v.getLsbD k =
          if 16 * h.toNat ≤ k ∧ k < 16 * h.toNat + 16 then j.getLsbD (k - 16 * h.toNat)
          else !isQueue a && (s.readS a).getLsbD k)) ∧
  (∀ (s : State) (g e : BitVec 3) (b a : BitVec 5) (x : Word) (h : BitVec 2) (j : BitVec 16), s.readP g = true →
    (Operands s [] (some a) [] → exec (.extRead g e a) s = .next (s.result [] a (s.readE e.toNat) 4)) ∧
    ((4 ≤ e.toNat → s.cur.rep = true ∨ s.me.regs.repActive = false) →
      (Operands s [b] none [x] → exec (.ext g b e) s = .next ((s.modRegs fun r => r.setE e.toNat x).finish [b] 4)) ∧
      ∃ v : Word, exec (.exti h j e) s = .next ((s.modRegs fun r => r.setE e.toNat v).retire 4) ∧
        ∀ k < 64, v.getLsbD k =
          if 16 * h.toNat ≤ k ∧ k < 16 * h.toNat + 16 then j.getLsbD (k - 16 * h.toNat) else (s.readE e.toNat).getLsbD k)) ∧
  (∀ (s : State) (g p q d : BitVec 3) (c b : BitVec 5) (x y : Word) (i : BitVec 6), s.readP g = true →
    (Operands s [b, c] none [x, y] →
      ∀ n : BitVec 5, n.toNat < 10 → ∃ r : Bool, exec (.cmp g n c b d) s = .next ((s.writeP d r).finish [b, c] 4) ∧
        (n = 0 → (r = true ↔ x = y)) ∧ (n = 1 → (r = true ↔ x ≠ y)) ∧
        (n = 2 → (r = true ↔ x.toInt < y.toInt)) ∧ (n = 3 → (r = true ↔ y.toInt ≤ x.toInt)) ∧
        (n = 4 → (r = true ↔ y.toInt < x.toInt)) ∧ (n = 5 → (r = true ↔ x.toInt ≤ y.toInt)) ∧
        (n = 6 → (r = true ↔ x.toNat < y.toNat)) ∧ (n = 7 → (r = true ↔ y.toNat ≤ x.toNat)) ∧
        (n = 8 → (r = true ↔ y.toNat < x.toNat)) ∧ (n = 9 → (r = true ↔ x.toNat ≤ y.toNat))) ∧
    (Operands s [b] none [x] →
      ∀ n : BitVec 4, n.toNat < 10 → ∃ r : Bool, exec (.cmpi g i n b d) s = .next ((s.writeP d r).finish [b] 4) ∧
        let v : Word := BitVec.ofInt 64 i.toInt
        (n = 0 → (r = true ↔ x = v)) ∧ (n = 1 → (r = true ↔ x ≠ v)) ∧
        (n = 2 → (r = true ↔ x.toInt < i.toInt)) ∧ (n = 3 → (r = true ↔ i.toInt ≤ x.toInt)) ∧
        (n = 4 → (r = true ↔ i.toInt < x.toInt)) ∧ (n = 5 → (r = true ↔ x.toInt ≤ i.toInt)) ∧
        (n = 6 → (r = true ↔ x.toNat < v.toNat)) ∧ (n = 7 → (r = true ↔ v.toNat ≤ x.toNat)) ∧
        (n = 8 → (r = true ↔ v.toNat < x.toNat)) ∧ (n = 9 → (r = true ↔ x.toNat ≤ v.toNat))) ∧
    exec (.pand g q p d) s = .next ((s.writeP d (s.readP p && s.readP q)).finish [] 4) ∧
    exec (.por g q p d) s = .next ((s.writeP d (s.readP p || s.readP q)).finish [] 4) ∧
    exec (.pnot g p d) s = .next ((s.writeP d (!s.readP p)).finish [] 4)) ∧
  (∀ (s : State) (g : BitVec 3) (i : BitVec 10) (a : BitVec 5), Operands s [] (some a) [] → s.readP g = true →
    ∃ v : Word, exec (.wid g i a) s = .next (s.result [] a v 4) ∧
      (s.inHandler = true → v = 0) ∧
      (s.inHandler = false → i.toNat = 6 → v = s.me.id.wid) ∧
      (s.inHandler = false → i.toNat < 6 → s.me.launch.widths.length ≤ i.toNat → v = 0) ∧
      (s.inHandler = false → i.toNat < 6 → i.toNat < s.me.launch.widths.length →
        v = BitVec.ofNat 64 (s.me.id.wid.toNat / 2 ^ (s.me.launch.widths.drop (i.toNat + 1)).sum % 2 ^ s.me.launch.widths.getD i.toNat 0)))

/-- R234: the 16-bit forms do what their expansions do, and are 2 bytes long.
R363: NOP has no effect; it only goes on, whatever its guard.
R234: the 16-bit load and store address the local store upward from S2. -/
def Obligations.ShortInstructions : Prop :=
  (∀ (s : State) (d a : BitVec 5) (x y : Word) (i : BitVec 6),
    (Operands s [a] (some d) [x] → exec (.cMov d a) s = .next (s.result [a] d x 2)) ∧
    (Operands s [d] (some d) [x] → exec (.cAddi d i) s = .next (s.result [d] d (BitVec.ofInt 64 (x.toInt + i.toInt)) 2)) ∧
    (Operands s [d, a] (some d) [x, y] →
      exec (.cAdd d a) s = .next (s.result [d, a] d (BitVec.ofInt 64 (x.toInt + y.toInt)) 2) ∧
      exec (.cSub d a) s = .next (s.result [d, a] d (BitVec.ofInt 64 (x.toInt - y.toInt)) 2)) ∧
    exec .cNop s = .next (s.retire 2) ∧
    (∀ g, exec (.nop g) s = .next (s.retire 4))) ∧
  (∀ (s : State) (i : BitVec 6) (d : BitVec 5) (x y : Word),
    let ea := x + BitVec.ofNat 64 (8 * i.toNat)
    LocalOk s ea 8 →
    (s.Settled 0 → Operands s [2] (some d) [x] →
      exec (.cLdd d i) s = .next (s.result [2] d (BitVec.ofNat 64 (bytesNat (s.seen s.cur ea.toNat (s.lsRead ea.toNat 8)))) 2)) ∧
    (Operands s [2, d] none [x, y] →
      exec (.cStd d i) s = .next ((s.lsPut s.cur.die s.cur.core ea.toNat (natBytes 8 y.toNat)).finish [2, d] 2)))

/-! ## Floating point -/

/-- R254, R257, R258: the arithmetic forms and FCVT, under a static rounding mode. Stochastic rounding uses the first draw of one
step of the context's stream, and the step is counted; the flags of the operation are raised as the instruction retires.
R256: FCMP by its conditions. A NaN makes EQ, LT and LE false and UN and NE true; LT and LE raise NV for any NaN, the others
for a signalling one only. -/
def Obligations.FloatingPointResults : Prop :=
  (∀ (s : State) (g r : BitVec 3) (t : BitVec 1) (c b a : BitVec 5) (x y : Word), s.readP g = true → r.toNat < 5 →
    let f := tyFmt t
    let n := 2 ^ f.width
    let m := Rm.of r.toNat
    let u := if r = 4 then s.draw 0 else 0
    let s' := if r = 4 then s.setCsr Csr.rngctr (s.csr Csr.rngctr + 1) else s
    (Operands s [b, c] (some a) [x, y] →
      (∀ v, v = f.add m u (x.toNat % n) (y.toNat % n) →
        exec (.fadd g r t c b a) s = .next ((s'.result [b, c] a (word v.1) 4).raise v.2)) ∧
      (∀ v, v = f.sub m u (x.toNat % n) (y.toNat % n) →
        exec (.fsub g r t c b a) s = .next ((s'.result [b, c] a (word v.1) 4).raise v.2)) ∧
      (∀ v, v = f.mul m u (x.toNat % n) (y.toNat % n) →
        exec (.fmul g r t c b a) s = .next ((s'.result [b, c] a (word v.1) 4).raise v.2)) ∧
      (∀ v, v = f.div m u (x.toNat % n) (y.toNat % n) →
        exec (.fdiv g r t c b a) s = .next ((s'.result [b, c] a (word v.1) 4).raise v.2))) ∧
    (Operands s [b] (some a) [x] →
      (∀ v, v = f.sqrt m u (x.toNat % n) →
        exec (.fsqrt g r t b a) s = .next ((s'.result [b] a (word v.1) 4).raise v.2)) ∧
      ∀ (k : BitVec 3) (j : BitVec 4), k.toNat < 6 → j.toNat < 6 → ∀ v, v = cvtDest j.toNat m u (cvtSource k.toNat x) →
        exec (.fcvt g r k j b a) s = .next ((s'.result [b] a v.1 4).raise v.2)) ∧
    ∀ z : Word, Operands s [b, c, a] (some a) [x, y, z] → ∀ v, v = f.fma m u (x.toNat % n) (y.toNat % n) (z.toNat % n) →
      exec (.ffma g r t c b a) s = .next ((s'.result [b, c, a] a (word v.1) 4).raise v.2)) ∧
  (∀ (s : State) (g r : BitVec 3) (t : BitVec 1) (c b : BitVec 5) (d : BitVec 3) (x y : Word), Operands s [b, c] none [x, y] →
    s.readP g = true → r.toNat < 5 →
    let f := tyFmt t
    let p := f.value (x.toNat % 2 ^ f.width)
    let q := f.value (y.toNat % 2 ^ f.width)
    let un := p.isNan || q.isNan
    ∃ (v : Bool) (fl : BitVec 5), exec (.fcmp g r t c b d) s = .next (((s.writeP d v).finish [b, c] 4).raise fl) ∧
      fl = (if (if r = 1 ∨ r = 2 then un else p.isSig || q.isSig) then flNV else 0) ∧
      (r = 0 → v = (!un && decide (p.cmp q = 0))) ∧
      (r = 1 → v = (!un && decide (p.cmp q < 0))) ∧
      (r = 2 → v = (!un && decide (p.cmp q ≤ 0))) ∧
      (r = 3 → v = un) ∧
      (r = 4 → v = (un || decide (p.cmp q ≠ 0))))

/-- R255: FMIN and FMAX give an operand bit for bit. A NaN beside a number gives the number, two NaNs the canonical one, and the
negative zero lies below the positive one; only a signalling NaN raises, and it raises NV. -/
def Obligations.MinMaxResults : Prop :=
  ∀ (s : State) (g : BitVec 3) (t : BitVec 1) (c b a : BitVec 5) (x y : Word), Operands s [b, c] (some a) [x, y] →
    s.readP g = true →
    let f := tyFmt t
    let p := x.toNat % 2 ^ f.width
    let q := y.toNat % 2 ^ f.width
    ∃ (lo hi : Nat) (fl : BitVec 5),
      exec (.fmin g t c b a) s = .next ((s.result [b, c] a (word lo) 4).raise fl) ∧
      exec (.fmax g t c b a) s = .next ((s.result [b, c] a (word hi) 4).raise fl) ∧
      fl = (if (f.value p).isSig || (f.value q).isSig then flNV else 0) ∧
      ((f.value p).isNan = true → (f.value q).isNan = true → lo = f.nan ∧ hi = f.nan) ∧
      ((f.value p).isNan = true → (f.value q).isNan = false → lo = q ∧ hi = q) ∧
      ((f.value p).isNan = false → (f.value q).isNan = true → lo = p ∧ hi = p) ∧
      ((f.value p).isNan = false → (f.value q).isNan = false →
        (lo = p ∧ hi = q ∨ lo = q ∧ hi = p) ∧ (f.value lo).cmp (f.value hi) ≤ 0 ∧
        ((f.value lo).cmp (f.value hi) = 0 → (f.value lo).neg? = false → (f.value hi).neg? = false))

/-- R113, R116, R125: a number that a format can hold is rounded to itself by every mode and raises nothing, and every NaN result
is the canonical one.
R113, R254, R298: sum, difference, product and product-and-sum of numbers are their exact values, rounded once; quotient and
square root round the exact number that the digits and the sticky bit stand for. Division of a number by zero gives a signed infinity
with DZ; zero by zero, the square root of a number below zero, the difference of like infinities and zero times infinity give the
canonical NaN with NV, the last whatever is added.
R126: flags raised are sticky. With an enabled one among them the event waits for the instruction boundary, and nothing else
of the state changes with it. -/
def Obligations.RoundingAndFlags : Prop :=
  (∀ (f : Fmt) (m : Rm) (u n : Nat), n < 2 ^ f.width →
    ((f.value n).isNan = false → f.pack m u (f.value n) = (n, 0)) ∧
    ((f.value n).isNan = true → f.pack m u (f.value n) = (f.nan, 0))) ∧
  (∀ (f : Fmt) (m : Rm) (u a b c : Nat),
    (∀ p q : Dy, f.value a = .fin p → f.value b = .fin q →
      (∃ v : Dy, v.Is (p.rat + q.rat) (zeroSign m [p.neg, q.neg]) ∧ f.add m u a b = f.pack m u (.fin v)) ∧
      (∃ v : Dy, v.Is (p.rat - q.rat) (zeroSign m [p.neg, !q.neg]) ∧ f.sub m u a b = f.pack m u (.fin v)) ∧
      (∃ v : Dy, v.Is (p.rat * q.rat) (p.neg != q.neg) ∧ f.mul m u a b = f.pack m u (.fin v)) ∧
      (∀ r : Dy, f.value c = .fin r → ∃ v : Dy, v.Is (p.rat * q.rat + r.rat) (zeroSign m [p.neg != q.neg, r.neg]) ∧
        f.fma m u a b c = f.pack m u (.fin v)) ∧
      (p.mag ≠ 0 → q.mag ≠ 0 → ∃ v : Dy, v.Near (p.size / q.size) ∧ v.neg = (p.neg != q.neg) ∧
        f.div m u a b = f.pack m u (.fin v)) ∧
      (p.mag = 0 → q.mag ≠ 0 → f.div m u a b = (bnat (p.neg != q.neg) * 2 ^ (f.width - 1), 0)) ∧
      (p.mag ≠ 0 → q.mag = 0 → f.div m u a b = (f.inf (p.neg != q.neg), flDZ)) ∧
      (p.mag = 0 → q.mag = 0 → f.div m u a b = (f.nan, flNV))) ∧
    (∀ p : Dy, f.value a = .fin p →
      (p.mag ≠ 0 → p.neg = false → ∃ v : Dy, 2 ^ 60 ≤ v.mag ∧ v.neg = false ∧ v.size ^ 2 ≤ p.rat ∧
        p.rat < (v.size + (2 : Rat) ^ v.exp) ^ 2 ∧ (v.sticky = true ↔ v.size ^ 2 ≠ p.rat) ∧ f.sqrt m u a = f.pack m u (.fin v)) ∧
      (p.mag ≠ 0 → p.neg = true → f.sqrt m u a = (f.nan, flNV)) ∧
      (p.mag = 0 → f.sqrt m u a = (bnat p.neg * 2 ^ (f.width - 1), 0)) ∧
      ∀ n, f.value b = .inf n → p.mag = 0 → f.mul m u a b = (f.nan, flNV) ∧ f.fma m u a b c = (f.nan, flNV)) ∧
    ∀ n, f.value a = .inf n → (f.value b = .inf n → f.sub m u a b = (f.nan, flNV) ∧ f.div m u a b = (f.nan, flNV)) ∧
      (f.value b = .inf (!n) → f.add m u a b = (f.nan, flNV))) ∧
  (∀ (s : State) (fl : BitVec 5), fl ≠ 0 →
    (s.raise fl).csr Csr.fflags = s.csr Csr.fflags ||| fl.setWidth 64 ∧
    (∀ n, n ≠ Csr.fflags → (s.raise fl).csr n = s.csr n) ∧
    ((if s.cur.rep then (s.raise fl).me.pendFpRep else (s.raise fl).me.pendFp) = true ↔
      (fl.setWidth 64 &&& s.csr Csr.fenab ≠ 0 ∨ (if s.cur.rep then s.me.pendFpRep else s.me.pendFp) = true)) ∧
    (s.raise fl).me.regs.pc = s.me.regs.pc ∧ (s.raise fl).mem = s.mem)

/-! ## Branches, gangs and repetition -/

/-- R217, R260, R261: where the branches of a context that is not attached go; the direct ones go there in any context. A target
counts halfwords from the branch itself.
R217: a branch to an odd address traps ILLEGAL at the branch. -/
def Obligations.BranchesGoWhere : Prop :=
  (∀ (s : State) (g p : BitVec 3) (n : BitVec 1) (o : BitVec 23) (o' : BitVec 19) (o2 : BitVec 11) (o3 : BitVec 7)
    (b : BitVec 5) (x : Word), s.cur.rep = false →
    let pc := s.me.regs.pc
    exec (.b o) s = .next ((s.retire 4).goto (pc + BitVec.ofInt 64 (2 * o.toInt))) ∧
    exec (.bl o) s = .next (((s.writeS 1 (pc + 4)).retire 4).goto (pc + BitVec.ofInt 64 (2 * o.toInt))) ∧
    exec (.cB o2) s = .next ((s.retire 2).goto (pc + BitVec.ofInt 64 (2 * o2.toInt))) ∧
    (s.me.att = false →
      exec (.bp p n o') s = .next ((s.finish [] 4).goto
        (if s.readP p = (n == 0) then pc + BitVec.ofInt 64 (2 * o'.toInt) else pc + 4)) ∧
      exec (.cBp p n o3) s = .next ((s.finish [] 2).goto
        (if s.readP p = (n == 0) then pc + BitVec.ofInt 64 (2 * o3.toInt) else pc + 2)) ∧
      (x.getLsbD 0 = false → Operands s [b] none [x] → s.readP g = true → exec (.jr g b) s = .next ((s.finish [b] 4).goto x)) ∧
      (s.readP g = false → wrongWay false [b] none = false → exec (.jr g b) s = .next ((s.finish [] 4).goto (pc + 4))) ∧
      ((s.readS 1).getLsbD 0 = false →
        (s.readP g = true → exec (.ret g) s = .next ((s.finish [] 4).goto (s.readS 1))) ∧
        exec .cRet s = .next ((s.finish [] 2).goto (s.readS 1))) ∧
      (s.readP g = false → exec (.ret g) s = .next ((s.finish [] 4).goto (pc + 4))))) ∧
  (∀ (s : State) (g : BitVec 3) (b : BitVec 5) (x : Word),
    (x.getLsbD 0 = true → Operands s [b] none [x] → s.readP g = true → exec (.jr g b) s = .next (s.trap 0x01)) ∧
    ((s.readS 1).getLsbD 0 = true →
      (s.readP g = true → exec (.ret g) s = .next (s.trap 0x01)) ∧ exec .cRet s = .next (s.trap 0x01)))

/-- R169, R262: in an attached stream the leader's branch decides, for BP, C.BP, JR, RET and C.RET alike: the outcome is the address
after the instruction, by the member's own predicate, guard and register. A member whose outcome is the leader's goes on attached, one
whose outcome differs leaves the stream with its own, and one that comes before the leader waits. Where the leader has passed the place
without a branch, the member leaves the stream.
R264: STRAY takes the context out of the attached stream and goes on.
R172, R265: a muster. The last live member of a gang to arrive at the pending muster completes it: every live member goes past
its own MUSTER, attached, and the muster is over. A context alone passes it, and a member at another address than the pending
muster's traps MUSTER. A member that CTX.SAVE has saved has not arrived.
What a muster and a discard make of the outcomes that are kept is log 33 and log 154. -/
def Obligations.GangsAndMuster : Prop :=
  (∀ (s : State) (i : Instr) (go : Word), s.cur.rep = false → s.me.att = true →
    let pc := s.me.regs.pc
    ((∃ p n o, i = .bp p n o ∧ go = if s.readP p = (n == 0) then pc + BitVec.ofInt 64 (2 * o.toInt) else pc + 4) ∨
      (∃ p n o, i = .cBp p n o ∧ go = if s.readP p = (n == 0) then pc + BitVec.ofInt 64 (2 * o.toInt) else pc + 2) ∨
      (∃ g b, i = .jr g b ∧ s.readP g = true ∧ Operands s [b] none [go] ∧ go.getLsbD 0 = false) ∨
      (∃ g b, i = .jr g b ∧ s.readP g = false ∧ wrongWay false [b] none = false ∧ go = pc + 4) ∨
      (∃ g, i = .ret g ∧ s.readP g = true ∧ go = s.readS 1 ∧ go.getLsbD 0 = false) ∨
      (∃ g, i = .ret g ∧ s.readP g = false ∧ go = pc + 4) ∨
      (i = .cRet ∧ go = s.readS 1 ∧ go.getLsbD 0 = false)) →
    (∀ w, s.myStr.brLog.find? s.me.wpos = some w → ∃ t, exec i s = .next t ∧ t.me.regs.pc = go ∧ t.me.att = decide (w = go)) ∧
    (s.myStr.brLog.find? s.me.wpos = none → s.leads = true → ∃ t, exec i s = .next t ∧
      t.me.regs.pc = go ∧ t.me.att = true ∧ t.myStr.brLog.find? s.me.wpos = some go) ∧
    (s.myStr.brLog.find? s.me.wpos = none → s.leads = false →
      (s.leaderPast = true → ∃ t, exec i s = .next t ∧ t.me.regs.pc = go ∧ t.me.att = false) ∧
      (s.leaderPast = false → exec i s = .next s))) ∧
  (∀ s : State, s.cur.rep = false →
    exec .stray s = .next ((s.retire 4).modMe fun c => { c with att := false }) ∧
    exec .cStray s = .next ((s.retire 2).modMe fun c => { c with att := false }) ∧
    ((s.retire 4).modMe fun c => { c with att := false }).me.att = false) ∧
  (∀ s : State, s.cur.rep = false → s.inHandler = false →
    (s.me.member = false → exec .muster s = .next (s.retire 4) ∧ exec .cMuster s = .next (s.retire 2)) ∧
    (s.liveMembers s.cur.die s.strNo = [posOf s.cur.core] →
      exec .muster s = .next (s.retire 4) ∧ exec .cMuster s = .next (s.retire 2)) ∧
    (s.me.member = true → s.me.arrived = false → s.liveMembers s.cur.die s.strNo ≠ [posOf s.cur.core] →
      (∀ w, s.myStr.muster = some w → w ≠ s.me.regs.pc → exec .muster s = .next (s.trap 0x0D) ∧ exec .cMuster s = .next (s.trap 0x0D)) ∧
      (s.myStr.muster = some s.me.regs.pc → s.cur.core < 2048 → posOf s.cur.core ∈ s.liveMembers s.cur.die s.strNo →
        (∀ j < 8, (s.task (slotDie s.cur.die) (coreAt s.strNo j)).liveMember = false) →
        (∀ j ∈ s.liveMembers s.cur.die s.strNo, j ≠ posOf s.cur.core → (s.task s.cur.die (coreAt s.strNo j)).arrived = true) →
        ∀ i : Instr, i = .muster ∨ i = .cMuster → ∃ t, exec i s = .next t ∧ t.myStr.muster = none ∧
          ∀ j ∈ s.liveMembers s.cur.die s.strNo, (t.task s.cur.die (coreAt s.strNo j)).att = true ∧
            (t.task s.cur.die (coreAt s.strNo j)).arrived = false ∧
            (t.task s.cur.die (coreAt s.strNo j)).regs.pc =
              (s.task s.cur.die (coreAt s.strNo j)).regs.pc + word s.myStr.musterLen)))

/-- R175, R176, R269: REP captures the words that follow it and starts the repetition; the main stream goes on behind them. It
completes where the string's instruction cache holds the words, and where they are fetched without a fault. A count of zero, or above
65,535, in the register form traps OPERAND.
That the words are fetched before they are checked is the model's order (log 45), and a line that the cache holds is log 113. -/
def Obligations.RepeatCaptures : Prop :=
  ∀ (s : State) (n : BitVec 15) (l st : BitVec 4) (a : BitVec 5) (x : Word) (ws : List Word32), s.cur.rep = false →
    s.inHandler = false → s.me.regs.repActive = false → ws.length = l.toNat + 1 → ws.all wordOk = true →
    let go (t : State) (k : Nat) : State := t.modRegs fun r =>
      ({ r with repBuf := ws, repBase := s.me.regs.pc + 4 }).setCsr Csr.reppos
        (word (2 ^ 63 + st.toNat * 2 ^ 56 + l.toNat * 2 ^ 52 + k * 2 ^ 16))
    let runs (t : State) : Prop :=
      (n ≠ 0 → exec (.rep n l st) s = .next ((go t n.toNat).finish [] (4 + 4 * (l.toNat + 1)))) ∧
      (Operands s [a] none [x] → 1 ≤ x.toNat → x.toNat ≤ 65535 →
        exec (.repReg a l st) s = .next ((go t x.toNat).finish [a] (4 + 4 * (l.toNat + 1))))
    (s.Cached (s.me.regs.pc + 4) ws → runs s) ∧
    (∀ t, s.fetchWords (s.me.regs.pc + 4) (l.toNat + 1) = (.ok ws, t) → runs t) ∧
    (Operands s [a] none [x] → x = 0 ∨ 65535 < x.toNat → exec (.repReg a l st) s = .next (s.trap 0x03))

/-! ## Memory -/

/-- R136, R270, R271, R276: loads. The address is the base plus the scaled immediate; the value is extended with zeros by LD and LDA
and with the sign by LDS. A load of the local store takes the bytes that class CORE may see, which are the latest where no earlier
write may still be read, and in a handler run those of its own record where that shows from the lean-to (R8, R201). A load from global
memory that has been answered takes the bytes of the answer, over which the bytes that
its region's buffer holds are laid (R278).
R20, R26, R83, R276: a load from a vault page that the core's micro-TLB holds reads the page's bytes at once.
R272: an instruction whose access has been answered takes the answer, and one whose access was sent and not answered waits.
The answer in hand of a waiting instruction is the model's form (log 2); an access of a vault page within its instruction's
step is log 3, and a value read past a write of another class is free (log 40). -/
def Obligations.LoadsComplete : Prop :=
  (∀ (s : State) (g : BitVec 3) (i : BitVec 7) (w : BitVec 2) (b a : BitVec 5) (x : Word), Operands s [b] (some a) [x] →
    s.readP g = true →
    let n : Nat := 2 ^ w.toNat
    let ea := BitVec.ofInt 64 (x.toInt + i.toInt * (n : Int))
    (LocalOk s ea n → ∀ (l : List Byte) (u : State),
      s.view s.cur 0 (lsBase s.cur.die s.cur.core + ea.toNat) (s.lsRead ea.toNat n) = (l, u) →
      let v := bytesNat (s.seen s.cur ea.toNat l)
      (exec (.ld g 1 i w b a) s = .next (u.result [b] a (BitVec.ofNat 64 v) 4) ∧
        exec (.lds g 1 i w b a) s = .next (u.result [b] a (BitVec.ofInt 64 ((BitVec.ofNat (8 * n) v).toInt)) 4) ∧
        (ea.toNat % n = 0 → exec (.lda g 1 i w b a) s = .next (u.result [b] a (BitVec.ofNat 64 v) 4))) ∧
      (s.Settled 0 → l = s.lsRead ea.toNat n ∧ u = s)) ∧
    ∀ (l : List Byte) (t : State), l.length = n →
      (Accesses s ea [(ea.toNat, n)] (.read n) true 0 l t → ea.toNat % 64 + n ≤ 64 →
        let v := bytesNat (t.overlay ea.toNat l)
        exec (.ld g 0 i w b a) s = .next (t.result [b] a (BitVec.ofNat 64 v) 4) ∧
        exec (.lds g 0 i w b a) s = .next (t.result [b] a (BitVec.ofInt 64 ((BitVec.ofNat (8 * n) v).toInt)) 4)) ∧
      (Accesses s ea [(ea.toNat, n)] (.read n) false 0 l t → ea.toNat % n = 0 →
        exec (.lda g 0 i w b a) s = .next (t.result [b] a (BitVec.ofNat 64 (bytesNat (t.overlay ea.toNat l))) 4))) ∧
  (∀ (s : State) (g : BitVec 3) (i : BitVec 7) (b a : BitVec 5) (x : Word) (e : TlbEntry), Operands s [b] (some a) [x] →
    s.readP g = true → s.waiting = .idle →
    let ea := BitVec.ofInt 64 (x.toInt + i.toInt * 8)
    let at_ := vaultBase s.cur.die + e.pa + ea.toNat % 2 ^ e.size
    ea.toNat % 8 = 0 → ea.toNat < 2 ^ 47 → e.kind = 1 → e.peer = false → e.rd = true → 12 ≤ e.size →
    tlbFind s.myCore.utlb s.me.launch.asid.toNat ea = some e → s.buffer = [] → s.bad = [] → s.soft = [] →
    s.Settled 0 → ∃ t, exec (.lda g 0 i 3 b a) s = .next t ∧
      t.me.regs = ((s.result [b] a (BitVec.ofNat 64 (bytesNat
        (s.readAs ((s.keyOf s.cur.die e.key).getD 0) at_ 8))) 4).me.regs) ∧
      t.mem = s.mem) ∧
  (∀ (s : State) (va : Word) (runs : List (Nat × Nat)) (op : MemOp) (plain : Bool) (f : BitVec 8) (l : List Byte),
    (s.waiting = .answered (.data l) → Accesses s va runs op plain f l (s.setWait .idle)) ∧
    (s.waiting = .sent → ∀ k : Reply → State → State, s.access 0 va runs op plain f k = s))

/-- R78, R271, R272, R274: stores into the local store. Their bytes are the low ones of the source, the least significant first at
the lowest address; the context reads them there, and finds every other byte, of its local store and of all memory, as it was. What
falls on the record that a handler run is shown from the lean-to stays with the record (R8).
R272, R274, R278, R390: stores to global memory. One that has been answered retires; a plain store in an idempotent region that
still buffers enters the buffer and changes no byte of memory.
The answer in hand of a waiting instruction is the model's form (log 2), and the stores kept with a buffered line are log 41. -/
def Obligations.StoresComplete : Prop :=
  (∀ (s : State) (g : BitVec 3) (i : BitVec 7) (w : BitVec 2) (b a : BitVec 5) (x y : Word), Operands s [b, a] none [x, y] →
    s.readP g = true → Memory.wf s.mem = true →
    let n : Nat := 2 ^ w.toNat
    let ea := BitVec.ofInt 64 (x.toInt + i.toInt * (n : Int))
    let base := lsBase s.cur.die s.cur.core + ea.toNat
    LocalOk s ea n → ∀ j : Instr, (j = .st g 1 i w b a ∨ (j = .stl g 1 i w b a ∧ ea.toNat % n = 0 ∧ s.me.region = none)) →
      ∃ t, exec j s = .next t ∧
        (∀ k < n, t.sees (ea.toNat + k) = BitVec.ofNat 8 (y.toNat / 2 ^ (8 * k))) ∧
        (∀ o, o < ea.toNat ∨ ea.toNat + n ≤ o → t.sees o = s.sees o) ∧
        (∀ k < n, s.shows (ea.toNat + k) = false → t.byte (base + k) = BitVec.ofNat 8 (y.toNat / 2 ^ (8 * k))) ∧
        (∀ k, k < base ∨ base + n ≤ k → t.byte k = s.byte k) ∧
        t.me.regs.pc = (if s.cur.rep then s.me.regs.pc else s.me.regs.pc + 4) ∧
        t.me.regs.s = s.me.regs.s ∧ t.me.regs.p = s.me.regs.p ∧ t.me.regs.e = s.me.regs.e ∧ t.me.regs.h = s.me.regs.h) ∧
  (∀ (s : State) (g : BitVec 3) (i : BitVec 7) (w : BitVec 2) (b a : BitVec 5) (x y : Word), Operands s [b, a] none [x, y] →
    s.readP g = true →
    let n : Nat := 2 ^ w.toNat
    let ea := BitVec.ofInt 64 (x.toInt + i.toInt * (n : Int))
    (∀ t, s.me.region = none → ea.toNat % 64 + n ≤ 64 →
      Accesses s ea [(ea.toNat, n)] (.write (natBytes n y.toNat)) true (w.setWidth 8) [] t →
      exec (.st g 0 i w b a) s = .next (t.finish [b, a] 4)) ∧
    (∀ t, s.me.region = none → ea.toNat % n = 0 →
      Accesses s ea [(ea.toNat, n)] (.write (natBytes n y.toNat)) false (0x20 ||| w.setWidth 8) [] t →
      exec (.stl g 0 i w b a) s = .next (t.finish [b, a] 4)) ∧
    (∀ r l, s.me.region = some r → r.direct = false → ea.toNat % 64 + n ≤ 64 →
      bufStore { va := ea, size := n, opnd := BitVec.ofNat 64 (y.toNat % 2 ^ (8 * n)), opField := w.setWidth 8 } r.buf
        (lineParts 66 ea.toNat n) (natBytes n y.toNat) = some l →
      exec (.st g 0 i w b a) s = .next ((s.setBuf l).finish [b, a] 4) ∧
      ((s.setBuf l).finish [b, a] 4).mem = s.mem))

/-- R270, R272: where scalar loads and stores trap. An access of the local store beyond 128 KiB traps LSRANGE; an ordered access that
is not naturally aligned, and a plain access of global memory that crosses a 64 B line, trap ALIGN; FLTVA holds the address. -/
def Obligations.AddressTraps : Prop :=
  ∀ (s : State) (g : BitVec 3) (i : BitVec 7) (w : BitVec 2) (b a : BitVec 5) (x y : Word), s.readP g = true →
    let n : Nat := 2 ^ w.toNat
    let ea := BitVec.ofInt 64 (x.toInt + i.toInt * (n : Int))
    let trap (c : Nat) : Host.Outcome State Fault Refusal := .next ((s.setCsr Csr.fltva ea).trap c)
    (Operands s [b] (some a) [x] →
      (2 ^ 17 < ea.toNat + n → exec (.ld g 1 i w b a) s = trap 0x05 ∧ exec (.lds g 1 i w b a) s = trap 0x05 ∧
        exec (.lda g 1 i w b a) s = trap 0x05) ∧
      (64 < ea.toNat % 64 + n → exec (.ld g 0 i w b a) s = trap 0x04 ∧ exec (.lds g 0 i w b a) s = trap 0x04) ∧
      (ea.toNat % n ≠ 0 → exec (.lda g 0 i w b a) s = trap 0x04 ∧
        (ea.toNat + n ≤ 2 ^ 17 → exec (.lda g 1 i w b a) s = trap 0x04))) ∧
    (Operands s [b, a] none [x, y] →
      (2 ^ 17 < ea.toNat + n → exec (.st g 1 i w b a) s = trap 0x05 ∧ exec (.stl g 1 i w b a) s = trap 0x05) ∧
      (64 < ea.toNat % 64 + n → exec (.st g 0 i w b a) s = trap 0x04) ∧
      (ea.toNat % n ≠ 0 → exec (.stl g 0 i w b a) s = trap 0x04 ∧
        (ea.toNat + n ≤ 2 ^ 17 → exec (.stl g 1 i w b a) s = trap 0x04)))

/-- R279 to R281: tagged words. LDF takes a full word and leaves it empty, STE fills an empty one; in the other case they wait. The
forms with N do not wait and say in their predicate whether they did it; TAGSET and TAGCLR set the tag whatever it was.
R139, R140, R104, R289, R290: a fence waits while an access of its classes that its scope covers is not performed; after that it
traps ASYNC when the fault log is not empty, and retires otherwise.
R291: QTRY reads or writes a queue of the main stream when it can and says in its predicate whether it did; it never waits.
A wait that leaves the state as it is is the model's form (log 2); the commands that a narrow fence waits for are log 47. -/
def Obligations.TagsFencesQueues : Prop :=
  (∀ (s : State) (g p : BitVec 3) (b a : BitVec 5) (x y : Word), s.readP g = true → x.toNat % 8 = 0 → LocalOk s x 8 →
    let w := lsWord s.cur.die s.cur.core x.toNat
    let v := BitVec.ofNat 64 (bytesNat (s.seen s.cur x.toNat (s.lsRead x.toNat 8)))
    let put (s : State) : State := (s.lsPut s.cur.die s.cur.core x.toNat (natBytes 8 y.toNat)).setTag w true
    (Operands s [b] (some a) [x] →
      (s.inHandler = false → s.tag w = true →
        exec (.ldf g b a) s = .next (((((s.put a v).sawFull w).setTag w false).endDisc).finish [b] 4)) ∧
      (s.inHandler = false → s.tag w = false → exec (.ldf g b a) s = .next s) ∧
      (s.inHandler = true → exec (.ldf g b a) s = .next (s.trap 0x06)) ∧
      (s.tag w = true →
        exec (.ldfn g p b a) s = .next ((((((s.put a v).sawFull w).setTag w false).writeP p true).endDisc).finish [b] 4)) ∧
      (s.tag w = false → exec (.ldfn g p b a) s = .next ((s.writeP p false).finish [b] 4))) ∧
    (Operands s [b, a] none [x, y] →
      (s.inHandler = false → s.tag w = false → exec (.ste g b a) s = .next (((put s).endDisc).finish [b, a] 4)) ∧
      (s.inHandler = false → s.tag w = true → exec (.ste g b a) s = .next s) ∧
      (s.inHandler = true → exec (.ste g b a) s = .next (s.trap 0x06)) ∧
      (s.tag w = false → exec (.sten g p b a) s = .next ((((put s).writeP p true).endDisc).finish [b, a] 4)) ∧
      (s.tag w = true → exec (.sten g p b a) s = .next ((s.writeP p false).finish [b, a] 4))) ∧
    (Operands s [b] none [x] →
      exec (.tagset g b) s = .next (((s.setTag w true).endDisc).finish [b] 4) ∧
      exec (.tagclr g b) s = .next (((s.setTag w false).endDisc).finish [b] 4))) ∧
  (∀ (s : State) (g y x : BitVec 3) (sc : BitVec 4), s.readP g = true → s.me.regs.repActive = false → s.me.region = none →
    (∀ i cl, (i = .fence g sc ∧ cl = [0, 1, 2, 3, 4]) ∨ (i = .fenceX g y x sc ∧ cl = [x.toNat, y.toNat]) →
      (s.fenceBusy s.cur cl sc.toNat = true → exec i s = .next s) ∧
      (s.fenceBusy s.cur cl sc.toNat = false → s.me.flog ≠ [] → exec i s = .next (s.trap 0x0F)) ∧
      (s.fenceBusy s.cur cl sc.toNat = false → s.me.flog = [] →
        exec i s = .next ((s.orderWrites s.cur cl sc.toNat).retire 4)))) ∧
  (∀ (s : State) (g p : BitVec 3) (q : BitVec 2) (a : BitVec 5), s.readP g = true →
    (2 ≤ q.toNat → s.inHandler = false → ∀ v l, s.me.regs.getQ q.toNat = v :: l →
      exec (.qtryRd g p q a) s = .next (((((s.modRegs fun r => r.setQ q.toNat l).put a v).writeP p true).endDisc).retire 4)) ∧
    (2 ≤ q.toNat → s.me.regs.getQ q.toNat = [] ∨ s.inHandler = true →
      exec (.qtryRd g p q a) s = .next ((s.writeP p false).retire 4)) ∧
    (q.toNat < 2 → (s.me.regs.getQ q.toNat).length < 8 →
      exec (.qtryWr g p q a) s = .next ((((s.modRegs fun r =>
        r.setQ q.toNat (r.getQ q.toNat ++ [s.readS a])).writeP p true).endDisc).retire 4)) ∧
    (q.toNat < 2 → 8 ≤ (s.me.regs.getQ q.toNat).length → exec (.qtryWr g p q a) s = .next ((s.writeP p false).retire 4)))

/-- R282, R283: AMO and CAS give the old value, extended with zeros, and trap ALIGN where the address is not aligned.
R88, R236, R283: the bytes that an atomic leaves in its word: by its operation, on 4 or 8 bytes; CAS writes only where the old
value is the expected one.
R26, R94, R285 to R288: a reduction is posted and the instruction retires. It stands at the vault that holds its word, with the
place that the micro-TLB gave it, or at the port group of its address, and it carries its operation and type, the operand, the
contributor and the issuing context. With 32 of them outstanding the context waits.
The answer in hand is the model's form (log 2); a posted reduction's list is log 49, and its place log 149. -/
def Obligations.AtomicsAndReductions : Prop :=
  (∀ (s : State) (g : BitVec 3) (w : BitVec 1) (o : BitVec 4) (c b a : BitVec 5) (x y z : Word), s.readP g = true →
    let n := if w = 1 then 8 else 4
    (Operands s [b, c] (some a) [x, y] →
      (∀ l t, x.toNat % n = 0 → s.me.region = none → Accesses s x [(x.toNat, n)] (.amo o (w == 1) y) false 0 l t →
        exec (.amo g w o c b a) s = .next (t.result [b, c] a (BitVec.ofNat 64 (bytesNat l)) 4)) ∧
      (x.toNat % n ≠ 0 → exec (.amo g w o c b a) s = .next ((s.setCsr Csr.fltva x).trap 0x04))) ∧
    (Operands s [b, c, a] (some a) [x, y, z] →
      (∀ l t, x.toNat % n = 0 → s.me.region = none → Accesses s x [(x.toNat, n)] (.cas (w == 1) z y) false 0 l t →
        exec (.cas g w c b a) s = .next (t.result [b, c, a] a (BitVec.ofNat 64 (bytesNat l)) 4)) ∧
      (x.toNat % n ≠ 0 → exec (.cas g w c b a) s = .next ((s.setCsr Csr.fltva x).trap 0x04)))) ∧
  (∀ (wide : Bool) (o : BitVec 4) (old : List Byte) (v e : Word),
    let n := if wide then 8 else 4
    old.length = n →
    let q := BitVec.ofNat (8 * n) (bytesNat old)
    let x := v.setWidth (8 * n)
    (∀ r : BitVec (8 * n),
      (o = 0 → r = x) → (o = 1 → r = q + x) → (o = 2 → r = q &&& x) → (o = 3 → r = q ||| x) → (o = 4 → r = q ^^^ x) →
      (o = 5 → r = if q.toInt ≤ x.toInt then q else x) → (o = 6 → r = if q.toInt ≤ x.toInt then x else q) →
      (o = 7 → r = if q.toNat ≤ x.toNat then q else x) → (o = 8 → r = if q.toNat ≤ x.toNat then x else q) → o.toNat ≤ 8 →
      (MemOp.amo o wide v).result old = some (natBytes n r.toNat)) ∧
    (MemOp.cas wide e v).result old = (if q = e.setWidth (8 * n) then some (natBytes n x.toNat) else none)) ∧
  (∀ (s : State) (g : BitVec 3) (w t : BitVec 1) (o : BitVec 4) (c b a : BitVec 5) (x y z : Word), s.readP g = true →
    s.cur.rep = false →
    ∀ i : Instr, ∀ srcs : List (BitVec 5), ∀ n k : Nat, ∀ form : BitVec 2, ∀ op : BitVec 4, ∀ wide : Bool, ∀ contrib : Word,
      ((i = .red g w o c b ∧ srcs = [b, c] ∧ n = (if w = 1 then 8 else 4) ∧ k = 64 + 16 * w.toNat + o.toNat ∧ form = 0 ∧ op = o ∧
          wide = (w == 1) ∧ contrib = 0 ∧ Operands s [b, c] none [x, y]) ∨
       (i = .redf g t c b a ∧ srcs = [b, c, a] ∧ n = (if t = 1 then 2 else 4) ∧ k = 96 + t.toNat ∧ form = 1 ∧ op = t.setWidth 4 ∧
          wide = false ∧ contrib = z ∧ Operands s [b, c, a] none [x, y, z]) ∨
       (i = .redfU g t c b ∧ srcs = [b, c] ∧ n = (if t = 1 then 2 else 4) ∧ k = 128 + t.toNat ∧ form = 2 ∧ op = t.setWidth 4 ∧
          wide = false ∧ contrib = 0 ∧ Operands s [b, c] none [x, y])) →
      (x.toNat % n = 0 → (s.postedOf s.cur).length < 32 →
        ∃ (q p : Posted) (u : State), s.postAim q = (p, u) ∧
          p = { q with piece := p.piece, vault := p.vault, aim := p.aim, exporter := p.exporter } ∧
          (∀ v, p.vault = some v → p.piece.map (·.unit) = some v) ∧ q.va = x ∧ q.form = form ∧ q.op = op ∧ q.wide = wide ∧
          q.contrib = contrib ∧ q.agent = s.cur ∧ q.launch = s.me.launch ∧ q.ident = s.agentId s.cur ∧
          q.opnd.toNat = y.toNat % 2 ^ (8 * n) ∧ q.opField.toNat = k ∧
          exec i s = .next (((match p.vault with
            | some v => u.setVault s.cur.die v { u.vaultAt s.cur.die v with posted := (u.vaultAt s.cur.die v).posted ++ [p] }
            | none => (u.modPg s.cur.die (pgOf x) fun q => { q with posted := q.posted ++ [p] }).noteDemand s.cur.die
                (pgOf x)).endDisc).finish srcs 4)) ∧
      (x.toNat % n = 0 → 32 ≤ (s.postedOf s.cur).length → exec i s = .next s) ∧
      (x.toNat % n ≠ 0 → exec i s = .next ((s.setCsr Csr.fltva x).trap 0x04)))

/-! ## Tiles -/

/-- R295, R298, R300: the arithmetic tile forms on the plain formats, position by position: the exact result rounded once for BF16
and FP32, and saturated for the integers. -/
def Obligations.TileArithmetic : Prop :=
  ∀ (s : State) (m : BitVec 3) (p : BitVec 1) (b : BitVec 5) (a d : BitVec 7), TileReady s → s.shapeA.plain →
    width d = width a → (s.group d).Nodup →
    let x := s.shapeA
    let at_ (k i : Nat) : Nat := s.source x ((s.group a).getD k 0) i
    let bt (k i : Nat) : Nat := s.source x ((s.groupB b a).getD k 0) i
    let dt (k i : Nat) : Nat := s.source x ((s.group d).getD k 0) i
    let u (k i : Nat) : Nat := if s.tileRm = .sr then s.draw (x.order k i) else 0
    let sat (v : Int) : Nat := (max (-2 ^ (elemBits x.fmt - 1)) (min (2 ^ (elemBits x.fmt - 1) - 1) v) % (2 ^ elemBits x.fmt : Nat)).toNat
    let int (v : Nat) : Int := (BitVec.ofNat (elemBits x.fmt) v).toInt
    let done (i : Instr) (flt : Fmt → Nat → Nat → Nat → Nat → Nat) (exact : Int → Int → Int → Int) : Prop :=
      ∃ t, exec i s = .next t ∧ TileFrame s t d ∧ ∀ k < (s.group d).length, Written s t x m p ((s.group d).getD k 0) fun i =>
        if x.fmt = 1 then flt .bf16 (u k i) (at_ k i) (bt k i) (dt k i)
        else if x.fmt = 2 then flt .f32 (u k i) (at_ k i) (bt k i) (dt k i)
        else sat (exact (int (at_ k i)) (int (bt k i)) (int (dt k i)))
    done (.tadd m p b a d) (fun f u q r _ => (f.add s.tileRm u q r).1) (fun q r _ => q + r) ∧
    done (.tsub m p b a d) (fun f u q r _ => (f.sub s.tileRm u q r).1) (fun q r _ => q - r) ∧
    done (.tmul m p b a d) (fun f u q r _ => (f.mul s.tileRm u q r).1) (fun q r _ => q * r) ∧
    done (.tfma m p b a d) (fun f u q r z => (f.fma s.tileRm u q r z).1) (fun q r z => q * r + z) ∧
    done (.tmax m p b a d) (fun f _ q r _ => (f.minmax true q r).1) (fun q r _ => max q r) ∧
    done (.tmin m p b a d) (fun f _ q r _ => (f.minmax false q r).1) (fun q r _ => min q r)

/-- R127, R300: the four functions on BF16, under the modes that they accept. The special cases of R127 hold; TRCP and TRSQ round the
exact reciprocal and reciprocal square root once; TEXP and TLOG under RNE give e, 1/e, e^2, ln 2, -ln 2 and ln 10 correctly rounded.
R303: reductions: the sum of a row or of a column, saturated once for integers and rounded once for floats, or its largest or
smallest element, stands in column 0, or in row 0 of the first register; the remaining positions of the extent are zero. An empty
reduction gives zero. -/
def Obligations.TileFunctionsAndReductions : Prop :=
  (∀ (s : State) (m : BitVec 3) (p : BitVec 1) (a d : BitVec 7) (i : Instr), TileReady s → s.shapeA.plain → s.shapeA.fmt = 1 →
    s.tileRm ≠ .sr → width d = width a → (s.group d).Nodup →
    (i = .texp m p a d ∨ i = .trcp m p a d ∨ i = .trsq m p a d ∨ i = .tlog m p a d) →
    ∃ t, exec i s = .next t ∧ TileFrame s t d ∧ ∀ k < (s.group d).length, ∃ f : Nat → Nat,
      Written s t s.shapeA m p ((s.group d).getD k 0) f ∧
      ∀ j, let x := s.source s.shapeA ((s.group a).getD k 0) j
        ((Fmt.bf16.value x).isNan = true → f j = 0x7FC0) ∧
        (x = 0x0000 → (i = .texp m p a d → f j = 0x3F80) ∧ (i = .trcp m p a d ∨ i = .trsq m p a d → f j = 0x7F80) ∧
          (i = .tlog m p a d → f j = 0xFF80)) ∧
        (x = 0x8000 → (i = .texp m p a d → f j = 0x3F80) ∧ (i = .trcp m p a d ∨ i = .trsq m p a d → f j = 0xFF80) ∧
          (i = .tlog m p a d → f j = 0xFF80)) ∧
        (x = 0x7F80 → (i = .texp m p a d ∨ i = .tlog m p a d → f j = 0x7F80) ∧
          (i = .trcp m p a d ∨ i = .trsq m p a d → f j = 0x0000)) ∧
        (x = 0xFF80 → (i = .texp m p a d → f j = 0x0000) ∧ (i = .trcp m p a d → f j = 0x8000) ∧
          (i = .trsq m p a d ∨ i = .tlog m p a d → f j = 0x7FC0)) ∧
        (x = 0x3F80 → (i = .trcp m p a d ∨ i = .trsq m p a d → f j = 0x3F80) ∧ (i = .tlog m p a d → f j = 0x0000)) ∧
        (∀ q : Dy, Fmt.bf16.value x = .fin q → q.mag ≠ 0 →
          (i = .trcp m p a d → ∃ v : Dy, v.Near (1 / q.size) ∧ v.neg = q.neg ∧ f j = (Fmt.bf16.pack s.tileRm 0 (.fin v)).1) ∧
          (i = .trsq m p a d → q.neg = false → ∃ v : Dy, 2 ^ 60 ≤ v.mag ∧ v.neg = false ∧ v.size ^ 2 * q.rat ≤ 1 ∧
            1 < (v.size + (2 : Rat) ^ v.exp) ^ 2 * q.rat ∧ (v.sticky = true ↔ v.size ^ 2 * q.rat ≠ 1) ∧
            f j = (Fmt.bf16.pack s.tileRm 0 (.fin v)).1) ∧
          (i = .trsq m p a d ∨ i = .tlog m p a d → q.neg = true → f j = 0x7FC0)) ∧
        (s.tileRm = .rne → (i = .texp m p a d → (x = 0x3F80 → f j = 0x402E) ∧ (x = 0xBF80 → f j = 0x3EBC) ∧ (x = 0x4000 → f j = 0x40EC)) ∧
          (i = .tlog m p a d → (x = 0x4000 → f j = 0x3F31) ∧ (x = 0x3F00 → f j = 0xBF31) ∧ (x = 0x4120 → f j = 0x4013)))) ∧
  (∀ (s : State) (m : BitVec 3) (p w : BitVec 1) (o : BitVec 2) (a d : BitVec 7), TileReady s → s.shapeA.plain → s.shapeB.plain →
    s.shapeB.fmt = s.shapeA.fmt → width d = width a → (s.group d).Nodup → o ≠ 3 →
    let x := s.shapeA
    let y := s.shapeB
    (if w = 0 then x.rows = y.rows ∧ x.vrows = y.vrows else x.cols = y.cols ∧ x.vcols = y.vcols) →
    let int (k r c : Nat) : Int := (BitVec.ofNat (elemBits x.fmt) (s.elem x ((s.group a).getD k 0) (r * x.cols + c))).toInt
    let red (l : List Int) : Int :=
      match l with
      | [] => 0
      | v :: l => if o = 0 then max (-2 ^ (elemBits x.fmt - 1)) (min (2 ^ (elemBits x.fmt - 1) - 1) ((v :: l).sum))
        else if o = 1 then l.foldl max v else l.foldl min v
    let f := if x.fmt = 1 then Fmt.bf16 else Fmt.f32
    let code (k r c : Nat) : Nat := s.elem x ((s.group a).getD k 0) (r * x.cols + c)
    let best (big : Bool) (l : List Nat) : Nat :=
      match l with
      | [] => 0
      | v :: l => l.foldl (fun acc z => (f.minmax big acc z).1) (f.minmax big v v).1
    ∃ t, exec (.tred m p w o a d) s = .next t ∧ TileFrame s t d ∧ (3 ≤ x.fmt →
      ∀ k < (s.group d).length, Written s t y m p ((s.group d).getD k 0) fun i =>
        let v : Int :=
          if w = 0 then
            (if i % y.cols = 0 then red ((List.range x.vcols).map fun c => int k (i / y.cols) c) else 0)
          else if k = 0 ∧ i / y.cols = 0 then
            red ((List.range (s.group a).length).flatMap fun h => (List.range x.vrows).map fun r => int h r (i % y.cols))
          else 0
        (v % (2 ^ elemBits x.fmt : Nat)).toNat) ∧ (x.fmt < 3 →
      ∀ k < (s.group d).length, ∃ g : Nat → Nat, Written s t y m p ((s.group d).getD k 0) g ∧ ∀ i < y.size, y.inside i = true →
        let l :=
          if w = 0 then (List.range x.vcols).map fun c => code k (i / y.cols) c
          else (List.range (s.group a).length).flatMap fun h => (List.range x.vrows).map fun r => code h r (i % y.cols)
        if (if w = 0 then i % y.cols = 0 else k = 0 ∧ i / y.cols = 0) then
          (o = 0 → Sums f s.tileRm (if s.tileRm = .sr then s.draw (y.order k i) else 0) l (g i)) ∧
          (o = 1 → g i = best true l) ∧ (o = 2 → g i = best false l)
        else g i = 0))

/-- R295, R302, R304, R305, R310, R311: conversion, broadcast, transpose, move, zero, fill and random values on the plain formats. -/
def Obligations.TileMoves : Prop :=
  ∀ (s : State) (m : BitVec 3) (p w : BitVec 1) (q : BitVec 5) (a d : BitVec 7) (v : Word), TileReady s → s.shapeA.plain →
    (s.group d).Nodup →
    let x := s.shapeA
    let y := s.shapeB
    let at_ (k i : Nat) : Nat := s.source x ((s.group a).getD k 0) i
    let done (i : Instr) (z : Shape) (f : Nat → Nat → Nat) : Prop :=
      ∃ t, exec i s = .next t ∧ TileFrame s t d ∧
        ∀ k < (s.group d).length, Written s t z m p ((s.group d).getD k 0) (f k)
    (width d = width a → done (.tmov m p a d) x at_) ∧
    done (.tzero m p d) x (fun _ _ => 0) ∧
    (Operands s [q] none [v] → done (.tfill m p q d) x fun _ _ => v.toNat % 2 ^ elemBits x.fmt) ∧
    done (.trand m p d) x (fun k i =>
      let u := s.draw (x.order k i)
      if x.fmt = 1 then (Fmt.bf16.pack .rne 0 (.fin { mag := u / 2 ^ 24, exp := -8 })).1
      else if x.fmt = 2 then (Fmt.f32.pack .rne 0 (.fin { mag := u / 2 ^ 8, exp := -24 })).1
      else u % 2 ^ elemBits x.fmt) ∧
    (y.plain → x.sameSize y = true → width d = width a → done (.tcvt m p a d) y fun k i =>
      let v := plainVal x.fmt (at_ k i)
      if x.fmt = y.fmt then at_ k i
      else if y.fmt = 1 then (Fmt.bf16.result s.tileRm (if s.tileRm = .sr then s.draw (y.order k i) else 0) (v, sigFlag [v])).1
      else if y.fmt = 2 then (Fmt.f32.result s.tileRm (if s.tileRm = .sr then s.draw (y.order k i) else 0) (v, sigFlag [v])).1
      else
        let n := elemBits y.fmt
        ((v.toInt s.tileRm (if s.tileRm = .sr then s.draw (y.order k i) else 0) (-2 ^ (n - 1)) (2 ^ (n - 1) - 1)).1 %
          (2 ^ n : Nat)).toNat) ∧
    (y.valid = true → y.fmt = x.fmt → width d = width a →
      (if w = 0 then x.rows = y.rows ∧ x.vrows = y.vrows else x.cols = y.cols ∧ x.vcols = y.vcols) →
      done (.tbcast m p w a d) y fun k i => if w = 0 then at_ k (i / y.cols * x.cols) else at_ 0 (i % y.cols)) ∧
    (y.valid = true → y.fmt = x.fmt → width d = 0 → width a = 0 → y.rows = x.cols ∧ y.cols = x.rows ∧ y.vrows = x.vcols ∧
      y.vcols = x.vrows → done (.ttrans m p a d) y fun _ i => at_ 0 (i % y.cols * x.cols + i / y.cols))

/-- R306: comparisons leave a mask: one bit for each position of the compared extent, and zeros in the rest of the data plane; the
scale plane stays.
R307 to R309: TSEL takes each position from the one source or the other by its mask; TSQZ packs the selected elements from the
front, fills the rest of the register with zeros and counts them; TXPD hands elements out in turn to the selected positions. -/
def Obligations.TileComparesAndSelects : Prop :=
  (∀ (s : State) (m : BitVec 3) (p : BitVec 1) (b : BitVec 5) (a d : BitVec 7), TileReady s → s.shapeA.plain → width d = 0 →
    width a = 0 →
    let x := s.shapeA
    let n := (s.group d).getD 0 0
    let u (i : Nat) : Val := plainVal x.fmt (s.source x ((s.group a).getD 0 0) i)
    let v (i : Nat) : Val := plainVal x.fmt (s.source x ((s.groupB b a).getD 0 0) i)
    let done (i : Instr) (f : Nat → Bool) : Prop := ∃ t, exec i s = .next t ∧ TileFrame s t d ∧
      (t.tile n).scale = (s.tile n).scale ∧ ∀ j < 16384, (t.tile n).data.getLsbD j =
        (decide (j < x.size) && x.inside j && if s.maskOn m j then f j else !(p == 1) && (s.tile n).data.getLsbD j)
    done (.tcmpEq m p b a d) (fun i => !(u i).isNan && !(v i).isNan && decide ((u i).cmp (v i) = 0)) ∧
    done (.tcmpNe m p b a d) (fun i => (u i).isNan || (v i).isNan || decide ((u i).cmp (v i) ≠ 0)) ∧
    done (.tcmpLt m p b a d) (fun i => !(u i).isNan && !(v i).isNan && decide ((u i).cmp (v i) < 0)) ∧
    done (.tcmpLe m p b a d) (fun i => !(u i).isNan && !(v i).isNan && decide ((u i).cmp (v i) ≤ 0))) ∧
  (∀ (s : State) (m : BitVec 3) (p : BitVec 1) (b : BitVec 5) (a d : BitVec 7), TileReady s → s.shapeA.plain → width d = width a →
    (s.group d).Nodup →
    let x := s.shapeA
    let at_ (k i : Nat) : Nat := s.source x ((s.group a).getD k 0) i
    let bt (k i : Nat) : Nat := s.source x ((s.groupB b a).getD k 0) i
    let sel := (List.range x.size).filter fun i => x.inside i && s.maskOn m i
    (∃ t, exec (.tsel m b a d) s = .next t ∧ TileFrame s t d ∧ ∀ k < (s.group d).length,
      Written s t x 0 0 ((s.group d).getD k 0) fun i => if s.maskOn m i then at_ k i else bt k i) ∧
    (width a = 0 →
      (∀ q : BitVec 5, Operands s [] (some q) [] → ∃ t, exec (.tsqz m q a d) s = .next t ∧ t.mem = s.mem ∧
        (∀ n, n ∉ s.group d → t.tile n = s.tile n) ∧
        (∀ i < x.size, t.elem x ((s.group d).getD 0 0) i = ((sel.map (at_ 0)).getD i 0)) ∧
        (q ≠ 0 → isQueue q = false → t.readS q = BitVec.ofNat 64 sel.length)) ∧
      ∃ t, exec (.txpd m p a d) s = .next t ∧ TileFrame s t d ∧ Written s t x m p ((s.group d).getD 0 0) fun i =>
        s.elem x ((s.group a).getD 0 0) ((sel.filter (· < i)).length)))

/-- R296, R297: a tile instruction in a handler context, one with a reserved bit of E4 set and one under an invalid shape have no
effect but their trap.
R293: SHP.SET writes a shape register whose reserved bits are zero and traps OPERAND otherwise; SHP.GET reads one. Both are
illegal in a handler context. -/
def Obligations.TileChecksAndShapes : Prop :=
  (∀ (s : State) (m : BitVec 3) (p : BitVec 1) (b : BitVec 5) (a d : BitVec 7) (i : Instr),
    (s.cur.rep = true ∨ s.me.regs.repActive = false) →
    (i = .tadd m p b a d ∨ i = .tmax m p b a d ∨ i = .tmov m p a d ∨ i = .tzero m p d ∨ i = .tcmpEq m p b a d ∨
      i = .tsel m b a d ∨ i = .trand m p d) →
    (s.inHandler = true → exec i s = .next (s.trap 0x01)) ∧
    (s.inHandler = false → e4Reserved (s.readE 4) = true → exec i s = .next (s.trap 0x03)) ∧
    (s.inHandler = false → e4Reserved (s.readE 4) = false → bits (s.readE 4) 10 8 < 5 → s.shapeA.valid = false →
      exec i s = .next (s.trap 0x03))) ∧
  (∀ (s : State) (g k : BitVec 3) (b a : BitVec 5) (x : Word), s.readP g = true → (s.cur.rep = true ∨ s.me.regs.repActive = false) →
    (s.inHandler = false → Operands s [b] none [x] →
      (shapeReserved x = false → exec (.shpSet g b k) s = .next ((s.modRegs fun r => r.setH k.toNat x).finish [b] 4)) ∧
      (shapeReserved x = true → exec (.shpSet g b k) s = .next (s.trap 0x03))) ∧
    (s.inHandler = false → Operands s [] (some a) [] → exec (.shpGet g k a) s = .next ((s.put a (s.readH k.toNat)).finish [] 4)) ∧
    (s.inHandler = true → wrongWay s.cur.rep [b] none = false → exec (.shpSet g b k) s = .next (s.trap 0x01)) ∧
    (s.inHandler = true → wrongWay s.cur.rep [] (some a) = false → exec (.shpGet g k a) s = .next (s.trap 0x01)))

/-- R313 to R316: TLD and TLD.G from raw banks of the local store, under a plain shape: the elements of each valid row come from its
row address, under the mask; nothing else of the tiles changes and memory stays.
R313 to R316: TST and TST.G into raw banks, under a plain shape: rows are stored in order, so the last row's selected elements
stand, and no byte outside the rows' selected elements changes.
R313, R316, R317: a single row of a plain shape loaded from, or stored to, global memory with every column selected: one access of
the row's bytes, and no other register changes; a fault of the access names the row in TILEPOS and traps.
The answer in hand of a row is the model's form (log 2, log 48), the header of a row beneath the base is log 153, and what a
resumed access reads log 146. -/
def Obligations.TileMemory : Prop :=
  (∀ (s : State) (m : BitVec 3) (p : BitVec 1) (j a : BitVec 5) (d : BitVec 7) (x : Word), TileReady s → s.shapeA.plain →
    (s.group d).Nodup → Operands s [a] none [x] → s.prog = none → bit (s.csr Csr.tilepos) 15 = false → s.bad = [] →
    s.soft = [] → s.Settled 0 → (∀ k < 8, s.bankFmt k = 0) →
    let z := s.shapeA
    let b := elemBits z.fmt / 8
    let e6 := (s.readE 6).toInt
    let idx (r : Nat) : Int := (BitVec.ofNat 32 ((s.tile (s.rename j.toNat)).data.toNat / 2 ^ (32 * r))).toInt
    x.toNat % b = 0 → (s.readE 6).toNat % b = 0 →
    ∀ i : Instr, (i = .tld m p 1 a d ∨ i = .tldG m p 1 j a d) →
      let dist (r : Nat) : Int := (if i = .tld m p 1 a d then (r : Int) else idx r) * e6
      (∀ k < (s.group d).length, ∀ r < z.vrows, 0 ≤ x.toNat + dist (k * z.rows + r) ∧
        x.toNat + dist (k * z.rows + r) + z.vcols * b ≤ 2 ^ 17 ∧ x.toNat + dist (k * z.rows + r) < 2 ^ 17) →
      ∃ t, exec i s = .next t ∧ TileFrame s t d ∧ ∀ k < (s.group d).length, Written s t z m p ((s.group d).getD k 0) fun q =>
        bytesNat (s.lsRead ((x.toNat + dist (k * z.rows + q / z.cols)).toNat + q % z.cols * b) b)) ∧
  (∀ (s : State) (m : BitVec 3) (j a : BitVec 5) (d : BitVec 7) (x : Word), TileReady s → s.shapeA.plain → Memory.wf s.mem = true →
    Operands s [a] none [x] → s.prog = none → bit (s.csr Csr.tilepos) 15 = false → s.bad = [] → s.soft = [] →
    (∀ k < 8, s.bankFmt k = 0) →
    let z := s.shapeA
    let b := elemBits z.fmt / 8
    let e6 := (s.readE 6).toInt
    let base := lsBase s.cur.die s.cur.core
    let idx (r : Nat) : Int := (BitVec.ofNat 32 ((s.tile (s.rename j.toNat)).data.toNat / 2 ^ (32 * r))).toInt
    x.toNat % b = 0 → (s.readE 6).toNat % b = 0 →
    ∀ i : Instr, (i = .tst m 1 a d ∨ i = .tstG m 1 j a d) →
      let off (r : Nat) : Int := x.toNat + (if i = .tst m 1 a d then (r : Int) else idx r) * e6
      (∀ k < (s.group d).length, ∀ r < z.vrows, 0 ≤ off (k * z.rows + r) ∧ off (k * z.rows + r) + z.vcols * b ≤ 2 ^ 17 ∧
        off (k * z.rows + r) < 2 ^ 17) →
      ∃ t, exec i s = .next t ∧ (∀ n, t.tile n = s.tile n) ∧
        (∀ q : Nat, (∀ k < (s.group d).length, ∀ r < z.vrows, ∀ c < z.vcols, s.maskOn m (r * z.cols + c) = true →
          ¬ ((base : Int) + off (k * z.rows + r) + c * b ≤ q ∧ (q : Int) < base + off (k * z.rows + r) + c * b + b)) →
          t.byte q = s.byte q) ∧
        (0 < z.vrows → ∀ c < z.vcols, s.maskOn m ((z.vrows - 1) * z.cols + c) = true →
          let k := (s.group d).length - 1
          bytesNat (t.bytesAt (base + (off (k * z.rows + (z.vrows - 1))).toNat + c * b) b) =
            s.elem z ((s.group d).getD k 0) ((z.vrows - 1) * z.cols + c))) ∧
  (∀ (s : State) (p : BitVec 1) (a : BitVec 5) (d : BitVec 7) (x : Word), TileReady s → s.shapeA.plain → width d = 0 →
    s.shapeA.rows = 1 → s.shapeA.vrows = 1 → 0 < s.shapeA.vcols → Operands s [a] none [x] → s.prog = none →
    bit (s.csr Csr.tilepos) 15 = false → s.me.region = none →
    let z := s.shapeA
    let b := elemBits z.fmt / 8
    let n := z.vcols * b
    let u := s.setProg (some { row := 0, mask := (s.tile 24).data, index := 0 })
    let elems := (List.range z.vcols).map fun c => s.elem z ((s.group d).getD 0 0) c
    x.toNat % b = 0 → (s.readE 6).toNat % b = 0 →
    (∀ l t, Accesses u x [(x.toNat, n)] (.read n) true 0 l t → ∃ t', exec (.tld 0 p 0 a d) s = .next t' ∧
      t'.mem = t.mem ∧ (∀ k, k ∉ s.group d → t'.tile k = t.tile k) ∧
      ∀ c < z.vcols, t'.elem z ((s.group d).getD 0 0) c = bytesNat (((t.overlay x.toNat l).drop (c * b)).take b)) ∧
    (∀ t, Accesses u x [(x.toNat, n)] (.write (packElems z.fmt elems)) true 0 [] t →
      exec (.tst 0 0 a d) s = .next ((t.setProg none).finish [a] 4)) ∧
    (∀ va info, u.waiting = .answered (.xlat va info) → exec (.tld 0 p 0 a d) s =
      .next ((u.setWait .idle).rowTrap 0 (.xlat va info))))

/-! ## Matrix -/

/-- R322 to R326, R329: MMA, MMA.G and MMAS complete: the accumulator takes the products of the rows in the extent, those of MMA.G as
its gather reads them, and its context counts the cycles that R338 gives the matrix unit for the shapes.
R121, R129, R324, R326, R327: what the products of rows of numbers below 32 leave in an accumulator, MODE by MODE. On the exact
path each touched element takes its sum under the anchor, saturated once; from MODE 00 the anchor is set first by the largest scales,
and without one on either side MODE stays 00. On the float path MODE becomes 10 and each product is added in order of k with one
rounding. No other element changes, and NV is the only flag that may be raised.
R120, R326: under an anchor, an element takes its finite products each truncated toward minus infinity onto the grid of the
anchor, exactly and in any order, and saturates once, which sets OV.
R121: the scale of a wide operand is that of its largest finite element, and an operand without one that is not zero has none; the
scale of an Aster operand is the largest field from 1 to 510 among its headers of tags 00 and 01, with the larger exponent of R110
where headers of both tags share it.
R129: one step of the float path adds the exact product to an FP32 number and rounds once to nearest; an FP32 factor is cut into the
BF16 number toward zero and the rest rounded to nearest, and its products are three, the two low parts never meeting.
R120: the special products of an element: a NaN factor or zero times infinity makes it NaN for good, and infinities of both signs
do; one infinity keeps its sign.
The instant at which the cycles are counted is the model's (log 50), and NV beside a NaN product is log 141. -/
def Obligations.MatrixProducts : Prop :=
  (∀ (s : State) (c : BitVec 1) (b a : BitVec 7) (j : BitVec 5), s.inHandler = false →
    (s.cur.rep = true ∨ s.me.regs.repActive = false) → e4Reserved (s.readE 4) = false → s.myCore.badTiles = [] →
    s.myCore.badAccs = [] → s.myCore.softTiles = [] → s.myCore.softAccs = [] →
    let x := s.shapeA
    let y := s.shapeB
    x.valid = true → y.valid = true → x.cols = y.cols → x.vcols = y.vcols → y.rows * (s.group b).length ≤ 32 →
    s.me.launch.nbv = 2 →
    let rows (l : List (Nat × Option (List Val × List Nat))) : Rows := l.map fun r => (r.1, r.2.getD ([], []))
    let go (u : State) (exact sliced : Bool) (l : List (Nat × Option (List Val × List Nat))) (n : Nat) :
        Host.Outcome State Fault Refusal :=
      let r := (u.acc c).product exact sliced x.fmt y.fmt (rows l) (rows (u.tileRows y (s.group b)))
      .next ((((u.setAcc c r.1).retire 4).count 2 n).raise r.2)
    let rate := if x.fmt = 6 ∧ y.fmt = 6 then 32 else if isAster x.fmt = true then 16 else 8
    let cycles (m : Nat) : Nat := (m + 7) / 8 * ((y.rows * (s.group b).length + 7) / 8) * ((x.cols + rate - 1) / rate) *
      (if x.fmt = 2 ∧ y.fmt = 2 then 3 else 1)
    (∀ r ∈ s.tileRows y (s.group b), r.2.isSome = true) →
    (x.rows * (s.group a).length ≤ 32 → (∀ r ∈ s.tileRows x (s.group a), r.2.isSome = true) →
      ((x.fmt = 1 ∧ y.fmt = 1 ∨ x.fmt = 2 ∧ y.fmt = 2 ∨ isAster x.fmt = true ∧ isAster y.fmt = true) → (s.acc c).mode < 2 →
        exec (.mma c b a) s = go s true (x.fmt == 2) (s.tileRows x (s.group a)) (cycles (x.rows * (s.group a).length))) ∧
      (x.fmt = 2 → y.fmt = 2 → (s.acc c).mode ≠ 1 →
        exec (.mmas c b a) s = go s false true (s.tileRows x (s.group a)) (cycles (x.rows * (s.group a).length)))) ∧
    (x.rows ≤ 32 → (x.fmt = 1 ∧ y.fmt = 1) → (s.acc c).mode < 2 →
      s.bad = [] → (∀ k < 8, s.bankFmt k = 0) → (s.readE 5).toNat % 2 = 0 →
      let offs := s.gatherOffs x (s.rename j.toNat)
      (∀ o ∈ offs, 0 ≤ o ∧ o % 2 = 0 ∧ o + 2 * x.vcols ≤ 2 ^ 17) →
      ∀ l u, s.gatherRows x 0 offs = (l, u) → (s.soft = [] → s.Settled 2 → u = s) ∧
        exec (.mmaG c b j) s = go u true false l (cycles x.rows + 2))) ∧
  (∀ (a : Acc) (sliced : Bool) (fa fb : Nat) (ra rb : Rows), ra ≠ [] → rb ≠ [] →
    (∀ r ∈ ra ++ rb, r.1 < 32) → (ra.map (·.1)).Nodup → (rb.map (·.1)).Nodup →
    let rest (r : Acc) : Prop := ∀ e, (∀ x ∈ ra, ∀ y ∈ rb, e ≠ 32 * x.1 + y.1) → r.elem e = a.elem e
    let sums (r : Acc) (anch : Option Int) : Prop := ∀ x ∈ ra, ∀ y ∈ rb,
      let v := exactSum anch (a.elem (32 * x.1 + y.1)) (products sliced x.2.1 y.2.1)
      r.elem (32 * x.1 + y.1) = { v := (saturate v.2.1).1, k := v.1 }
    let r := a.product true sliced fa fb ra rb
    let q := a.product false sliced fa fb ra rb
    (r.2 = 0 ∨ r.2 = flNV) ∧ (q.2 = 0 ∨ q.2 = flNV) ∧
    (a.mode = 1 → r.1.mode = 1 ∧ r.1.anch = a.anch ∧ rest r.1 ∧ sums r.1 (some a.anch)) ∧
    (a.mode = 0 → a.anch = 0 →
      (∀ ea ca eb cb, anchorScale fa ra = some (ea, ca) → anchorScale fb rb = some (eb, cb) →
        let n := ea + eb - 512 + ca + cb - 100
        n < 2 ^ 15 → -2 ^ 15 ≤ n → r.1.mode = 1 ∧ r.1.anch = n ∧ rest r.1 ∧ sums r.1 (some n)) ∧
      (anchorScale fa ra = none ∨ anchorScale fb rb = none → r.1.mode = 0 ∧ r.1.anch = 0 ∧ rest r.1 ∧ sums r.1 none)) ∧
    (a.mode = 0 ∨ a.mode = 2 → q.1.mode = 2 ∧
      ∀ e, q.1.elem e =
        let c : AccElem := if a.mode = 0 then {} else a.elem e
        match ra.find? (fun x => x.1 == e / 32), rb.find? (fun y => y.1 == e % 32) with
        | some x, some y => { v := BitVec.ofNat 128 ((products sliced x.2.1 y.2.1).foldl
            (fun n z => (floatStep n z.1 z.2).1) c.v.toNat), k := 0 }
        | _, _ => c)) ∧
  (∀ (c : Acc) (e : Nat) (ps : List (Dy × Dy)), c.mode = 1 →
    let p := ps.map fun q => (Val.fin q.1, Val.fin q.2)
    let term (q : Dy × Dy) : Int :=
      let v : Int := (if q.1.neg = q.2.neg then 1 else -1) * (q.1.mag * q.2.mag : Nat)
      let k := q.1.exp + q.2.exp - c.anch
      if 0 ≤ k then v * 2 ^ k.toNat else v / 2 ^ (-k).toNat
    let sum := (c.elem e).v.toInt + (ps.map term).sum
    let r := exactSum (some c.anch) (c.elem e) p
    r.1 = (c.elem e).k ∧ r.2.1 = sum ∧ r.2.2 = 0 ∧
      (-2 ^ 127 ≤ sum → sum ≤ 2 ^ 127 - 1 → (saturate sum).1.toInt = sum ∧ (saturate sum).2 = false) ∧
      (2 ^ 127 - 1 < sum → (saturate sum).1.toInt = 2 ^ 127 - 1 ∧ (saturate sum).2 = true) ∧
      (sum < -2 ^ 127 → (saturate sum).1.toInt = -2 ^ 127 ∧ (saturate sum).2 = true)) ∧
  (∀ (fmt : Nat) (rows : Rows),
    let nums (d : Dy) : Prop := d.mag ≠ 0 ∧ ∃ r ∈ rows, Val.fin d ∈ r.2.1
    let scales (e : Nat) (c : Int) : Prop := 1 ≤ e ∧ e ≤ 510 ∧ ∃ r ∈ rows, ∃ h ∈ r.2.2, hdrTag h < 2 ∧
      (e = hdrE h 0 ∨ e = hdrE h 1) ∧ c = scaleC (elemBits fmt) (hdrTag h)
    (isAster fmt = false →
      (anchorScale fmt rows = none ↔ ∀ d, ¬ nums d) ∧
      ∀ e c, anchorScale fmt rows = some (e, c) → c = 0 ∧ (∃ d, nums d ∧ (2 : Rat) ^ (e - 256) ≤ d.size) ∧
        ∀ d, nums d → d.size < (2 : Rat) ^ (e - 255)) ∧
    (isAster fmt = true →
      (anchorScale fmt rows = none ↔ ∀ e c, ¬ scales e c) ∧
      ∀ e c, anchorScale fmt rows = some (e, c) → (∃ n : Nat, e = n ∧ scales n c) ∧
        ∀ (n : Nat) k, scales n k → (n : Int) < e ∨ ((n : Int) = e ∧ k ≤ c))) ∧
  (∀ (n : Nat) (p q r : Dy), Fmt.f32.value n = .fin r → p.sticky = false → q.sticky = false →
    (∃ v : Dy, v.Is (p.rat * q.rat + r.rat) (zeroSign .rne [p.neg != q.neg, r.neg]) ∧
      floatStep n (.fin p) (.fin q) = ((Fmt.f32.pack .rne 0 (.fin v)).1, 0)) ∧
    (∃ h v : Dy, slices (.fin r) = (.fin h, Fmt.bf16.value (Fmt.bf16.pack .rne 0 (.fin v)).1) ∧
      Fmt.bf16.value (Fmt.bf16.pack .rtz 0 (.fin r)).1 = .fin h ∧ v.Is (r.rat - h.rat) (zeroSign .rne [r.neg, !h.neg])) ∧
    (∀ h l k m : Dy, slices (.fin p) = (.fin h, .fin l) → slices (.fin q) = (.fin k, .fin m) →
      products true [.fin p] [.fin q] = [(.fin h, .fin k), (.fin h, .fin m), (.fin l, .fin k)]) ∧
    (∀ z, slices (.inf z) = (.inf z, .fin {}) ∧ slices (.nan z) = (.nan z, .fin {}))) ∧
  (∀ (anch : Option Int) (x : AccElem) (p : Val × Val),
    let r := exactSum anch x [p]
    (p.1.isNan = true ∨ p.2.isNan = true → r.1 = 1 ∧ r.2.2 = 0) ∧
    (∀ n d, p = (.inf n, .fin d) ∨ p = (.fin d, .inf n) → d.mag = 0 → r.1 = 1 ∧ r.2.2 = flNV) ∧
    (∀ n k, p = (.inf n, .inf k) → x.k = 0 → r.1 = (if n = k then 2 else 3) ∧ r.2.2 = 0) ∧
    (∀ n k, p = (.inf n, .inf k) → x.k = (if n = k then 3 else 2) → r.1 = 1 ∧ r.2.2 = flNV) ∧
    (x.k = 1 → r.1 = 1) ∧
    (((∀ d, p.1 ≠ .fin d) ∨ (∀ d, p.2 ≠ .fin d)) → r.2.1 = x.v.toInt))

/-- R330: ACC.CLR sets MODE 00, OV 0 and ANCH 0 and clears every element's V and K, has no other effect, and in a handler context
traps ILLEGAL, its only trap (R325 step 1). -/
def Obligations.AccumulatorClear : Prop :=
  ∀ (s : State) (c : BitVec 1), (s.inHandler = true → exec (.accClr c) s = .next (s.trap 0x01)) ∧
    (s.inHandler = false → (s.cur.rep = true ∨ s.me.regs.repActive = false) → ∃ t, exec (.accClr c) s = .next t ∧
      (t.acc c).mode = 0 ∧ bits (t.acc c).st 63 0 = 0 ∧ (t.acc c).anch = 0 ∧
      (∀ e, ((t.acc c).elem e).v = 0 ∧ ((t.acc c).elem e).k = 0) ∧ t.acc (1 - c) = s.acc (1 - c) ∧ t.mem = s.mem ∧ t.full = s.full ∧
      (∀ n, t.tile n = s.tile n) ∧ SameOthers s t s.key ∧ t.me.regs.s = s.me.regs.s ∧ t.me.regs.p = s.me.regs.p ∧
      t.me.regs.e = s.me.regs.e ∧ t.me.regs.h = s.me.regs.h ∧ t.me.regs.q = s.me.regs.q ∧ t.me.st = s.me.st ∧
      t.csr Csr.fflags = s.csr Csr.fflags ∧ t.csr Csr.rngctr = s.csr Csr.rngctr ∧
      t.me.regs.pc = if s.cur.rep then s.me.regs.pc else s.me.regs.pc + 4)

/-- R331, R122: ACC.ANCH gives an accumulator an explicit anchor, truncating its finite elements onto the new
grid, and traps OPERAND when it holds floats.
R123, R332: ACC.DRN into BF16 or FP32 writes each element of the extent rounded once to nearest: V times 2^ANCH under an anchor,
zero from a cleared one, the FP32 number of a float one, the canonical NaN and the infinities by their classes; positions outside the extent become zero and the accumulator stays. -/
def Obligations.AccumulatorAnchorAndDrain : Prop :=
  (∀ (s : State) (c : BitVec 1) (i : BitVec 16), s.inHandler = false → (s.cur.rep = true ∨ s.me.regs.repActive = false) →
    ((s.acc c).mode = 0 → ∃ t, exec (.accAnch c i) s = .next t ∧ (t.acc c).mode = 1 ∧ (t.acc c).anch = i.toInt ∧
      (t.acc c).elems = (s.acc c).elems ∧ t.acc (1 - c) = s.acc (1 - c)) ∧
    ((s.acc c).mode = 2 → exec (.accAnch c i) s = .next (s.trap 0x03)) ∧
    ((s.acc c).mode = 1 → s.myCore.badAccs = [] → risingFrom none (SMap.keys (s.acc c).elems) = true →
      ∃ t, exec (.accAnch c i) s = .next t ∧ (t.acc c).mode = 1 ∧ (t.acc c).anch = i.toInt ∧
        ∀ e, ((s.acc c).elem e).k = 0 → let v := shiftFloor ((s.acc c).elem e).v.toInt ((s.acc c).anch - i.toInt)
          ((t.acc c).elem e).v.toInt = max (-2 ^ 127) (min (2 ^ 127 - 1) v) ∧ ((t.acc c).elem e).k = 0)) ∧
  (∀ (s : State) (c : BitVec 1) (d : BitVec 7), s.inHandler = false → (s.cur.rep = true ∨ s.me.regs.repActive = false) →
    e4Reserved (s.readE 4) = false → s.myCore.badAccs = [] →
    let x := s.shapeA
    x.valid = true → x.fmt < 3 → x.rows * (s.group d).length ≤ 32 → x.cols ≤ 32 → (s.group d).Nodup →
    let f := if x.fmt = 1 then Fmt.bf16 else Fmt.f32
    ∃ t, exec (.accDrn c d) s = .next t ∧ TileFrame s t d ∧ t.acc c = s.acc c ∧ ∀ k < (s.group d).length, ∀ i < x.size,
      let e := (s.acc c).elem (32 * (k * x.rows + i / x.cols) + i % x.cols)
      let r := t.elem x ((s.group d).getD k 0) i
      (x.inside i = false → r = 0) ∧
      (x.inside i = true →
        ((s.acc c).mode < 2 → (e.k = 1 → r = f.nan) ∧ (e.k = 2 → r = f.inf false) ∧ (e.k = 3 → r = f.inf true)) ∧
        ((s.acc c).mode = 0 → e.k = 0 → e.v = 0 → r = 0) ∧
        ((s.acc c).mode = 1 → e.k = 0 → r = (f.round .rne 0 { neg := decide (e.v.toInt < 0), mag := e.v.toInt.natAbs, exp := (s.acc c).anch }).1) ∧
        ((s.acc c).mode = 2 → e.k = 0 → r = if x.fmt = 2 then e.v.toNat % 2 ^ 32
          else (Fmt.bf16.pack .rne 0 (Fmt.f32.value (e.v.toNat % 2 ^ 32))).1)))

/-- R333, R334: the image of an accumulator is 16,704 bytes long, and reading the image of an accumulator that agrees with its status
gives that accumulator back.
R333, R334: ACC.ST writes the image at its offset and no other byte, ACC.LD reads one there; an offset that is not a multiple of 64
traps ALIGN and an image past the end of the local store LSRANGE. -/
def Obligations.AccumulatorImages : Prop :=
  (∀ a : Acc, bits a.st 63 20 = 0 → bit a.st 16 = false → a.mode < 3 →
    risingFrom none (SMap.keys a.elems) = true → (∀ p ∈ a.elems, p.1 < 1024 ∧ p.2 ≠ {}) → (a.mode = 0 → a.elems = []) →
    (a.mode = 2 → ∀ p ∈ a.elems, p.2.k = 0 ∧ p.2.v.toNat < 2 ^ 32) →
    a.image.length = 16704 ∧ Acc.ofImage a.image = some a) ∧
  (∀ (s : State) (c : BitVec 1) (a : BitVec 5) (x : Word), s.inHandler = false →
    (s.cur.rep = true ∨ s.me.regs.repActive = false) → Operands s [a] none [x] →
    let base := lsBase s.cur.die s.cur.core + x.toNat
    (x.toNat % 64 ≠ 0 → exec (.accSt c a) s = .next ((s.setCsr Csr.fltva x).trap 0x04) ∧
      exec (.accLd c a) s = .next ((s.setCsr Csr.fltva x).trap 0x04)) ∧
    (x.toNat % 64 = 0 → 2 ^ 17 < x.toNat + 16704 → exec (.accSt c a) s = .next ((s.setCsr Csr.fltva x).trap 0x05) ∧
      exec (.accLd c a) s = .next ((s.setCsr Csr.fltva x).trap 0x05)) ∧
    (x.toNat % 64 = 0 → x.toNat + 16704 ≤ 2 ^ 17 → s.bad = [] → s.soft = [] →
      (s.myCore.badAccs = [] → Memory.wf s.mem = true → ∃ t, exec (.accSt c a) s = .next t ∧
        t.bytesAt base 16704 = (s.acc c).image ∧ (∀ k, k < base ∨ base + 16704 ≤ k → t.byte k = s.byte k) ∧
        t.acc c = s.acc c) ∧
      (∀ y, s.Settled 0 → Acc.ofImage (s.lsRead x.toNat 16704) = some y → ∃ t, exec (.accLd c a) s = .next t ∧ t.acc c = y ∧
        t.mem = s.mem ∧ t.acc (1 - c) = s.acc (1 - c)) ∧
      (s.Settled 0 → Acc.ofImage (s.lsRead x.toNat 16704) = none → exec (.accLd c a) s = .next (s.trap 0x03))))

/-! ## The copy engine -/

/-- R342, R344 to R348: CPY, CPY.T, CPY.DIG, DEAL and PUT enter the string's command queue at its lowest free place when their checks
pass and, for a task, no context that came before still waits for it: the command names its context, its operands and its ticket, the
context's next ticket is one higher, the ticket goes to the destination register, and no byte of memory changes.
R335, R336: ACC.SEND enters the queue with the image of its accumulator as its payload.
The circuit's check as the command enters is log 55, the order among waiting cores log 135, and what a handler's command waits
for log 57. -/
def Obligations.CommandsEnter : Prop :=
  (∀ (s : State) (g : BitVec 3) (c b a : BitVec 5) (x y : Word) (n : Nat), Operands s [b, c] (some a) [x, y] → s.readP g = true →
    s.cur.rep = false → s.me.region = none → (if s.inHandler then (freeSlots s.myStr.queue).head? else s.entryFor) = some n →
    s.bad = [] → s.soft = [] → s.Settled 1 →
    ∀ (i : Instr) (kind : CmdKind),
      ((i = .cpy g c b a ∧ kind = .cpy ∧ s.cpyTrap .cpy x y = none) ∨
       (i = .cpyT g c b a ∧ kind = .cpyT ∧ s.cpyTrap .cpyT x y = none) ∨
       (i = .cpyDig g c b a ∧ kind = .cpyDig ∧ s.cpyTrap .cpyDig x y = none) ∨
       (i = .deal g c b a ∧ kind = .deal ∧ putReserved (s.readE 2) = false ∧ bits (s.readE 2) 62 0 = 0 ∧ x.toNat % 64 = 0) ∨
       (i = .put g c b a ∧ kind = .put ∧ s.putTrap x y = none ∧ putGlb x = false ∧ bit (s.readE 2) 62 = false)) →
      ∃ t, exec i s = .next t ∧ t.me.ticket = s.me.ticket + 1 ∧ t.mem = s.mem ∧
        t.me.regs = (s.result [b, c] a (s.me.ticket.setWidth 64) 4).me.regs ∧
        (∀ k, k ≠ n → t.myStr.queue.find? k = s.myStr.queue.find? k) ∧
        ∃ q, t.myStr.queue.find? n = some q ∧ q.kind = kind ∧ q.agent = s.cur ∧ q.ticket = s.me.ticket ∧ q.launch = s.me.launch ∧
          q.src = x ∧ q.dst = y ∧ q.e2 = s.readE 2 ∧
          (kind = .put → q.data = s.seen s.cur (putOff x) (s.lsRead (putOff x) (putLen x))) ∧
          (kind ≠ .put → q.e0 = s.readE 0 ∧ q.e1 = s.readE 1)) ∧
  (∀ (s : State) (c : BitVec 1) (b a : BitVec 5) (x y : Word) (n : Nat), Operands s [b, a] none [x, y] → s.inHandler = false →
    (s.cur.rep = true ∨ s.me.regs.repActive = false) → s.me.region = none → s.entryFor = some n →
    putReserved (s.readE 2) = false → s.goodCore y.toNat = true → y.toNat < 2048 → s.myCore.badAccs = [] → s.me.unacked < 8 →
    (x.toNat % 64 = 0 → x.toNat + 16704 ≤ 2 ^ 17 → ∃ t, exec (.accSend c b a) s = .next t ∧ t.mem = s.mem ∧ t.acc c = s.acc c ∧
      t.me.ticket = s.me.ticket + 1 ∧
      ∃ q, t.myStr.queue.find? n = some q ∧ q.kind = .accSend ∧ q.data = (s.acc c).image ∧ q.dst = x ∧ bits q.src 59 49 = y.toNat ∧
        q.ticket = s.me.ticket) ∧
    (x.toNat % 64 ≠ 0 → exec (.accSend c b a) s = .next ((s.setCsr Csr.fltva x).trap 0x04)) ∧
    (x.toNat % 64 = 0 → 2 ^ 17 < x.toNat + 16704 → exec (.accSend c b a) s = .next ((s.setCsr Csr.fltva x).trap 0x05)))

/-- R342, R202: with the queue full a task waits, in its turn, and a handler traps. A task waits, too, while contexts that came before
it wait for the entries that are free; a handler does not. Waiting changes no context and no byte of memory.
R344 to R346: what the copy instructions refuse at issue.
FLTVA of a local-store range trap is the model's reading (log 56). -/
def Obligations.CommandRefusals : Prop :=
  (∀ (s : State) (g : BitVec 3) (c b a : BitVec 5) (x y : Word), Operands s [b, c] (some a) [x, y] → s.readP g = true →
    s.me.region = none → s.cpyTrap .cpy x y = none →
    (freeSlots s.myStr.queue = [] →
      (s.inHandler = false → exec (.cpy g c b a) s = .next s.joinWaiters) ∧
      (s.inHandler = true → exec (.cpy g c b a) s = .next (s.trap 0x06))) ∧
    (s.inHandler = true → freeSlots s.myStr.queue ≠ [] → ∃ t, exec (.cpy g c b a) s = .next t ∧ t.me.ticket = s.me.ticket + 1 ∧
      t.myStr.waiters = s.myStr.waiters) ∧
    (s.inHandler = false → (freeSlots s.myStr.queue).length ≤ s.waitersAhead.length →
      exec (.cpy g c b a) s = .next s.joinWaiters) ∧
    (s.waitersAhead = [] → freeSlots s.myStr.queue ≠ [] → s.entryFor = (freeSlots s.myStr.queue).head?) ∧
    s.joinWaiters.ctxs = s.ctxs ∧ s.joinWaiters.mem = s.mem ∧ s.joinWaiters.myStr.queue = s.myStr.queue) ∧
  (∀ (s : State) (g : BitVec 3) (c b a : BitVec 5) (x y : Word), Operands s [b, c] (some a) [x, y] → s.readP g = true →
    let e := s.readE 2
    (bits e 49 48 ≠ 0 ∨ bits e 35 32 ≠ 0 → exec (.cpy g c b a) s = .next (s.trap 0x03) ∧
      exec (.cpyT g c b a) s = .next (s.trap 0x03) ∧ exec (.cpyDig g c b a) s = .next (s.trap 0x03)) ∧
    (bits e 31 0 = 0 → exec (.cpy g c b a) s = .next (s.trap 0x03) ∧ exec (.cpyDig g c b a) s = .next (s.trap 0x03)) ∧
    (bit e 63 = true → bit e 61 = false → exec (.cpy g c b a) s = .next (s.trap 0x03)) ∧
    (cpyReserved e = false → bits e 31 0 ≠ 0 → bit e 61 = false → bit e 62 = false → bit e 63 = false → y.toNat % 8 ≠ 0 →
      exec (.cpyDig g c b a) s = .next ((s.setCsr Csr.fltva y).trap 0x04)) ∧
    (cpyReserved e = false → bit e 61 = false → bit e 63 = false → s.readE 0 = 0 → s.readE 1 = 0 → bits e 31 0 = 0 →
      bit e 62 = false → bits (s.readE 3) 31 0 = 0 → x.toNat % 16 ≠ 0 →
      exec (.cpyT g c b a) s = .next ((s.setCsr Csr.fltva x).trap 0x04)) ∧
    (cpyReserved e = false → bits e 31 0 ≠ 0 → bit e 61 = false → bit e 63 = false → bit e 62 = true → s.readE 0 = 0 →
      s.readE 1 = 0 → 2 ^ 17 < x.toInt + bits e 31 0 → exec (.cpy g c b a) s = .next ((s.setCsr Csr.fltva x).trap 0x05)))

/-- R349, R350: CPY.W gives the status of a finished command, and GONE for a ticket that is not kept; it waits for an unfinished one,
which the polling form reports with its predicate. The details of a fault go to their registers.
R82, R97, R99, R343, R349: the engine's own events. A step of an ACC.SEND sends the next portion of its payload, and the step after
the last one ends it with OK; a payload's arrival writes its bytes and no others, in its core's store, or in the image of a saved task
of that core; a distributor reads and sends its line of a deal;
a command that has ended and whose payloads have arrived leaves its queue with its status kept.
R82, R343 to R346, R348, R349, R426: the steps of CPY, CPY.T, CPY.DIG and PUT over standing circuits. A read asks for the next
bytes of the source in linear order: at most a line of the issuer's store, which answers at once, or the rest of a 256 B unit in one
portion of HBM, which goes to its port group. A read that has come joins the staged bytes. A line of the destination filled goes, by its
bytes and its place in linear order, to the local store or to the home of its address, and DONE counts what has gone. CPY.DIG writes the
SHAKE256 digest of what it has read; CPY.T writes the plaintext of a chunk whose stream is bound, whose counter is higher than the last
and whose tag is right, and ends otherwise with its code and nothing written; PUT writes the bytes that it read at issue.
The portions of a command and their order are the model's (log 51, log 57), how a leg rides a circuit log 55, and what is
logged of an erroneous word log 119. -/
def Obligations.CommandStatusAndEngine : Prop :=
  (∀ (s : State) (g p : BitVec 3) (b a : BitVec 5) (x : Word), Operands s [b] (some a) [x] → s.readP g = true →
    (65536 ≤ x.toNat → exec (.cpyW g b a) s = .next (s.trap 0x03) ∧ exec (.cpyWPoll g p b a) s = .next (s.trap 0x03)) ∧
    (x.toNat < 65536 →
      let t : BitVec 16 := x.setWidth 16
      (s.cmdPending t = true →
        (s.inHandler = false → exec (.cpyW g b a) s = .next s) ∧ (s.inHandler = true → exec (.cpyW g b a) s = .next (s.trap 0x06)) ∧
        exec (.cpyWPoll g p b a) s = .next ((s.writeP p false).finish [b] 4)) ∧
      (s.cmdPending t = false → ∃ st : CmdStatus,
        (s.me.statuses.find? (fun y => y.ticket == t) = some st ∨
          (s.me.statuses.find? (fun y => y.ticket == t) = none ∨ 32 ≤ (s.me.ticket - 1 - t).toNat) ∧
            st.status = 0x0F00000000000000) ∧
        exec (.cpyW g b a) s = .next (((s.putDetails st).put a st.status).finish [b] 4) ∧
        exec (.cpyWPoll g p b a) s = .next ((((s.putDetails st).put a st.status).writeP p true).finish [b] 4) ∧
        (bits st.status 63 56 = 1 → (s.putDetails st).csr Csr.fltva = st.va ∧ (s.putDetails st).csr Csr.fltinfo = st.info) ∧
        (bits st.status 63 56 = 2 → (s.putDetails st).csr Csr.fltva = st.va ∧ (s.putDetails st).csr Csr.merrinfo = st.info) ∧
        (bits st.status 63 56 = 3 → (s.putDetails st).csr Csr.fltva = st.va ∧ (s.putDetails st).csr Csr.raceinfo = st.info) ∧
        (bits st.status 63 56 = 0 → s.putDetails st = s)))) ∧
  (∀ (s : State) (die : BitVec 2) (str : BitVec 8) (slot pg : BitVec 4) (i : Nat) (c : Cmd), Memory.wf s.mem = true →
    s.bad = [] →
    let d := die.toNat
    let k := str.toNat
    let n := slot.toNat
    (s.cmdAt d k n = some c → c.kind = .accSend → c.fin = none → s.mustWait d k c = false →
      (c.pos < c.data.length → ∃ t, exec (.engineExecute die str slot 1) s = .next t ∧ t.mem = s.mem ∧ ∃ p,
        (t.dieAt d).payloads = (s.dieAt d).payloads ++ [p] ∧ p.core = s.cmdCore c ∧ p.off = (c.dst + word c.pos).toNat ∧
        p.bytes = (c.data.drop c.pos).take p.bytes.length ∧ 0 < p.bytes.length ∧
        ∃ q, t.cmdAt d k n = some q ∧ q.pos = c.pos + p.bytes.length ∧ q.out = c.out + 1) ∧
      (c.pos = c.data.length → ∃ t q, exec (.engineExecute die str slot 1) s = .next t ∧ t.cmdAt d k n = some q ∧
        q.fin = some (0, 0, 0) ∧ q.done = c.pos)) ∧
    (∀ p, (s.dieAt d).payloads[i]? = some p → ((s.dieAt d).payloads.take i).any (·.clash p) = false →
      let start := lsBase (s.storeDie d p.core) p.core + p.off
      ∃ t, exec (.payloadArrival die i) s = .next t ∧ (t.dieAt d).payloads = (s.dieAt d).payloads.eraseIdx i ∧
        (∀ j < p.bytes.length, t.byte (start + j) = p.bytes.getD j 0) ∧
        ∀ a, a < start ∨ start + p.bytes.length ≤ a → t.byte a = s.byte a) ∧
    (s.cmdAt d k n = some c → c.kind = .deal → c.fin = none → c.started = true → pgOf (c.src + word c.pos) = pg.toNat →
      s.rideOfDeal d c c.cid pg.toNat (s.dealTarget c c.pos).1 = .standing → s.mayServe d pg.toNat c.launch.ten.toNat = true →
      (s.dealTarget c c.pos).2 % 64 = 0 → addrFault (c.src + word c.pos) 64 = none →
      (c.pos + 64 = dealTotal c ∨ pgOf (c.src + word (c.pos + 64)) ≠ pg.toNat) →
      ∀ e u l v, s.pgTranslate d pg.toNat c.launch.asid.toNat (c.src + word c.pos) 64 0 = (.ok e, u) → e.kind = 0 →
        u.perform d .ports c.who (c.src + word c.pos) [((c.src + word c.pos).toNat, 64)] (.read 64) = (.data l, v) →
        l.length = 64 →
        v.cmdAt d k n = some c →
        ∃ t q, exec (.dealBlock die str slot pg) s = .next t ∧ t.cmdAt d k n = some q ∧ q.pos = c.pos + 64 ∧
          ∃ p, (t.dieAt d).payloads = (v.dieAt d).payloads ++ [p] ∧ p.bytes = l ∧
            (p.core, p.off) = s.dealTarget c c.pos) ∧
    (∀ code va info, s.cmdAt d k n = some c → c.fin = some (code, va, info) → c.out = 0 →
      ∃ t, exec (.commandComplete die str slot) s = .next t ∧ t.cmdAt d k n = none ∧ t.mem = s.mem ∧
        ((s.ctxOf (ctxKey d c.agent.core c.agent.ctx)).launch.uid = c.launch.uid →
          ((s.ctxOf (ctxKey d c.agent.core c.agent.ctx)).ticket - 1 - c.ticket).toNat < 32 →
          ∃ st, (t.ctxOf (ctxKey d c.agent.core c.agent.ctx)).statuses.head? = some st ∧ st.ticket = c.ticket ∧
            bits st.status 63 56 = code.toNat ∧ bits st.status 47 0 = c.done % 2 ^ 48 ∧ st.va = va ∧ st.info = info)) ∧
    (s.cmdAt d k n = none → exec (.engineExecute die str slot i) s = .next s ∧ exec (.commandComplete die str slot) s = .next s)) ∧
  (∀ (s : State) (die : BitVec 2) (str : BitVec 8) (slot : BitVec 4) (c : Cmd) (l : List Byte), s.bad = [] → s.soft = [] →
    let d := die.toNat
    let k := str.toNat
    let n := slot.toNat
    s.cmdAt d k n = some c → c.fin = none → s.mustWait d k c = false → c.cid = 0 → c.short = 0 →
    let runs (f : State → Cmd → Prop) : Prop :=
      ∃ t q, exec (.engineExecute die str slot 1) s = .next t ∧ t.mem = s.mem ∧ t.cmdAt d k n = some q ∧ f t q
    let stops (code : BitVec 8) (done : Nat) : Prop := runs fun _ q => q.fin = some (code, 0, 0) ∧ q.done = done
    let gathers := c.kind = .cpyDig ∧ c.started = false ∧ c.pos ≠ c.total ∨ c.kind = .cpyT ∧ c.started = false ∧ c.pos ≠ c.goal ∧
      (c.pos = 16 → chunkBad c c.data = false)
    let copies := c.kind = .cpy ∧ c.converts = false ∧ c.pos ≠ c.total
    let reading := copies ∧ c.data = [] ∨ gathers
    let result := c.kind = .put ∨ (c.kind = .cpyDig ∨ c.kind = .cpyT) ∧ c.started = true
    let writing := l ≠ [] ∧ ((copies ∧ c.reads = [] ∧ c.goal ≤ c.asked ∧ c.data ≠ [] ∧
        c.writeRoom ≤ c.data.length ∧ l = c.data.take c.writeRoom) ∨
      (result ∧ c.pos < c.data.length ∧ l = (c.data.drop c.pos).take c.writeRoom))
    (reading → c.localSrc = true → c.reads = [] → c.asked < c.goal →
      (∀ w, olderVals c.agent 1 (s.older.getD w []) = []) →
      let a := (c.srcRun c.asked).1
      let m := min (c.srcRun c.asked).2 (64 - a.toNat % 64)
      runs fun _ q => q = { c with reads := [{ pos := c.asked, va := a, n := m, wait := .answered (.data
        (s.seen c.agent a.toNat (s.bytesAt (lsBase d c.core + a.toNat) m))) }] }) ∧
    (∀ x, reading → c.localSrc = false → c.reads = [] → c.asked < c.goal → c.srcPart = some x → x.has c.asked = true →
      let a := x.va + word (c.asked - x.pos)
      let m := min (x.pos + x.n - c.asked) (256 - a.toNat % 256)
      let r := s.partReq d k n c x c.asked m (.read m)
      ∀ p ps, r.peer = false → r.pieces = p :: ps → (∀ y ∈ p :: ps, y.vault = false ∧
        (s.strAt d k).stops.contains (c.launch.ten.toNat * 16 + y.unit) = false) →
        s.mayAsk d k c.launch.ten.toNat (pgOf a) = true →
        runs fun t q => (t.pgAt d p.unit).queue = (s.pgAt d p.unit).queue ++ [{ r with pg := p.unit }] ∧
          q.reads = [{ pos := c.asked, va := (c.srcRun c.asked).1, n := m, aim := x.aim, wait := .sent }]) ∧
    (∀ r rest, gathers → c.reads = r :: rest → r.reply = some (.data l) → l.length = r.n → c.goal ≤ c.asked →
      (c.kind = .cpyT → 16 ≤ c.pos ∧ 16 ≤ c.data.length) →
      runs fun _ q => q.data = c.data ++ l ∧ q.pos = c.pos + l.length ∧ q.reads = rest ∧ q.fin = none) ∧
    (∀ r, copies → c.data = [] → c.reads = [r] → r.reply = some (.data l) → l.length = r.n → c.goal ≤ c.asked → c.localDst = true →
      l ≠ [] → l.length = c.writeRoom → runs fun t q => ∃ p, (t.dieAt d).payloads = (s.dieAt d).payloads ++ [p] ∧
        p.core = s.dstCore c ∧ p.off = (c.dstRun c.pos).1.toNat ∧ p.bytes = l ∧ q.pos = c.pos + l.length ∧ q.data = [] ∧
        q.reads = [] ∧ q.out = c.out + 1) ∧
    (writing → c.localDst = true → runs fun t q => ∃ p, (t.dieAt d).payloads = (s.dieAt d).payloads ++ [p] ∧
        p.core = s.dstCore c ∧ p.off = (c.dstRun c.pos).1.toNat ∧ p.bytes = l ∧ q.pos = c.pos + l.length ∧ q.out = c.out + 1) ∧
    (∀ x, writing → c.localDst = false → c.wait = .idle → c.dstPart = some x → x.has c.pos = true →
      let r := s.partReq d k n c x c.pos l.length (.write l)
      ∀ p ps, r.peer = false → r.pieces = p :: ps → (∀ y ∈ p :: ps, y.vault = false ∧
        (s.strAt d k).stops.contains (c.launch.ten.toNat * 16 + y.unit) = false) →
        runs fun t q => (t.pgAt d p.unit).queue = (s.pgAt d p.unit).queue ++ [{ r with pg := p.unit }] ∧ q.wait = .sent ∧
          q.pos = c.pos) ∧
    (∀ z, writing → c.localDst = false → c.wait = .performed (.data z) → runs fun _ q => q.pos = c.pos + l.length ∧ q.wait = .idle) ∧
    (c.kind = .cpy → c.pos = c.total → stops 0 c.total) ∧
    (result → c.pos = c.data.length → stops 0 (if c.kind = .cpyDig then c.done else c.pos)) ∧
    (c.kind = .cpyDig → c.started = false → c.pos = c.total → c.localDst = true →
      runs fun _ q => q.started = true ∧ q.data = shake256 32 c.data ∧ q.pos = 0 ∧ q.done = c.total) ∧
    (c.kind = .cpyT → c.started = false → c.pos = 16 → chunkBad c c.data = true → stops 0x0D 0) ∧
    (c.kind = .cpyT → c.started = false → 16 < c.pos → c.pos = c.goal →
      let id : BitVec 32 := BitVec.ofNat 32 (bits c.e3 63 32)
      let hdr := c.data.take 16
      let ctr := word (bytesNat (hdr.take 8))
      ((s.dieAt d).streamOf id c.launch.asid = none → stops 0x0C 0) ∧
      ∀ x, (s.dieAt d).streamOf id c.launch.asid = some x →
        (ctr ≤ x.last → stops 0x0B 0) ∧
        (x.last < ctr →
          let got := gcmOpen x.key (beBytes 4 id.toNat ++ beBytes 8 ctr.toNat) hdr ((c.data.drop 16).take (chunkLen hdr))
            (c.data.drop (16 + chunkLen hdr))
          (got = none → stops 0x0A 0) ∧
          (∀ m, got = some m → c.localDst = true → runs fun t q => q.started = true ∧ q.data = m ∧ q.pos = 0 ∧
            ∃ y ∈ (t.dieAt d).streams, y.id = id ∧ y.asid = c.launch.asid ∧ y.last = ctr))))

/-! ## Circuits and links -/

/-- R351: a CIRC instruction sends its request, with the operands and E0 and E1, to the yardmaster of its die and waits; the word of
the acceptance goes to its destination register as it retires.
R52 to R59: the yardmaster's events. An acceptance reaches the instruction that waits for it; a query is answered with the
circuit's status, STALE where it names none; a request that fails its checks is answered with its code and changes no circuit. An open
or a widening whose search succeeds is answered PENDING at once and reserves its path and its chains. A waiting request that is woken
and finds nothing goes on waiting; one whose search succeeds leaves the waiting ones with its path and its chains; one whose deadline
has passed is refused. Once a revolution a flit of up to four writes is sent, which take effect at the start of the next, and a flit
that has to cross a link at half width wakes it first. The last write of a grant opens the circuit, and its status is OK. The entries of
a removed chain are written to idle by flits too, and then the requests that wait for its links are woken.
The order of service is the model's (log 88), a deadline of 0 and an empty list of paths are log 127 and log 128, what crosses
packages is log 130, the ways through the link die and the configuration tree are free (log 8, log 24), and the order of the
ways to another package is log 137. -/
def Obligations.Circuits : Prop :=
  (∀ (s : State) (g : BitVec 3) (c b a : BitVec 5) (x y w : Word), s.readP g = true → s.cur.rep = false →
    ∀ (i : Instr) (op : CircOp) (srcs : List (BitVec 5)),
      (((i = .circOpen g b a ∧ op = .openC ∨ i = .circWiden g b a ∧ op = .widen ∨ i = .circQ g b a ∧ op = .query) ∧
          srcs = [b] ∧ Operands s [b] (some a) [x]) ∨
        (i = .circClose g c b a ∧ op = .close ∧ srcs = [b, c] ∧ Operands s [b, c] (some a) [x, y])) →
      (s.waiting = .answered (.word w) → exec i s = .next (((s.setWait .idle).put a w).finish srcs 4)) ∧
      (s.waiting = .sent → exec i s = .next s) ∧
      (s.waiting = .idle → ∃ r : CircReq, r.op = op ∧ r.agent = s.cur ∧ r.pad = s.me.launch.pad ∧ r.asid = s.me.launch.asid ∧
        r.b = x ∧ (op = .close → r.c = y) ∧ r.e0 = s.readE 0 ∧ r.e1 = s.readE 1 ∧ r.arrival = s.wt ∧
        exec i s = .next ((s.modYard s.cur.die fun v => { v with reqs := v.reqs ++ [r] }).setWait .sent))) ∧
  (∀ (s : State) (die : BitVec 2) (yard : BitVec 3) (i : Nat) (r : CircReq) (rest : List CircReq) (c : Circuit),
    let d := die.toNat
    let k := yard.toNat
    let y := s.yardAt k
    let accept (w : Word) : Host.Outcome State Fault Refusal :=
      .next (s.modYard k fun y => { y with reqs := rest, accepts := y.accepts ++ [(r.agent, w)] })
    let u := s.modYard k fun v => { v with waiting := v.waiting.eraseIdx i }
    (∀ a w, (s.yardAt d).accepts[i]? = some (a, w) → a.ctx ≠ 3 → (s.ctxOf (ctxKey a.die a.core a.ctx)).wait = .sent →
      ∃ t, exec (.circAcceptance die i) s = .next t ∧ (t.yardAt d).accepts = (s.yardAt d).accepts.eraseIdx i ∧
        (t.ctxOf (ctxKey a.die a.core a.ctx)).wait = .answered (.word w)) ∧
    let found (t : State) (cid : Nat) (path starts : List Nat) (held : List Chain) : Prop := ∃ q, t.circuit? k cid = some q ∧
      q.path = path ∧ q.chains = held ++ newChains held starts ∧ t.slots = s.slots
    (y.reqs = r :: rest → y.waiting.any (·.woken) = false → r.agent.ctx ≠ 3 → r.seg = none →
      (r.op = .query → bits r.b 63 12 = 0 → s.circuit? k (bits r.b 11 0) = some c → c.pad = r.pad → c.st = .open →
        exec (.circuitRequest yard) s = accept c.status) ∧
      (r.op = .query → (bits r.b 63 12 ≠ 0 ∨ s.circuit? k (bits r.b 11 0) = none) →
        exec (.circuitRequest yard) s = accept (circStatus 7 (bits r.b 11 0) 0 0)) ∧
      (r.op = .openC → bits r.b 63 32 ≠ 0 → exec (.circuitRequest yard) s = accept (circStatus 3 0 0 0)) ∧
      (r.op = .close → s.circuit? k (bits r.b 11 0) = none →
        exec (.circuitRequest yard) s = accept (circStatus 7 (bits r.b 11 0) 0 0)) ∧
      (∀ cid path starts resp, r.op = .openC → bits r.b 63 32 = 0 → bits r.e0 63 32 = 0 → bits r.e1 63 39 = 0 →
        s.epsOk k r (r.b.setWidth 32) (r.e0.setWidth 32) = true → 0 < bits r.e1 38 32 → bits r.e1 38 32 ≤ 64 →
        s.overQuota k r.pad (bits r.e1 38 32) = false → s.freeCid k = some cid →
        s.wt.toNat ≤ r.arrival.toNat + bits r.e1 31 0 →
        let w := circStatus 10 cid 0 0
        let z : Circuit :=
          { cid := cid, pad := r.pad, src := r.b.setWidth 32, dst := r.e0.setWidth 32, status := w, latest := 1, since := s.wt
            xpkg := s.farOf k r.asid (r.e0.setWidth 32) }
        let v := ((s.modYard k fun y => { y with reqs := rest }).setCircuit k z).acceptCirc k r w
        let x : CircReq := { r with cid := cid, n := bits r.e1 38 32, num := 1, deadline := r.arrival.toNat + bits r.e1 31 0 }
        v.search k z none (v.pathsFor x z) x.n true = .grant path starts resp →
        ∃ t, exec (.circuitRequest yard) s = .next t ∧ (t.yardAt k).accepts = y.accepts ++ [(r.agent, w)] ∧ found t cid path starts []) ∧
      (∀ path starts resp, r.op = .widen → bits r.b 63 12 = 0 → s.circuit? k (bits r.b 11 0) = some c → c.cid = bits r.b 11 0 →
        c.pad = r.pad → c.st = .open → bits r.e1 63 39 = 0 → 0 < bits r.e1 38 32 → c.width + bits r.e1 38 32 ≤ 64 →
        s.overQuota k r.pad (bits r.e1 38 32) = false → s.wt.toNat ≤ r.arrival.toNat + bits r.e1 31 0 →
        let w := circStatus 10 c.cid c.width 0
        let z : Circuit := { c with latest := c.latest + 1, status := w }
        let v := ((s.modYard k fun y => { y with reqs := rest }).setCircuit k z).acceptCirc k r w
        v.search k z none [c.path] (bits r.e1 38 32) false = .grant path starts resp →
        ∃ t, exec (.circuitRequest yard) s = .next t ∧ (t.yardAt k).accepts = y.accepts ++ [(r.agent, w)] ∧
          found t c.cid path starts c.chains)) ∧
    (y.waiting[i]? = some r → (y.waiting.take i).any (·.woken) = false → r.woken = true → s.circuit? k r.cid = some c →
      (r.op = .openC ∨ c.st = .open ∧ c.width + r.n ≤ 64) → s.wt.toNat ≤ r.deadline → r.seg = none → c.cid = r.cid →
      (u.search k c none (u.pathsFor r c) r.n (r.op == .openC) = .waits →
        ∃ t, exec (.circuitResearch yard i) s = .next t ∧ (t.yardAt k).waiting = y.waiting.set i { r with woken := false } ∧
          t.circuit? k r.cid = some c ∧ t.slots = s.slots) ∧
      (∀ path starts resp, u.search k c none (u.pathsFor r c) r.n (r.op == .openC) = .grant path starts resp →
        ∃ t, exec (.circuitResearch yard i) s = .next t ∧ (t.yardAt k).waiting = y.waiting.eraseIdx i ∧
          found t r.cid path starts c.chains)) ∧
    (y.waiting[i]? = some r → (y.waiting.take i).any (·.woken) = true ∨ r.woken = false →
      exec (.circuitResearch yard i) s = .next s) ∧
    (y.waiting[i]? = some r → r.woken = false → r.deadline < s.wt.toNat → s.circuit? k r.cid = some c → c.cid = r.cid →
      c.seg = none → r.seg = none → c.latest = r.num → (r.op = .openC ∨ c.st = .open ∧ c.width + r.n ≤ 64) →
      ∃ t q hop, exec (.circuitDeadline yard i) s = .next t ∧ (t.yardAt k).waiting = y.waiting.eraseIdx i ∧
        t.circuit? k r.cid = some q ∧ (r.op = .openC → q.st = .refused) ∧ q.status = circStatus 1 r.cid c.width hop ∧
        q.chains = c.chains) ∧
    (∀ ws l, y.exch = ws :: l → exec (.exchangeRequest yard) s = .next (s.modYard k fun v => { v with exch := l, cfg := v.cfg ++ ws })) ∧
    (y.cfg ≠ [] → y.cfg.length ≤ 4 → y.flying = [] → y.flitRev ≠ s.rev + 1 → (∀ w ∈ y.cfg, (s.linkAt w.link).half = false) →
      exec (.configurationFlit yard) s = .next (s.modYard k fun v => { v with cfg := [], flying := v.cfg, flitRev := s.rev + 1 })) ∧
    (y.flitRev = s.rev + 1 → exec (.configurationFlit yard) s = .next s) ∧
    (∀ w ws, y.cfg = w :: ws → y.flying = [] → y.flitRev ≠ s.rev + 1 → (s.linkAt w.link).half = true → bit w.entry 31 = true →
      exec (.configurationFlit yard) s = .next (s.wakeLinks [w.link])) ∧
    (∀ w, s.yards = [(k, y)] → y.flying = [w] → w.kind = 0 →
      (s.landFlits.yardAt k).flying = [] ∧ (s.landFlits.slots.getD w.link []).getD w.slot 0 = w.entry ∧
        ∀ j n, (j ≠ w.link ∨ n ≠ w.slot) → (s.landFlits.slots.getD j []).getD n 0 = (s.slots.getD j []).getD n 0) ∧
    (∀ w ws, s.yards = [(k, y)] → y.flying = [w] → w.kind = 3 → w.die = k → s.circuit? k w.cid = some c → c.cid = w.cid →
      c.plan = [(k, ws)] → c.latest = w.num → c.ends = [] → c.seg = none → c.st = .pending → c.suspended = false →
      c.status.toNat / 2 ^ 56 ≠ 8 → w.link = c.path.headD 0 → yardOf w.link = k → bit w.entry 31 = true →
      bits w.entry 23 12 = w.cid → ∃ q, s.landFlits.circuit? k w.cid = some q ∧ q.st = .open ∧ q.plan = [] ∧
        q.status = circStatus 0 c.cid c.width 0 ∧ q.path = c.path ∧ q.chains.map (·.num) = c.chains.map (·.num) ∧
        ∀ h ∈ c.chains, h.start = w.slot → h.num = bits w.entry 11 4 → ∃ g ∈ q.chains, g.num = h.num ∧ g.start = h.start ∧ g.live = true) ∧
    (∀ x, y.clears[i]? = some x → x.due ≤ s.wt.toNat → x.left = none → x.links ≠ [] → (∀ p ∈ x.links, yardOf p.1 = k) →
      k < 5 → ∃ t ws, exec (.chainClear yard i) s = .next t ∧ (t.yardAt k).cfg = y.cfg ++ ws ∧ t.slots = s.slots ∧
        ws.map (fun w => (w.link, w.slot)) = x.links ∧ ∀ w ∈ ws, w.entry = idleEntry w.link w.slot) ∧
    (∀ w x, s.yards = [(k, y)] → y.flying = [w] → w.kind = 4 → w.die = k → y.clears = [x] → x.cid = w.cid → x.num = w.num →
      x.chain = w.chain → x.left = some 1 → s.circuit? k x.cid = none →
      (s.landFlits.yardAt k).clears = [] ∧ (s.landFlits.slots.getD w.link []).getD w.slot 0 = w.entry ∧
        ∀ q ∈ (s.landFlits.yardAt k).waiting, q.cand.any (x.links.map (·.1)).contains = true → q.woken = true))

/-- R43, R48, R51, R64 to R69, R410: the links and wheel time across packages. A word whose slot has come goes over the link whose
entry names it and is at the next router, or at its endpoint, when the link's delay has passed; the word that the receiver expects
next is taken; one that no entry names is discarded and counted; a failing link fails in both directions and is counted at its die; spares change nothing but their count; an
idle link sheds lanes, one that holds a slot, written or not, does not, and a shed link wakes after its wake time; the offset from the master is kept; alignment sets WTIME once.
The identity of a word on a link is log 20, the torus's sizes and the link die's places are free (log 24), and the points that
the rules leave unsaid are log 89 to log 92, log 125, log 126, log 132 and log 152. -/
def Obligations.LinkEvents : Prop :=
  ∀ (s : State) (die : BitVec 2) (unit : BitVec 4) (row : BitVec 5) (col : BitVec 6) (link : Nat) (o m dom : BitVec 64)
    (yard : BitVec 3) (cid num xyz : BitVec 12) (delay : Nat) (c : Circuit),
    let d := die.toNat
    let l := s.linkAt link
    (∀ f, s.flits = [f] → f.unit = unit.toNat → f.row = row.toNat → f.col = col.toNat → f.wt ≤ s.wt → f.src = false →
      f.back = false →
      (∀ k, f.inp ≠ 7 → s.namedLink f = some k → ∃ g, exec (.slotForward unit row col) s = .next { s with flits := [g] } ∧
        g.wt = f.wt + word (s.linkDelay k) ∧ g.die = f.die ∧ g.cid = f.cid ∧ g.seq = f.seq) ∧
      (f.inp = 7 → s.circuit? f.die f.cid = some c → c.cid = f.cid → f.seq = c.rx → c.words = [] →
        ∃ t q, exec (.slotForward unit row col) s = .next t ∧ t.flits = [] ∧ t.circuit? f.die f.cid = some q ∧ q.rx = c.rx + 1) ∧
      (f.inp ≠ 7 → unit.toNat < 8 → s.namedLink f = none → (s.dieAt (unit.toNat % 4)).misroute.toNat < 2 ^ 64 - 1 →
        ∃ t, exec (.slotForward unit row col) s = .next t ∧ t.flits = [] ∧
          (t.dieAt (unit.toNat % 4)).misroute = (s.dieAt (unit.toNat % 4)).misroute + 1)) ∧
    (isUcie link = true ∨ isPackage link = true → l.failed = false → (s.dieAt d).linkFail.toNat < 2 ^ 64 - 1 →
      (∀ y ∈ s.yards, ∀ p ∈ y.2.circuits, p.2.crosses [link, reverseLink link] = false) →
      (∀ p ∈ s.pkg.peers, p.crosses [link, reverseLink link] = false) →
      ∃ t, exec (.linkFailure die link) s = .next t ∧ (t.linkAt link).failed = true ∧ (t.linkAt (reverseLink link)).failed = true ∧
        (yardOf link = d → (t.dieAt d).linkFail = (s.dieAt d).linkFail + 1)) ∧
    (isUcie link = true ∨ isPackage link = true → l.failed = false →
      exec (.laneRepair link) s = .next (s.modLink link fun x => { x with repairs := x.repairs + 1 })) ∧
    (isUcie link = true ∨ isPackage link = true ∨ isMesh link = true → l.failed = false → l.half = false →
      s.linkHolds link = false → l.idle.toNat + 20000 ≤ s.wt.toNat →
      exec (.laneShed link) s = .next (s.modLink link fun x => { x with half := true, waking := none })) ∧
    (∀ t, l.waking = some t → t.toNat + 2000 ≤ s.wt.toNat →
      exec (.linkWake link) s = .next (s.modLink link fun x => { x with half := false, waking := none, idle := s.wt }).placeWoken) ∧
    (∀ t, l.waking = some t → s.wt.toNat < t.toNat + 2000 → exec (.linkWake link) s = .next s) ∧
    (l.failed = true → ∃ t, exec (.linkReturn link) s = .next t ∧ (t.linkAt link).failed = false) ∧
    (s.linkHolds link = true → exec (.laneShed link) s = .next s) ∧
    (s.circuit? yard.toNat cid.toNat = some c → c.suspended = true → c.plan = [] → c.chains.any (·.live) = true →
      c.cid = cid.toNat → c.back.words = [] → ∃ t q,
      exec (.replay yard cid) s = .next t ∧ t.circuit? yard.toNat cid.toNat = some q ∧ q.suspended = false ∧ q.chains = c.chains ∧
        t.flits.length = s.flits.length + (c.words.filter fun w => (w.seq - c.rx).toNat < 32768).length) ∧
    (o.toInt.natAbs ≤ 2 → exec (.timeExchange o) s = .next { s with pkg := { s.pkg with offset := o.toInt } }) ∧
    (s.pkg.member = true → s.pkg.aligned = false → s.noPaddock = true → s.wt.toNat % 256 = 0 → m.toNat % 256 = 0 →
      ∃ t, exec (.timeAlign m) s = .next t ∧ t.wt = m ∧ t.pkg.aligned = true ∧ t.mem = s.mem ∧ t.ctxs = s.ctxs) ∧
    (s.pkg.aligned = true → exec (.timeAlign m) s = .next s) ∧
    ((∀ k ∈ packageKeys, (s.linkAt k).out = true) → s.pkg.member = false →
      exec (.domainMembership dom num xyz) s = .next { s with pkg := { s.pkg with
        member := true, domain := dom, number := num, coords := xyz, aligned := false } }) ∧
    (isPackage link = true → s.pkg.member = true → s.pkg.aligned = true → s.pkg.domain = dom → s.pkg.number ≠ num →
      keyRow link = 2 → torusStep s.pkg.coords (keyCol link / 6) = xyz → 1 ≤ delay → delay ≤ 64 → s.pkg.offset.natAbs ≤ 2 → l.failed = false →
      s.pkg.peers.any (fun p => p.dst == peerFar num) = true →
      exec (.packageLinkCheck link dom num xyz delay) s =
        .next (s.modLink link fun x => { x with out := false, delay := delay, idle := s.wt }))

/-! ## Port groups and vaults -/

/-- R70 to R73, R75: tokens. A refill, once a period from wheel time 0 on, gives every tenant its share less its deficit and puts the shares no tenant owns into the pool; a
stop notice makes the port hold the tenant's requests, and a go notice lets them go once a token is to be had.
The instants are the agenda's (log 13), demand is computed as it stands (log 80), what a go notice releases is log 29, and the
shares between two refills are log 117. -/
def Obligations.TokenEvents : Prop :=
  ∀ (s : State) (die : BitVec 2) (pg : BitVec 4) (port : BitVec 10) (ten : BitVec 8),
    let d := die.toNat
    let sdie := portDie port
    let str := portStr port
    let g := s.pgAt d pg.toNat
    let n := ten.toNat * 16 + pg.toNat
    let k := peerStopKey d pg.toNat ten.toNat
    let x := s.strAt sdie str
    (g.tokens.period ≤ s.wt.toNat / 1024 → g.tokens.debts = [] → ∃ t, exec (.tokenRefill die pg) s = .next t ∧
      (t.pgAt d pg.toNat).tokens.period = s.wt.toNat / 1024 + 1 ∧
      (∀ k ∈ (s.dieAt d).tenants, ((t.pgAt d pg.toNat).tokens.bucket k).b =
        ((s.dieAt d).share (·.hsh) k : Int) - (g.tokens.bucket k).deficit ∧
        ((t.pgAt d pg.toNat).tokens.bucket k).deficit = 0 ∧ ((t.pgAt d pg.toNat).tokens.bucket k).borrowed = 0) ∧
      (t.pgAt d pg.toNat).tokens.pool = 5120 - (((s.dieAt d).tenants.map fun k => (s.dieAt d).share (·.hsh) k).sum : Nat)) ∧
    (s.wt.toNat / 1024 < g.tokens.period → exec (.tokenRefill die pg) s = .next s) ∧
    (g.stopped.contains ten.toNat = true ∨ (s.tokensAt d pg.toNat).canTake (s.dieAt d).tenants ten.toNat = false →
      ∃ t, exec (.stopNotice die pg port ten) s = .next t ∧ (t.pgAt d pg.toNat).stopped.contains ten.toNat = true ∧
        (t.strAt sdie str).stoppedFor d pg.toNat ten.toNat = true ∧
        (sdie = d → (t.strAt d str).stops.contains n = true) ∧ t.mem = s.mem) ∧
    (x.stoppedFor d pg.toNat ten.toNat = true → x.held.any (s.reqFor d pg.toNat ten.toNat) = true → x.beacons.find? k ≠ some (s.rev + 1) →
      exec (.demandBeacon die pg port ten) s =
        .next ((s.setStr sdie str { x with beacons := x.beacons.set k (s.rev + 1) }).noteDemand d pg.toNat)) ∧
    (∀ r, x.stoppedFor d pg.toNat ten.toNat = true → (s.tokensAt d pg.toNat).canTake (s.dieAt d).tenants ten.toNat = true →
      0 < s.tokensFree d pg.toNat ten.toNat → x.held = [r] → s.reqFor d pg.toNat ten.toNat r = true → r.up = 0 → r.peer = false → r.slot = none →
      ∃ t, exec (.goNotice die pg port ten) s = .next t ∧ (t.strAt sdie str).held = [] ∧
        (t.strAt sdie str).stoppedFor d pg.toNat ten.toNat = false ∧
        (t.pgAt sdie r.pg).queue = (s.pgAt sdie r.pg).queue ++ [r] ∧
        (t.pgAt d pg.toNat).stopped.contains ten.toNat = false) ∧
    (x.stoppedFor d pg.toNat ten.toNat = false → exec (.goNotice die pg port ten) s = .next s)

/-- R30, R34, R72, R85 to R90, R452: what port groups and vaults perform. A queued access of the tenant whose turn it is is performed
and answered; a peer access or reduction goes on to its exporter's port group, or out of the package, one that comes by the link die
too, and an access that its handle does not allow is refused; a response that has arrived completes.
R85, R88 to R92, R103: posted reductions at their home, at the place that their posting translated or, where it did not, as the port
group translates it. A whole word becomes the operation's result. REDF adds its operand, taken as FP32, to its contributor's slot; one
outside a region of its element format, one whose contributor has no slot and one to a vault are logged and change nothing. REDF.U folds
its line and then adds to the element in the element's format. One whose address is wrong is logged.
R91: the fold of a result line adds to each element, in FP32 and in ascending order of the contributors, the slots that are not
zero, rounds a BF16 element back once at the end, leaves an element all of whose slots are zero, and sets the slots to zero. Nothing but
the line and its slots changes, and a fold that finds every slot zero changes no memory.
The order of posted reductions is the agenda's (log 107), and the model's points of peer accesses, of the folds under a store
and of forwarding are log 29, log 81, log 116, log 125, log 132, log 138 and log 149. -/
def Obligations.HomeEvents : Prop :=
  (∀ (s : State) (die : BitVec 2) (pg : BitVec 4) (point : BitVec 5) (vault : BitVec 6) (ten : BitVec 8) (core : BitVec 11)
    (ctx : BitVec 2) (r : Req) (p : Posted),
    let d := die.toNat
    let g := s.pgAt d pg.toNat
    (∀ l, g.queue = r :: l → r.ten = ten → s.mayServeAll d ten.toNat r.pieces = true →
      ∀ x u, (s.modPg d pg.toNat fun y => { y with queue := l }).performPieces d r.who r.va r.op r.pieces = (x, u) →
        exec (.hbmAccess die pg ten) s = .next (u.answerReq r x)) ∧
    (∀ l, g.queue = r :: l → r.ten = ten → s.mayServeAll d ten.toNat r.pieces = false → exec (.hbmAccess die pg ten) s = .next s) ∧
    (g.peerQ = [.access r] → point.toNat = pg.toNat →
      (s.goesFar (.access r) = false → (r.exporter.die = d ∨ s.peerCircuit (peerPg d pg.toNat) (peerPg r.exporter.die pg.toNat) = true) →
        ∃ t, exec (.peerForward die point) s = .next t ∧ (t.pgAt d pg.toNat).peerQ = [] ∧
          (t.pgAt r.exporter.die r.pg).peerIn = (s.pgAt r.exporter.die r.pg).peerIn ++ [r]) ∧
      (s.goesFar (.access r) = true → s.peerCircuit (peerPg d pg.toNat) peerLd = true →
        ∃ t, exec (.peerForward die point) s = .next t ∧ (t.pgAt d pg.toNat).peerQ = [] ∧ t.pkg.ldQ = s.pkg.ldQ ++ [.access r])) ∧
    (g.peerQ = [.reduction p] → point.toNat = pg.toNat → p.exporter.pkg = s.pkg.number →
      (p.exporter.die = d ∨ s.peerCircuit (peerPg d pg.toNat) (peerPg p.exporter.die pg.toNat) = true) →
        ∃ t, exec (.peerForward die point) s = .next t ∧ (t.pgAt d pg.toNat).peerQ = [] ∧
          (t.pgAt p.exporter.die (pgOf p.va)).posted = (s.pgAt p.exporter.die (pgOf p.va)).posted ++ [p]) ∧
    (s.pkg.ldQ = [.access r] → point = 16 → s.goesFar (.access r) = false → s.peerCircuit peerLd (peerPg r.exporter.die r.pg) = true →
      ∃ t, exec (.peerForward die point) s = .next t ∧ t.pkg.ldQ = [] ∧
        (t.pgAt r.exporter.die r.pg).peerIn = (s.pgAt r.exporter.die r.pg).peerIn ++ [r]) ∧
    (s.pkg.ldQ = [.access r] → point = 16 → r.ipkg = s.pkg.number →
      ∀ x ∈ r.tos, r.tos.find? (fun x => x.pkg != s.pkg.number) = some x → s.farCircuit x.pkg = true →
      ∃ t, exec (.peerForward die point) s = .next t ∧ t.pkg.ldQ = [] ∧
        (t.dieAt r.idie).peerOut = (s.dieAt r.idie).peerOut ++ [r]) ∧
    (g.peerIn = [r] → r.ipkg = s.pkg.number → let u := s.modPg d pg.toNat fun y => { y with peerIn := [] }
      (∀ run x, r.runs = [run] → r.tos = [x] → (s.dieAt x.die).handle x.hnd.toNat = [0, 0, 0, 0] →
        exec (.peerAccess die pg) s = .next (u.answerReq r (refusedReply r))) ∧
      (∀ l v x w, s.mayServe d pg.toNat ((s.dieAt d).exporterTen r) = true → u.peerParts r (r.runs.zip r.tos) = (some l, v) →
        v.performParts r 0 [] l = (x, w) → w.pkg.number = s.pkg.number → exec (.peerAccess die pg) s = .next (w.answerReq r x))) ∧
    (∀ x, (s.ctxOf (ctxKey d core.toNat ctx.toNat)).wait = .performed x → ∃ t, exec (.accessResponse die core ctx) s = .next t ∧
      (t.ctxOf (ctxKey d core.toNat ctx.toNat)).wait = .answered x ∧ t.mem = s.mem)) ∧
  (∀ (s : State) (die : BitVec 2) (pg : BitVec 4) (vault : BitVec 6) (p : Posted) (rest : List Posted), p.peer = false →
    let d := die.toNat
    let w := p.who p.agent p.launch
    let logged (u : State) (code : Nat) : State := u.logFault p.agent p.launch p.ident p.va p.opnd code p.opField.toNat 4
    let served (v : State) (ps : List Piece) : State := (v.servePieces d w ps).correctPieces d ps
    ∀ (i : Instr) (u : State),
      (i = .vaultAccess die vault ∧ (s.vaultAt d vault.toNat).posted = p :: rest ∧
          u = s.setVault d vault.toNat { s.vaultAt d vault.toNat with posted := rest }) ∨
      (i = .reductionApply die pg ∧ (s.pgAt d pg.toNat).posted = p :: rest ∧ s.postedReady d pg.toNat p = true ∧
          u = s.modPg d pg.toNat fun y => { y with posted := rest }) →
      (addrFault p.va p.size ≠ none → exec i s = .next (logged u 1)) ∧
      (addrFault p.va p.size = none → bit p.va 47 = false → ∀ ps v, (match p.piece with
          | some x => ps = [x] ∧ v = u
          | none => u.pieces d .ports p.launch.asid.toNat 3 (lineParts 2 p.va.toNat p.size) = (.ok ps, v)) →
        (p.form = 0 → v.badPiece? d ps = none → exec i s = .next ((served v ps).storePieces d w ps
          (natBytes p.size (atomicNew p.op.toNat (8 * p.size) (bytesNat ((served v ps).readPieces d ps)) p.opnd.toNat)))) ∧
        (p.form ≠ 0 → ps.any (·.vault) = true → exec i s = .next (logged v 0x22)) ∧
        (p.form = 1 → ps.any (·.vault) = false →
          ((v.dieAt d).regionAt p.launch.asid.toNat p.va.toNat = none → exec i s = .next (logged v 0x20)) ∧
          ∀ r, (v.dieAt d).regionAt p.launch.asid.toNat p.va.toNat = some r →
            (regionBf r ≠ (p.op == 1) → exec i s = .next (logged v 0x20)) ∧
            (regionBf r = (p.op == 1) → regionC r ≤ p.contrib.toNat → exec i s = .next (logged v 0x23)) ∧
            (regionBf r = (p.op == 1) → p.contrib.toNat < regionC r → ∀ qs z,
              v.foldPieces d p.launch.asid.toNat (regionSlots r + p.contrib.toNat * regionSpan r +
                (p.va.toNat - regionBase r) / regionEsize r * 4) 4 = (.ok qs, z) →
              let y := z.servePieces d w qs
              let x := if p.op = 1 then (Fmt.f32.pack .rne 0 (Fmt.bf16.value (p.opnd.toNat % 65536))).1 else p.opnd.toNat
              exec i s = .next (y.storePieces d w qs (natBytes 4 (Fmt.f32.add .rne 0 (bytesNat (y.readPieces d qs)) x).1)))) ∧
        (p.form = 2 → ps.any (·.vault) = false → ∀ z z',
          v.foldFor d p.launch.asid.toNat p.launch.ten.toNat p.launch.pad.toNat ps = (.ok z, z') → z.badPiece? d ps = none →
          exec i s = .next ((served z ps).storePieces d w ps (natBytes p.size
            ((if p.op = 1 then Fmt.bf16 else Fmt.f32).add .rne 0 (bytesNat ((served z ps).readPieces d ps)) p.opnd.toNat).1))))) ∧
  (∀ (s v u : State) (die : BitVec 2) (r : List Word) (x ten pad : Nat) (p : Piece) (slots : List (List Piece)),
    let d := die.toNat
    let e := regionEsize r
    let k := 64 / e
    let all := p :: slots.flatten
    s.foldPieces d (regionAsid r) (regionBase r + x) 64 = (.ok [p], v) → v.slotPieces d r x (regionC r) = (.ok slots, u) →
    (∀ q ∈ all, q.n = 64 ∧ q.at d % 64 = 0) → (all.map (·.at d)).Nodup → (∀ q ∈ slots, q.length = 4 / e) →
    let elem (j : Nat) : Nat := (groupsOf e k (u.readPieces d [p])).getD j 0
    let vals (j : Nat) : List Nat := slots.map fun q => (groupsOf 4 k (u.readPieces d q)).getD j 0
    let sum (from_ : Nat) (l : List Nat) : Nat := l.foldl (fun v y => if y = 0 then v else (Fmt.f32.add .rne 0 v y).1) from_
    let new (j : Nat) : Nat :=
      if ∀ y ∈ vals j, y = 0 then elem j
      else if regionBf r then (Fmt.bf16.pack .rne 0 (Fmt.f32.value
        (sum (Fmt.f32.pack .rne 0 (Fmt.bf16.value (elem j))).1 (vals j)))).1
      else sum (elem j) (vals j)
    ∃ t, (s.foldLine d r x ten pad).1 = .ok t ∧
      ((∀ j < k, ∀ y ∈ vals j, y = 0) → t.mem = u.mem) ∧
      ((∃ j < k, ∃ y ∈ vals j, y ≠ 0) → Memory.wf u.mem = true →
        (∀ j < k, (groupsOf e k (t.readPieces d [p])).getD j 0 = new j) ∧
        (∀ q ∈ slots, ∀ b ∈ t.readPieces d q, b = 0) ∧
        ∀ a, (∀ q ∈ all, a < q.at d ∨ q.at d + 64 ≤ a) → t.byte a = u.byte a))

/-! ## Guards, frames, traps -/

/-- R218: an instruction whose guard is false goes on and does nothing else: its queues keep their values, no memory is accessed and
no trap is raised. -/
def Obligations.GuardFalse : Prop :=
  ∀ (s : State) (i : Instr) (g : BitVec 3), wf i = true → s.cur.rep = false → guardOf i = some g → s.readP g = false →
    exec i s = .next (s.retire 4) ∧ (s.retire 4).me.regs.pc = s.me.regs.pc + 4 ∧ (s.retire 4).mem = s.mem ∧
    (s.retire 4).me.regs.q = s.me.regs.q ∧ (s.retire 4).me.regs.s = s.me.regs.s ∧ (s.retire 4).me.regs.p = s.me.regs.p

/-- R244: the integer, predicate and floating-point instructions complete when their operands are ready, and change nothing but the
registers that their forms name. -/
def Obligations.RegisterFrames : Prop :=
  ∀ (s : State) (i : Instr) (f : RegisterForm) (vs : List Word), s.cur.rep = false → registerForm i = some f →
    Operands s f.srcs f.dst vs → s.readP f.guard = true → ∃ t, exec i s = .next t ∧ RegisterFrame s t f

/-- R363, R369, R370, R372, R375: TRAP and BRK take their trap. The context parks, detached, with TCAUSE, TEPC and TSTAT written and
every other register as it was; no byte of memory changes; and the record of eight words stands last among those of its string, or
in the supervisor-fault report when the supervisor context itself has trapped (R377).
R364: ERET. The supervisor context names a parked context of its paddock and an even address below 2^48; that context runs again
at the address, and a context whose repeat stream trapped goes on where it was. Other names and addresses trap.
ERET after a trap of the repeat stream follows log 32, and the report of the supervisor's own trap log 34. -/
def Obligations.TrapsAndReturns : Prop :=
  (∀ (s : State) (g : BitVec 3) (k : BitVec 10), s.readP g = true → s.cur.rep = false →
    ∀ (i : Instr) (cause code : Nat), (i = .trap g k ∧ cause = 0x11 ∧ code = k.toNat) ∨ (i = .brk g ∧ cause = 0x12 ∧ code = 0) →
      ∃ t, exec i s = .next t ∧
        t.csr Csr.tcause = BitVec.ofNat 64 (s.me.launch.lid.toNat * 2 ^ 52 + code * 2 ^ 42 + (s.agentId s.cur).toNat * 2 ^ 28 + cause) ∧
        t.csr Csr.tepc = s.me.regs.pc ∧
        bits (t.csr Csr.tstat) 1 0 = 0 ∧ (bit (t.csr Csr.tstat) 7 = s.me.region.isSome) ∧ (bit (t.csr Csr.tstat) 5 = s.me.att) ∧
        (∀ n, n ≠ Csr.tcause → n ≠ Csr.tepc → n ≠ Csr.tstat → t.csr n = s.csr n) ∧
        t.me.st = .parked ∧ t.me.att = false ∧ t.me.regs.pc = s.me.regs.pc ∧ t.me.regs.s = s.me.regs.s ∧
        t.me.regs.p = s.me.regs.p ∧ t.me.regs.q = s.me.regs.q ∧ t.mem = s.mem ∧ SameOthers s t s.key ∧
        let ws := [t.csr Csr.tcause, t.csr Csr.tepc, t.csr Csr.tstat, s.csr Csr.fltva, 0, s.csr Csr.reppos, s.csr Csr.tilepos, s.wt]
        (s.meSupv = false → t.myStr.traps = s.myStr.traps ++ [{ pad := s.me.launch.pad, words := ws }]) ∧
        (s.meSupv = true → t.myDie.supFault.find? s.me.launch.pad.toNat = some ws)) ∧
  (∀ (s : State) (g : BitVec 3) (b a : BitVec 5) (pc id : Word), s.readP g = true → s.cur.rep = false →
    (s.meSupv = false → wrongWay false [b, a] none = false → exec (.eret g b a) s = .next (s.trap 0x02)) ∧
    (s.meSupv = true → Operands s [b, a] none [pc, id] →
      (∀ x, s.agentNamed id = some x → (s.ctxOf (ctxKey x.die x.core x.ctx)).st = .parked → x.same s.cur = false →
        ctxKey x.die x.core x.ctx ≠ s.key →
        let k := ctxKey x.die x.core x.ctx
        let c := s.ctxOf k
        (bit pc 0 = false → bits pc 63 48 = 0 → ∃ t, exec (.eret g b a) s = .next t ∧
          t.ctxOf k = { c with
            st := if c.halted then .ended else .running
            halted := false
            regs := if bit (c.regs.getCsr Csr.tcause) 41 then c.regs else { c.regs with pc := pc } } ∧
          t.me.regs.pc = s.me.regs.pc + 4 ∧ t.mem = s.mem ∧ t.cores = s.cores ∧
          ∀ j, j ≠ k → j ≠ s.key → t.ctxOf j = s.ctxOf j) ∧
        (bit pc 0 = true → exec (.eret g b a) s = .next (s.trap 0x01)) ∧
        (bit pc 0 = false → bits pc 63 48 ≠ 0 → exec (.eret g b a) s = .next (s.trap 0x03))) ∧
      (s.agentNamed id = none → exec (.eret g b a) s = .next (s.trap 0x03)) ∧
      (∀ x, s.agentNamed id = some x → (s.ctxOf (ctxKey x.die x.core x.ctx)).st ≠ .parked →
        exec (.eret g b a) s = .next (s.trap 0x03))))

/-- R14, R29, R33, R89, R206, R232, R373: privilege. In a task that is neither the supervisor context nor one of the physical
function, a read or write of a management register takes the privilege trap, and so do TLBI.R, CTX.SAVE and CTX.RST; only contexts
of the physical function reach the slot registers, and only the supervisor context LCDAT, TSCR and BARDAT; a register without a writable
field is not written.
That a read traps like a write, and who may reach each register, follow log 73. -/
def Obligations.Privilege : Prop :=
  ∀ (s : State) (g : BitVec 3) (r : BitVec 12) (c b a : BitVec 5) (v : Word), s.readP g = true → s.cur.rep = false →
    s.inHandler = false → s.me.regs.repActive = false →
    let out : Host.Outcome State Fault Refusal := .next (s.trap 0x02)
    (s.meSupv = false →
      (wrongWay false [b, c, a] none = false → exec (.tlbiR g c b a) s = out) ∧
      (wrongWay false [a] none = false → exec (.ctxSave g a) s = out) ∧
      (wrongWay false [b, a] none = false → exec (.ctxRst g b a) s = out)) ∧
    ((0x100 ≤ r.toNat ∧ r.toNat ≤ 0x125 ∧ s.meSupv = false ∧ s.mePf = false ∨
      (r.toNat = 0x130 ∨ r.toNat = 0x131) ∧ s.mePf = false ∨
      (r.toNat = 0x005 ∨ r.toNat = 0x063 ∨ r.toNat = 0x071) ∧ s.meSupv = false) →
      (Operands s [] (some a) [] → exec (.csrr g r a) s = out) ∧ (Operands s [a] none [v] → exec (.csrw g r a) s = out)) ∧
    (r.toNat ∈ [0x000, 0x001, 0x003, 0x016, 0x018, 0x050, 0x051, 0x055, 0x060, 0x061, 0x062] → bit (s.coreCsr Csr.tscr) 60 = false →
      Operands s [a] none [v] → exec (.csrw g r a) s = out)

/-! ## The machine -/

/-- R13, R29, R42, R79, R89, R119, R195, R370, R422: what the spec's reset columns give. Every ASID-table, handle and region entry is
clear; WTIME is zero; the bank, channel and trap registers are zero; each accumulator is in MODE 00 with OV 0, ANCH 0 and every
element V = 0, K = 00; and the thermal threshold is 95. -/
def Obligations.ResetValues : Prop :=
  let s := State.reset
  s.wt = 0 ∧ s.pkg.threshold = 95 ∧
  (∀ d n : Nat, (s.dieAt d).asidWords n = (0, 0) ∧ (s.dieAt d).handle n = [0, 0, 0, 0] ∧
    (s.dieAt d).regions.getD n [0, 0, 0] = [0, 0, 0]) ∧
  ∀ k : Nat, ((s.coreOf k).acc0.st = 0 ∧ (s.coreOf k).acc1.st = 0 ∧
      ∀ e, (s.coreOf k).acc0.elem e = {} ∧ (s.coreOf k).acc1.elem e = {}) ∧
    (∀ n, Csr.bfmt ≤ n → n < Csr.chptr + 8 → (s.coreOf k).csr.getD n 0 = 0) ∧
    ∀ n, n ∈ [Csr.tcause, Csr.tepc, Csr.tstat] → (s.ctxOf k).regs.getCsr n = 0

/-- R168, R216, R217, R371: a step runs the instruction that the bytes at the program counter decode to, when its cache line is held
and the present agent may issue, lets no other stream's trap go first and has no event to take (or its own instruction is about to trap,
which goes first); the halfwords join the decoded window of an attached string, and an illegal encoding takes the illegal-instruction
trap. An instruction in the window executes from it. A step whose agenda names an agent, an event, a passing of time or an input does
that.
The agenda is the model's own (log 1). -/
def Obligations.StepRunsDecoded : Prop :=
  ∀ s : State,
    let clear : Prop := s.yields = false ∧ (s.waiting.faulted = true ∨ s.eventWaits = false)
    (s.agenda = [] → s.canRun = true → s.cur.rep = false → clear → s.windowed = none →
      ∀ l, s.cacheLine s.me.launch.asid (s.me.regs.pc &&& ~~~(63 : Word)) = some l →
        let off := s.me.regs.pc.toNat % 64
        let bs : List Byte := (List.range 4).map fun k => BitVec.ofNat 8 (l.data.toNat / 2 ^ (8 * (off + k)))
        let h := l.data.toNat / 2 ^ (8 * off) % 65536
        let raw := if h % 4 = 3 then l.data.toNat / 2 ^ (8 * off) % 2 ^ 32 else h
        off ≤ 60 → (∀ i n, decode bs = .instr i n → step s = exec i (s.noteDecoded raw)) ∧
        (∀ e n, decode bs = .illegal e n → step s = .next ((s.noteDecoded raw).trap 0x01)) ∧
        (s.me.att = false → s.noteDecoded raw = s)) ∧
    (s.agenda = [] → s.canRun = true → s.cur.rep = false → clear →
      (∀ w i n, s.windowed = some w → decodeRaw w = .instr i n → step s = exec i s) ∧
      (∀ i n t, s.fetchNext = (.ok (.instr i n), t) → step s = exec i t) ∧
      ∀ r t, s.fetchNext = (.error r, t) → step s = .next (t.trapReply r)) ∧
    (s.agenda = [] → s.canRun = false → step s = .next s) ∧
    (s.agenda = [] → s.cur.rep = true → s.me.wait.faulted = true → (s.me.waitRep.faulted = true ∨ s.eventWaits = true) →
      step s = .next s) ∧
    (s.agenda = [] → s.cur.rep = false → s.me.wait.faulted = false → s.me.waitRep.faulted = true → s.eventWaits = true →
      step s = .next s) ∧
    (s.agenda = [] → s.canRun = true → s.me.wait.faulted = false → s.me.waitRep.faulted = false →
      (s.me.pendFp = true → ∃ t, step s = .next t ∧ t.me.pendFp = false ∧ t.me.st = .parked) ∧
      (s.me.pendFp = false → s.me.pendFpRep = false → s.me.pendOvf = true → s.waiting = .idle →
        step s = .next ((s.modMe fun c => { c with pendOvf := false }).trap 0x0F))) ∧
    (s.agenda = [] → s.canRun = true → s.cur.rep = true → clear →
      ∀ w i, s.me.regs.repBuf[bits (s.csr Csr.reppos) 51 48]? = some w → decode32 w.toNat = .ok i → step s = exec i s) ∧
    (∀ p rest, s.agenda = p :: rest →
      (∀ a, p = .run a → step s = runAgent ({ s with agenda := rest }.as a)) ∧
      (∀ e, p = .event e → isWord e = false → step s = exec e { s with agenda := rest }) ∧
      (∀ e, p = .event e → isWord e = true → step s = .fault .notAnEvent) ∧
      (∀ n, p = .pass n → step s = .next ({ s with agenda := rest }.pass n)) ∧
      (∀ x, p = .input x → step s = .next ({ s with agenda := rest }.input x)))

/-- R216, R219 to R222, R234 to R237: a word of each of the families that the comments name, written out from its encoding, decodes
to the instruction it stands for, and words with a reserved bit, an unlisted opcode, function or compact form are illegal. -/
def Obligations.DecodesWords : Prop :=
  -- ADD S9, S10, S11 under P2: G 010, FN 00000, C 01011, B 01010, A 01001, OP 0000001, 11
  decode32 0b010_00000_01011_01010_01001_0000001_11 = .ok (.add 2 11 10 9) ∧
  -- the same with FN 11111, which R236 does not list
  decode32 0b010_11111_01011_01010_01001_0000001_11 = .error .function ∧
  -- C.ADD S9, S10: D 01001, A 01010, 0, Q 011, 00
  decode16 0b01001_01010_0_011_00 = .ok (.cAdd 9 10) ∧
  -- C.NOP, and a 16-bit word that R234 excludes: the same with a bit set that it requires to be zero
  decode16 0b0000000000000101 = .ok .cNop ∧ decode16 0b0000000000100101 = .error .compactForm ∧
  -- opcode 0x00
  decode32 0b11 = .error .opcode ∧
  -- BP under P3, on false: PN 011, NG 1, OFF, OP 0010010, 11
  decode32 0b011_1_1011001110101100110_0010010_11 = .ok (.bp 3 1 367974) ∧
  -- LD from local store: G 101, SP 1, IMM 1011001, WD 10 (4 B), SB 10011, SA 11011, OP 0011000, 11
  decode32 0b101_1_1011001_10_10011_11011_0011000_11 = .ok (.ld 5 1 89 2 19 27) ∧
  -- FENCE.X of classes 4 and 3 at scope 9: G 101, FN 00001, SC 00011, SB 00100, SA 01001, OP 0100011, 11
  decode32 0b101_00001_00011_00100_01001_0100011_11 = .ok (.fenceX 5 3 4 9) ∧
  -- FADD of BF16: G 101, RM 100, TY 01, SC 01010, SB 10011, SA 11011, OP 0101000, 11
  decode32 0b101_100_01_01010_10011_11011_0101000_11 = .ok (.fadd 5 4 1 10 19 27) ∧
  -- TADD under mask 6, zeroing: MASK 110, P 1, TB 10011, TA 0100100, TD 1011001, OP 1000000, 11
  decode32 0b110_1_10011_0100100_1011001_1000000_11 = .ok (.tadd 6 1 19 36 89) ∧
  -- MMA into A1: AD 1, 0, TB 1001001, TA 0100100, TD 0, OP 1100000, 11
  decode32 0b1_0_1001001_0100100_0000000_1100000_11 = .ok (.mma 1 73 36) ∧
  -- CPY: G 101, FN 00000, SC 01010, SB 10011, SA 11011, OP 1110000, 11
  decode32 0b101_00000_01010_10011_11011_1110000_11 = .ok (.cpy 5 10 19 27) ∧
  -- CSRR of register 0x041: G 101, CSR 000001000001, 000, SA 11011, OP 1111001, 11
  decode32 0b101_000001000001_000_11011_1111001_11 = .ok (.csrr 5 65 27)

/-- R216 to R237: decoding and encoding agree: the bytes of every well-formed instruction word decode to it, with every operand at
every value that the encoding admits, whatever bytes follow. -/
def Obligations.RoundTrip : Prop :=
  ∀ (i : Instr) (rest : List Byte), isWord i = true → wf i = true →
    (instrLen i = 2 ∨ instrLen i = 4) ∧ decode (encode i ++ rest) = .instr i (instrLen i)

/-- The canonical form of memory is kept by every step, whatever it is: addresses strictly rise and no zero byte is listed, so that
equal memories are equal data (the model's own form of R78, R83 and R20's memories).
What an unlisted byte reads as is log 4. -/
def Obligations.MemoryCanonical : Prop := ∀ s t : State, Memory.wf s.mem = true → step s = .next t → Memory.wf t.mem = true

/-- Memory is in its canonical form after reset.
What an unlisted byte reads as is log 4. -/
def Obligations.ResetCanonical : Prop := Memory.wf State.reset.mem = true

/-! ## Contexts and system registers -/

/-- R365, R366, R389: IDEM.BEGIN opens a region with a checkpoint of the context's registers, tiles and accumulators; IDEM.END with no
region open has no effect, with an empty buffer it closes the region, and a non-empty fault log halts it (R104). A non-empty buffer is
committed first (R390): the line that was stored to first is one access with the stored bytes, sent to its port group when HBM holds it,
performed at once when a vault does; the instruction waits for the answer, takes the trap of a fault and leaves the buffer, and closes
the region when the last line has been performed. A checkpoint that is complete makes the region discardable unless an event has ended that; CTX.LIVE sets the mask.
R364, R385: CTX.SAVE writes the image of a parked task into its core's slot, where it stays saved with TSTAT.STATE 01, and the core is
free; it waits while the slot is taken, or something that the core's contexts have issued is under way. CTX.RST restores a saved task
on a free core of its string, where it stays parked, with its registers, its tiles and its local store, and the image is gone.
The image's parts that stay in place are log 83, the stop and what is asked again are log 84, a commit that faults is log 148,
an arrival at a muster in a discarded region log 144, and the image slot and a restore on another core are log 85. -/
def Obligations.RegionsSaveRestore : Prop :=
  (∀ (s : State) (g : BitVec 3) (a : BitVec 5) (x : Word) (die : BitVec 2) (core : BitVec 11), s.readP g = true → s.cur.rep = false →
    (s.inHandler = true → exec (.idemBegin g) s = .next (s.trap 0x01)) ∧
    (s.inHandler = false → s.me.region.isSome = true ∨ s.me.regs.repActive = true → exec (.idemBegin g) s = .next (s.trap 0x03)) ∧
    (s.inHandler = false → s.me.region = none → s.me.regs.repActive = false → ∃ t r, exec (.idemBegin g) s = .next t ∧
      t.me.region = some r ∧ r.begin = s.me.regs.pc ∧ r.buf = [] ∧ r.disc = false ∧ r.ck.regs = s.me.regs ∧
      r.ck.tiles = s.myCore.tiles ∧ r.ck.acc0 = s.myCore.acc0 ∧ r.ck.acc1 = s.myCore.acc1 ∧ t.me.regs.pc = s.me.regs.pc + 4 ∧
      t.me.regs.s = s.me.regs.s ∧ t.mem = s.mem) ∧
    (s.me.region = none → exec (.idemEnd g) s = .next (s.retire 4)) ∧
    (∀ r, s.me.region = some r → r.buf = [] →
      (s.me.flog = [] → exec (.idemEnd g) s = .next ((s.modMe fun c => { c with region := none }).retire 4)) ∧
      (s.me.flog ≠ [] → exec (.idemEnd g) s = .next (s.trap 0x0F))) ∧
    (∀ r b rest, s.me.region = some r → r.buf = b :: rest →
      let t := s.modMe fun c => { c with region := some { r with disc := false, broken := true } }
      let va := word ((b.runs.head?.map (·.1)).getD b.va.toNat)
      let lines := b.runs.flatMap fun x => lineParts 1026 x.1 x.2
      (s.waiting = .sent → exec (.idemEnd g) s = .next t) ∧
      (∀ d, s.waiting = .answered (.data d) → rest = [] →
        (s.me.flog = [] → ∃ u, exec (.idemEnd g) s = .next u ∧ u.me.region = none ∧ u.me.wait = .idle ∧
          u.me.regs.pc = s.me.regs.pc + 4 ∧ u.mem = s.mem) ∧
        (s.me.flog ≠ [] → ∃ u, exec (.idemEnd g) s = .next u ∧ u.me.st = .parked ∧ u.mem = s.mem)) ∧
      (∀ e, s.waiting = .answered e → (∀ d, e ≠ .data d) → exec (.idemEnd g) s = .next ((t.setWait .idle).trapReply e)) ∧
      (s.waiting = .idle → rangesFault b.runs = none → (∀ x ∈ b.runs, x.1 < 2 ^ 47) →
        (∀ f u, t.pieces s.cur.die (.core s.cur.core) s.me.launch.asid.toNat 1 lines = (.error f, u) →
          exec (.idemEnd g) s = .next (u.trapReply (.xlat va (fltInfo f 0 1 s.me.launch.asid.toNat va)))) ∧
        (∀ ps u, t.pieces s.cur.die (.core s.cur.core) s.me.launch.asid.toNat 1 lines = (.ok ps, u) →
          (ps.any (fun p => !p.vault) = true → exec (.idemEnd g) s =
            .next ((u.sendHbm s.cur.die s.strNo { t.reqOf va b.runs (.write b.bytes) true 0 b.stores with pieces := ps }).setWait .sent)) ∧
          (ps.all (fun p => p.vault) = true →
            ∀ d v, u.performPieces s.cur.die (u.who 0 true 0 b.stores) va (.write b.bytes) ps = (.data d, v) → rest = [] →
              v.buffer = [b] → v.me.flog = [] →
              exec (.idemEnd g) s = .next (((v.setBuf []).modMe fun c => { c with region := none }).retire 4))))) ∧
    (∀ r, (s.task die.toNat core.toNat).region = some r → ∃ t, exec (.checkpointComplete die core) s = .next t ∧
      (t.task die.toNat core.toNat).region = some { r with ckDone := true, disc := !r.broken } ∧ t.mem = s.mem) ∧
    (Operands s [a] none [x] →
      (2 ^ 32 ≤ x.toNat → exec (.ctxLive g a) s = .next (s.trap 0x03)) ∧
      (x.toNat < 2 ^ 32 → s.inHandler = true → exec (.ctxLive g a) s = .next (s.trap 0x01)) ∧
      (x.toNat < 2 ^ 32 → s.inHandler = false → s.me.regs.repActive = false →
        exec (.ctxLive g a) s = .next ((s.modRegs fun r => { r with live := BitVec.ofNat 32 x.toNat }).finish [a] 4)))) ∧
  (∀ (s : State) (g : BitVec 3) (b a : BitVec 5) (id y : Word) (x : Agent) (dst : Nat), s.readP g = true → s.cur.rep = false →
    s.meSupv = true → s.cur.ctx = 0 → s.me.regs.repActive = false → s.agentNamed id = some x → x.ctx = 0 → x.die = s.cur.die →
    s.cur.die < 4 → s.cur.core < 2048 → x.core < 2048 → x.core ≠ s.cur.core → Memory.wf s.mem = true →
    let d := s.cur.die
    let c := s.ctxOf (ctxKey d x.core 0)
    let k := ctxKey (slotDie d) x.core 0
    let v := s.ctxOf k
    let unit := s.coreOf (coreKey (slotDie d) x.core)
    (Operands s [a] none [id] → c.st = .parked → c.region = none → s.savedOn d x.core = false → s.quiet d x.core = true →
      (s.commitFor x).quiet d x.core = true → s.imageError d x.core = false →
      ∃ t, exec (.ctxSave g a) s = .next t ∧
        t.ctxOf k = { c with st := .saved, wait := .idle, waitRep := .idle, prog := none, progRep := none, saving := none
                             regs := c.regs.setCsr Csr.tstat (setBits (c.regs.getCsr Csr.tstat) 1 0 1) } ∧
        t.ctxOf (ctxKey d x.core 0) = {} ∧
        (∃ im : Image, t.images.find? (coreKey (slotDie d) x.core) = some im ∧ im.form = 2 ∧ im.wt = s.wt ∧ im.req = 0 ∧
          im.lost = false ∧ bit im.ctxp 0 = true ∧
          ∀ n < 32, bit im.tmask n = (bit c.regs.live n && (s.coreOf (coreKey d x.core)).tiles.getD n {} != {})) ∧
        (∀ n, bit c.regs.live n = true →
          (t.coreOf (coreKey (slotDie d) x.core)).tiles.find? n = (s.coreOf (coreKey d x.core)).tiles.find? n) ∧
        (∀ n < 2 ^ 17, t.byte (lsBase (slotDie d) x.core + n) = s.byte (lsBase d x.core + n)) ∧
        (∀ n, (n < lsBase (slotDie d) x.core ∨ lsBase (slotDie d) x.core + 2 ^ 17 ≤ n) → t.byte n = s.byte n) ∧
        t.me.regs.pc = s.me.regs.pc + 4) ∧
    (Operands s [a] none [id] → c.st = .parked → (s.savedOn d x.core = true ∨ s.quiet d x.core = false) →
      exec (.ctxSave g a) s = .next s) ∧
    (Operands s [a] none [id] → c.st ≠ .parked → exec (.ctxSave g a) s = .next (s.trap 0x03)) ∧
    (Operands s [b, a] none [y, id] → s.savedCtx x = false → exec (.ctxRst g b a) s = .next (s.trap 0x03)) ∧
    (∀ im, Operands s [b, a] none [y, id] → s.savedCtx x = true → s.images.find? (coreKey (slotDie d) x.core) = some im →
      s.imageLost (slotDie d) x.core = false → s.physOf d s.me.launch.pad.toNat y.toNat = some dst → dst < 2048 → dst ≠ s.cur.core →
      strOf dst = strOf x.core → bits (v.regs.getCsr Csr.tstat) 1 0 = 1 →
      (s.freeCore d dst = true → ∃ t, exec (.ctxRst g b a) s = .next t ∧
        t.ctxOf (ctxKey d dst 0) =
          { v with st := .parked, regs := v.regs.setCsr Csr.tstat (setBits (v.regs.getCsr Csr.tstat) 1 0 0) } ∧
        t.images.find? (coreKey (slotDie d) x.core) = none ∧
        (t.coreOf (coreKey d dst)).tiles = unit.tiles ∧
        (unit.lean = [] → ∀ n < 2 ^ 17, t.byte (lsBase d dst + n) = s.byte (lsBase (slotDie d) x.core + n)) ∧
        t.me.regs.pc = s.me.regs.pc + 4) ∧
      (s.freeCore d dst = false → exec (.ctxRst g b a) s = .next (s.trap 0x03))))

/-- R33, R36: TLBI.R. It waits for the issuer's own accesses, halts on a non-empty fault log, sends its request, and retires when the
yardmaster has answered; an empty range retires at once; a bad ASID or range traps.
The holders that are waited for are log 78. -/
def Obligations.Invalidation : Prop :=
  ∀ (s : State) (g : BitVec 3) (c b a : BitVec 5) (len asid start : Word), s.readP g = true → s.cur.rep = false → s.inHandler = false →
    s.meSupv = true → Operands s [b, c, a] none [len, asid, start] →
    let all : Prop := len = 0xFFFFFFFFFFFFFFFF
    let good : Prop := all ∨ start.toNat < 2 ^ 48 ∧ start.toNat + len.toNat ≤ 2 ^ 48
    (2047 < asid.toNat → exec (.tlbiR g c b a) s = .next (s.trap 0x03)) ∧
    (asid.toNat ≤ 2047 → s.tlbiAsidOk asid.toNat = false → exec (.tlbiR g c b a) s = .next (s.trap 0x02)) ∧
    (asid.toNat ≤ 2047 → s.tlbiAsidOk asid.toNat = true → ¬ good → exec (.tlbiR g c b a) s = .next (s.trap 0x03)) ∧
    (asid.toNat ≤ 2047 → s.tlbiAsidOk asid.toNat = true → good →
      (∀ w, s.waiting = .answered (.word w) → exec (.tlbiR g c b a) s = .next ((s.setWait .idle).finish [b, c, a] 4)) ∧
      (s.waiting = .sent → exec (.tlbiR g c b a) s = .next s) ∧
      (s.waiting = .idle → s.me.region = none →
        (s.fenceBusy s.cur [0, 4] 11 = true → exec (.tlbiR g c b a) s = .next s) ∧
        (s.fenceBusy s.cur [0, 4] 11 = false → s.me.flog ≠ [] → exec (.tlbiR g c b a) s = .next (s.trap 0x0F)) ∧
        (s.fenceBusy s.cur [0, 4] 11 = false → s.me.flog = [] → len = 0 →
          exec (.tlbiR g c b a) s = .next (s.finish [b, c, a] 4)) ∧
        (s.fenceBusy s.cur [0, 4] 11 = false → s.me.flog = [] → len ≠ 0 → ∃ q : Tlbi,
          q.agent = s.cur ∧ q.asid.toNat = asid.toNat ∧ q.hw = false ∧ q.active = false ∧ (q.all = true ↔ all) ∧
          q.start = start.toNat ∧ q.stop = start.toNat + len.toNat ∧
          exec (.tlbiR g c b a) s = .next ((s.modMyDie fun d => { d with tlbis := d.tlbis ++ [q] }).setWait .sent))))

/-- R231, R232 and the rules it names: a system register read. The present context's own registers, those of its core, and what the
hardware computes; HNDCMD shows BUSY while a revocation of the die is in progress or a revoked entry is not yet free (R29); TSCR reads with its command bits zero (R373); a fault-log entry that does not exist reads as zero (R103).
R79, R103, R189, R191, R231, R232, R373: a system register write. A register with a writable field takes the field and keeps its
other bits, and a reserved bit that is not zero traps OPERAND; a bank's format register takes FMT 0 to 8; FLOGCNT empties the fault
log with 0; a command for a table is given and waits for its answer, and a REVOKE or REMOVE retires at once with BUSY.
Registers of each context are log 22, and unlisted command values log 19. -/
def Obligations.SystemRegisters : Prop :=
  (∀ (s : State) (g : BitVec 3) (r : BitVec 12) (a : BitVec 5), s.readP g = true → s.cur.rep = false → Operands s [] (some a) [] →
    s.csrDenied r.toNat = false → (s.meSupv = false ∨ bit (s.coreCsr Csr.tscr) 60 = false) → r ≠ 0x071 →
    ∃ v, exec (.csrr g r a) s = .next (s.result [] a v 4) ∧
      (r = 0x000 → v = s.wt) ∧
      (r.toNat ∈ [0x010, 0x011, 0x012, 0x013, 0x014, 0x017, 0x018, 0x050, 0x051, 0x052, 0x053, 0x054, 0x060, 0x061, 0x062, 0x070] →
        v = s.csr r.toNat) ∧
      (r = 0x016 → bits v 61 0 = bits (s.csr 0x016) 61 0 ∧ bits v 63 62 = s.cur.ctx % 4) ∧
      (r = 0x019 → v = s.myCore.acc0.st) ∧ (r = 0x01A → v = s.myCore.acc1.st) ∧
      (0x020 ≤ r.toNat → r.toNat < 0x028 → v = s.coreCsr r.toNat) ∧ (0x030 ≤ r.toNat → r.toNat < 0x048 → v = s.coreCsr r.toNat) ∧
      (∀ j e, r.toNat = 0x055 + j → j < 4 → s.me.flog[(s.csr 0x054).toNat]? = some e → v = [e.va, e.opnd, e.wt, e.info].getD j 0) ∧
      (∀ j, r.toNat = 0x055 + j → j < 4 → s.me.flog[(s.csr 0x054).toNat]? = none → v = 0) ∧
      (r = 0x059 → s.me.flog.length < 2 ^ 16 → bits v 15 0 = s.me.flog.length ∧ bits v 31 16 = s.me.flogLost.toNat) ∧
      (r = 0x063 → bits v 61 0 = bits (s.coreCsr 0x063) 61 0 ∧ bits v 63 62 = 0) ∧
      (r = 0x115 → bit v 62 = (!s.myDie.revoking.isEmpty || (s.myDie.cmds.any fun c => c.table == 1 && c.cmd == 2) ||
        s.myDie.handles.values.any fun h => bit (h.getD 0 0) 62)) ∧
      (r = 0x003 → (s.csr 0x002).toNat < 256 → bits v 7 0 = (s.myDie.good (s.csr 0x002).toNat).toNat)) ∧
  (∀ (s : State) (g : BitVec 3) (r : BitVec 12) (a : BitVec 5) (v : Word), s.readP g = true → s.cur.rep = false →
    Operands s [a] none [v] → s.csrDenied r.toNat = false → (s.meSupv = false ∨ bit (s.coreCsr Csr.tscr) 60 = false) →
    (∀ m : Word, (r.toNat, m) ∈ [(0x002, 0xFF), (0x004, 0x7FF), (0x010, 0x1F), (0x011, 0x1F), (0x054, 0x3F), (0x070, 0x7FF01FF),
        (0x100, 0x7FF), (0x110, 0xFFF), (0x120, 0xFF), (0x130, 0xFFFFFF)] →
      (v &&& ~~~m = 0 → exec (.csrw g r a) s = .next ((s.finish [a] 4).setCsr r.toNat ((s.csr r.toNat &&& ~~~m) ||| v))) ∧
      (v &&& ~~~m ≠ 0 → exec (.csrw g r a) s = .next (s.trap 0x03))) ∧
    (0x020 ≤ r.toNat → r.toNat < 0x028 →
      (bits v 3 0 ≤ 8 → bits v 15 4 = 0 → bits v 63 28 = 0 →
        exec (.csrw g r a) s = .next ((s.setCoreCsr r.toNat v).finish [a] 4)) ∧
      (8 < bits v 3 0 ∨ bits v 15 4 ≠ 0 ∨ bits v 63 28 ≠ 0 → exec (.csrw g r a) s = .next (s.trap 0x03))) ∧
    (r = 0x015 → bits v 63 5 = 0 →
      (bits v 3 0 = 2 ∨ bits v 3 0 = 3 ∨ bits v 3 0 = 6 → ∃ t, exec (.csrw g r a) s = .next t ∧
        bits (t.coreCsr 0x015) 4 0 = bits v 4 0 ∧ t.me.regs.pc = s.me.regs.pc + 4) ∧
      (bits v 3 0 ≠ 2 → bits v 3 0 ≠ 3 → bits v 3 0 ≠ 6 → exec (.csrw g r a) s = .next (s.trap 0x03))) ∧
    (r = 0x059 →
      (v = 0 → ∃ t, exec (.csrw g r a) s = .next t ∧ t.me.flog = [] ∧ t.me.flogLost = 0 ∧ t.me.regs.pc = s.me.regs.pc + 4) ∧
      (v ≠ 0 → exec (.csrw g r a) s = .next (s.trap 0x03))) ∧
    (r = 0x019 ∨ r = 0x01A → exec (.csrw g r a) s = .next (s.trap 0x03)) ∧
    (∀ (table : BitVec 2) (sel dat count : Nat), (r, table, sel, dat, count) ∈
        [((0x103 : BitVec 12), (0 : BitVec 2), 0x100, 0x101, 2), (0x115, 1, 0x110, 0x111, 4), (0x125, 2, 0x120, 0x121, 4)] →
      let c : TableCmd := { table := table, cmd := v.toNat, sel := (s.csr sel).toNat
                            words := (List.range count).map fun j => s.csr (dat + j)
                            agent := some s.cur, pf := s.mePf, pad := s.me.launch.pad }
      let t := s.modMyDie fun d => { d with cmds := d.cmds ++ [c] }
      (v = 1 ∨ v = 3 ∧ table ≠ 0 ∨ v = 2 ∧ table = 0 →
        (s.waiting = .idle → exec (.csrw g r a) s = .next (t.setWait .sent)) ∧
        (s.waiting = .sent → exec (.csrw g r a) s = .next s) ∧
        (∀ x, s.waiting = .answered x → exec (.csrw g r a) s = .next ((s.setWait .idle).finish [a] 4))) ∧
      (v = 2 → table = 1 → exec (.csrw g r a) s = .next ((t.setCsr r.toNat 0).finish [a] 4)) ∧
      (v = 2 → table = 2 → exec (.csrw g r a) s = .next ((t.setCsr r.toNat 0x4000000000000000).finish [a] 4)) ∧
      (v = 0 ∨ 3 < v.toNat ∨ v = 3 ∧ table = 0 → exec (.csrw g r a) s = .next (s.trap 0x03))))

/-! ## Messages, tasks, launches, barriers -/

/-- R197 to R199, R202, R204, R353: SEND and SENDN send the payload's bytes to their core's channel with the sender's identity, the
next sequence number and the delivery window, and retire; with eight messages not yet accepted SEND waits and SENDN says so in its
predicate; what fails a check traps.
R198, R201, R354, R355: HRET makes its context dormant and sets HD in its record, and no other byte of memory changes; in a task it
traps. CHAN.CFG installs both registers of a channel with an empty queue, and traps where a check fails.
That a failing SENDN commits nothing is log 58. -/
def Obligations.MessagesAndChannels : Prop :=
  (∀ (s : State) (g p : BitVec 3) (b a : BitVec 5) (off w : Word) (core : Nat), s.readP g = true → s.cur.rep = false →
    s.me.region = none → s.me.st = .running → Operands s [b, a] none [off, w] →
    (∀ q, s.eccHit (lsBase s.cur.die s.cur.core + off.toNat) q = false) → s.soft = [] → s.Settled 0 →
    let n := bits w 40 32
    let both (o : Host.Outcome State Fault Refusal) : Prop :=
      (s.inHandler = false → exec (.send g b a) s = o) ∧ exec (.sendn g p b a) s = o
    let good : Prop := bits w 63 41 = 0 ∧ bits w 31 15 = 0 ∧ bit w 11 = false ∧ n ≤ 496 ∧
      s.physOf s.cur.die s.me.launch.pad.toNat (bits w 10 0) = some core
    (s.inHandler = true → exec (.send g b a) s = .next (s.trap 0x06)) ∧
    (bits w 63 41 ≠ 0 ∨ bits w 31 15 ≠ 0 ∨ bit w 11 = true ∨ 496 < n ∨
      s.physOf s.cur.die s.me.launch.pad.toNat (bits w 10 0) = none → both (.next (s.trap 0x03))) ∧
    (good → off.toNat % 8 ≠ 0 → both (.next ((s.setCsr Csr.fltva off).trap 0x04))) ∧
    (good → off.toNat % 8 = 0 → 2 ^ 17 < off.toNat + n → both (.next ((s.setCsr Csr.fltva off).trap 0x05))) ∧
    (good → off.toNat % 8 = 0 → off.toNat + n ≤ 2 ^ 17 →
      (8 ≤ s.me.unacked → (s.inHandler = false → exec (.send g b a) s = .next s) ∧
        exec (.sendn g p b a) s = .next ((s.writeP p false).finish [b, a] 4)) ∧
      (s.me.unacked < 8 →
        ∃ (m : Msg) (t : State), m.kind = 0 ∧ m.src = s.cur ∧ m.sender = s.agentId s.cur ∧ m.core = core ∧
          m.chan.toNat = bits w 14 12 ∧ m.payload = s.lsRead off.toNat n ∧ m.win = s.window s.cur.die s.me.launch.pad.toNat ∧
          bits m.seq 61 0 = bits (s.csr Csr.msgseq) 61 0 ∧ bits m.seq 63 62 = s.cur.ctx % 4 ∧
          t.myDie.msgs = s.myDie.msgs ++ [m] ∧ t.me.unacked = s.me.unacked + 1 ∧
          bits (t.csr Csr.msgseq) 61 0 = (bits (s.csr Csr.msgseq) 61 0 + 1) % 2 ^ 62 ∧
          t.me.regs.pc = s.me.regs.pc + 4 ∧ t.me.regs.s = s.me.regs.s ∧ t.mem = s.mem ∧
          (s.inHandler = false → exec (.send g b a) s = .next t) ∧ exec (.sendn g p b a) s = .next (t.writeP p true)))) ∧
  (∀ (s : State) (g : BitVec 3) (c b a : BitVec 5) (hnd n cfg : Word), s.readP g = true → s.cur.rep = false →
    let core := s.myCore
    (s.inHandler = false → exec (.hret g) s = .next (s.trap 0x01)) ∧
    (∀ r, s.inHandler = true → s.me.run = some r → r.lean = false → core.lean = [] → Memory.wf s.mem = true →
      let at_ := lsBase s.cur.die s.cur.core + chBase (core.chCfg r.chan.toNat) + r.off
      ∃ t, exec (.hret g) s = .next t ∧ t.me.st = .dormant ∧ t.me.run = none ∧
        t.bytesAt at_ 8 = natBytes 8 (setBits (word (bytesNat (s.bytesAt at_ 8))) 35 35 1).toNat ∧
        (∀ k, k < at_ ∨ at_ + 8 ≤ k → t.byte k = s.byte k)) ∧
    (s.inHandler = true → wrongWay false [b, c, a] none = false → exec (.chanCfg g c b a) s = .next (s.trap 0x01)) ∧
    (s.inHandler = false → Operands s [b, c, a] none [hnd, n, cfg] →
      let ok1 : Prop := n.toNat < 8 ∧ bits cfg 62 60 = 0 ∧ bits cfg 30 0 = 0 ∧ hnd.toNat < 2 ^ 48 ∧ hnd.toNat % 2 = 0
      let on : Prop := bit cfg 63 = true
      let size := bits cfg 42 31
      let base := bits cfg 59 43
      let empty : Prop := bit (core.chCfg n.toNat) 63 = true →
        bits (core.chPtr n.toNat) 50 34 = bits (core.chPtr n.toNat) 33 17 ∧ bits (core.chPtr n.toNat) 16 0 = 0
      (¬ ok1 → exec (.chanCfg g c b a) s = .next (s.trap 0x03)) ∧
      (ok1 → on → (size < 2 ∨ 2048 < size ∨ base % 64 ≠ 0) → exec (.chanCfg g c b a) s = .next (s.trap 0x03)) ∧
      (ok1 → on → 2 ≤ size → size ≤ 2048 → base % 64 = 0 → 2 ^ 17 < base + 64 * size →
        exec (.chanCfg g c b a) s = .next ((s.setCsr Csr.fltva (word base)).trap 0x05)) ∧
      (ok1 → (on → 2 ≤ size ∧ size ≤ 2048 ∧ base % 64 = 0 ∧ base + 64 * size ≤ 2 ^ 17) →
        (¬ empty → exec (.chanCfg g c b a) s = .next (s.trap 0x03)) ∧
        (empty → ∃ t, exec (.chanCfg g c b a) s = .next t ∧ t.myCore.chCfg n.toNat = cfg ∧ t.myCore.chHnd n.toNat = hnd ∧
          t.me.regs.pc = s.me.regs.pc + 4 ∧
          (¬ on ∨ core.lean = [] → bits (t.myCore.chPtr n.toNat) 50 17 = 0 ∧
            bits (t.myCore.chPtr n.toNat) 16 0 = bits (core.chPtr n.toNat) 16 0)))))

/-- R63, R198 to R201, R205: messages under way. A relay passes a message along its row and then its column; a message that fits stands
in its queue and TAIL moves past it, one that finds messages waiting goes to the lean-to, one that finds it full is refused; an
acceptance frees a place of its sender; a handler run starts with the registers of R201; a batch is in the order of R205.
What a handler run keeps, and the free place at which a record of the lean-to shows, are log 59; the records that park are log
60. -/
def Obligations.MessageEvents : Prop :=
  ∀ (s : State) (die : BitVec 2) (core : BitVec 11) (i : Nat) (hc : Bool) (m : Msg),
    let d := die.toNat
    let c := s.coreOf (coreKey d m.core)
    let n := m.chan.toNat
    let cap := 64 * bits (c.chCfg n) 42 31
    let tail := bits (c.chPtr n) 33 17
    ((s.dieAt d).msgs[i]? = some m → m.refused = none →
      ∃ t, exec (.relayForward die i) s = .next t ∧
        let r := m.relay
        let z := strOf m.core
        let go := if r % 8 < z % 8 then r + 1 else if z % 8 < r % 8 then r - 1 else if r / 8 < z / 8 then r + 8
          else if z / 8 < r / 8 then r - 8 else r
        (t.dieAt d).msgs[i]? = some { m with relay := go }) ∧
    ((s.dieAt d).msgs[i]? = some m → m.refused = none → m.relay = strOf m.core → m.kind ≠ 3 →
      (bit (c.chCfg n) 63 = true → bits (c.chPtr n) 16 0 = 0 → s.coreHeld d m.core = false → bits (c.chPtr n) 50 34 ≤ tail →
        tail + m.need ≤ cap → tail < 2 ^ 17 → cap ≤ 2 ^ 17 → tail - bits (c.chPtr n) 50 34 + m.need + 16 ≤ cap → Memory.wf s.mem = true →
        let at_ := lsBase d m.core + bits (c.chCfg n) 59 43 + tail
        ∃ t, exec (.messageArrival die i) s = .next t ∧ t.bytesAt at_ m.record.length = m.record ∧
          (∀ k, k < at_ ∨ at_ + m.record.length ≤ k → t.byte k = s.byte k) ∧
          bits ((t.coreOf (coreKey d m.core)).chPtr n) 33 17 = (tail + m.need) % cap ∧
          (t.dieAt d).acks = (s.dieAt d).acks ++ [m.src] ∧ (t.dieAt d).msgs = (s.dieAt d).msgs.eraseIdx i) ∧
      (bits (c.chPtr n) 16 0 ≠ 0 → s.savedOn d m.core = false → c.leanBytes + m.need ≤ 180224 → ∃ t, exec (.messageArrival die i) s = .next t ∧
        (t.coreOf (coreKey d m.core)).lean = c.lean ++ [m] ∧ (t.dieAt d).acks = (s.dieAt d).acks ++ [m.src] ∧ t.mem = s.mem) ∧
      (bits (c.chPtr n) 16 0 ≠ 0 → s.savedOn d m.core = false → 180224 < c.leanBytes + m.need → ∃ t, exec (.messageArrival die i) s = .next t ∧
        (t.dieAt d).msgs[i]? = some { m with refused := some s.wt } ∧ (t.dieAt d).acks = (s.dieAt d).acks ∧ t.mem = s.mem)) ∧
    (∀ t0, (s.dieAt d).msgs[i]? = some m → m.refused = some t0 → t0.toNat + 256 ≤ s.wt.toNat → ∃ t,
      exec (.messageResend die i) s = .next t ∧
        (t.dieAt d).msgs[i]? = some { m with refused := none, relay := strOf m.src.core }) ∧
    (∀ a, (s.dieAt d).acks[i]? = some a → ∃ t, exec (.messageAck die i) s = .next t ∧
      (t.dieAt d).acks = (s.dieAt d).acks.eraseIdx i ∧
      (t.ctxOf (ctxKey a.die a.core a.ctx)).unacked = (s.ctxOf (ctxKey a.die a.core a.ctx)).unacked - 1) ∧
    (let k := core.toNat
     let key := ctxKey d k (if hc then 2 else 1)
     let z := s.coreOf (coreKey d k)
     ∀ r, s.waitingRec d k = some r → z.batch = [] → (s.ctxOf key).st = .dormant → s.coreHeld d k = false → s.pkg.tripped = false →
      ∃ t, exec (.handlerStart die core hc) s = .next t ∧
        let x := t.ctxOf key
        x.st = .running ∧ x.launch = r.msg.launch ∧ x.run.map (·.off) = some r.off ∧ x.regs.p = 0 ∧
        x.regs.getCsr Csr.fflags = 0 ∧ x.regs.getCsr Csr.fenab = 0 ∧ x.regs.getCsr Csr.rngctr = 0 ∧
        x.regs.getS 5 = r.msg.sender.setWidth 64 ∧ x.regs.getS 6 = r.msg.seq ∧
        x.regs.getS 7 = BitVec.ofNat 64 (r.msg.win % 2 ^ 32 * 2 ^ 32 + r.msg.chan.toNat) ∧
        (∀ q, q < 3 ∨ 7 < q → x.regs.getS q = 0) ∧
        (r.msg.kind = 0 → x.regs.pc = z.chHnd r.msg.chan.toNat ∧ x.regs.getS 4 = word r.msg.payload.length ∧
          x.regs.getS 3 = word (bits (z.chCfg r.msg.chan.toNat) 59 43 + r.off + 16)) ∧
        (r.msg.kind ≠ 0 → x.regs.pc = r.msg.haddr)) ∧
    (let k := core.toNat
     let z := s.coreOf (coreKey d k)
     ∀ l, z.last = some l → z.batch = [] → z.batchWin < s.window d l.pad.toNat → s.coreHeld d k = false →
      ∃ t, exec (.batch die core) s = .next t ∧ (t.coreOf (coreKey d k)).batchWin = s.window d l.pad.toNat ∧
        (t.coreOf (coreKey d k)).batch.Perm (z.parked (s.window d l.pad.toNat)) ∧
        (t.coreOf (coreKey d k)).batch.Pairwise fun x y =>
          x.win < y.win ∨ x.win = y.win ∧ (x.sender.toNat < y.sender.toNat ∨ x.sender = y.sender ∧ x.seq.toNat ≤ y.seq.toNat))

/-- R187 to R190, R192, R356: SPAWN and SPAWNN. The record carries the entry, E0 to E3, the spawner's identity and the child's path; in
a launch that is not ordered it goes on top of the deque, in an ordered one to the core that R192 names; the join word is emptied, the
child's index goes to the destination and SPCNT counts on. Without room SPAWN waits and SPAWNN says so.
R188, R203, R356: SPAWN traps in a handler run, and SPAWNN there forms a record without a join word: it goes where a task's record
goes, no tag changes, and no word is asked of the local store.
R193, R194, R266, R357: JOIN waits until every unmerged join word is full, then merges them in order of their index, empties them
and sets JFIRST to SPCNT; JOINN says instead that one is empty. DONE, with no region and no child unjoined, ends the task and sends S3
to its join word.
The instant at which the spill area is full is log 38, and what C6 counts log 63; DONE in a region is log 66. -/
def Obligations.SpawnJoinDone : Prop :=
  (∀ (s : State) (g p : BitVec 3) (b a : BitVec 5) (e : Word), s.readP g = true → s.cur.rep = false → s.inHandler = false →
    s.me.region = none → Operands s [b] (some a) [e] →
    let n := bits (s.csr Csr.taskj) 8 0
    let joff := bits (s.csr Csr.taskj) 63 47 + 8 * n
    let dep := bits s.me.id.path 7 0
    let both (o : Host.Outcome State Fault Refusal) : Prop := exec (.spawn g b a) s = o ∧ exec (.spawnn g p b a) s = o
    (bit e 0 = true ∨ 2 ^ 47 ≤ e.toNat → both (.next (s.trap 0x03))) ∧
    (bit e 0 = false → e.toNat < 2 ^ 47 → dep = 15 ∨ n = 256 → both (.next (s.trap 0x0C))) ∧
    (bit e 0 = false → e.toNat < 2 ^ 47 → dep < 15 → n < 256 → 2 ^ 17 < joff + 8 →
      both (.next ((s.setCsr Csr.fltva (word joff)).trap 0x05))) ∧
    (bit e 0 = false → e.toNat < 2 ^ 47 → dep < 15 → n < 256 → joff + 8 ≤ 2 ^ 17 →
      (s.spawnRoom = false → exec (.spawn g b a) s = .next s ∧ exec (.spawnn g p b a) s = .next ((s.writeP p false).finish [b] 4)) ∧
      (s.spawnRoom = true → ∃ (x : TaskRec) (t : State), exec (.spawn g b a) s = .next t ∧
        exec (.spawnn g p b a) s = .next (t.writeP p true) ∧
        x.entry = e ∧ x.args = [s.readE 0, s.readE 1, s.readE 2, s.readE 3] ∧ x.launch = s.me.launch ∧ x.id.wid = s.me.id.wid ∧
        x.id.pagent = s.agentId s.cur ∧ x.id.joff.toNat = joff % 2 ^ 17 ∧ x.id.jv = true ∧ x.stamp = (s.csr Csr.rphase).setWidth 16 ∧
        bits x.id.path 7 0 = dep + 1 ∧
        t.tag (lsWord s.cur.die s.cur.core joff) = false ∧ bits (t.csr Csr.taskj) 8 0 = n + 1 ∧
        t.me.regs.pc = s.me.regs.pc + 4 ∧ (a ≠ 0 → isQueue a = false → t.readS a = word n) ∧ t.mem = s.mem ∧
        (s.me.launch.ordered = false → s.myCore.deque.length < 64 → t.myCore.deque = x :: s.myCore.deque) ∧
        (s.me.launch.ordered = true → ∃ m : Msg, t.myDie.msgs = s.myDie.msgs ++ [m] ∧ m.kind = 3 ∧ m.task = x ∧
          t.myCore.deque = s.myCore.deque ∧
          let cores := s.lcores s.cur.die s.me.launch.pad.toNat
          let y := x.id.wid ^^^ x.id.path.setWidth 64 ^^^ ((x.id.path >>> 64).setWidth 64).rotateLeft 29
          let y := (y ^^^ (y >>> 31)) * 0x9E3779B97F4A7C15
          cores ≠ [] → cores[((y ^^^ (y >>> 29)).toNat) % cores.length]? = some m.core)))) ∧
  (∀ (s : State) (g p : BitVec 3) (b a : BitVec 5) (e : Word), s.readP g = true → s.cur.rep = false → s.inHandler = true →
    s.me.region = none → Operands s [b] (some a) [e] →
    let n := bits (s.csr Csr.taskj) 8 0
    let dep := bits s.me.id.path 7 0
    exec (.spawn g b a) s = .next (s.trap 0x06) ∧
    (bit e 0 = true ∨ 2 ^ 47 ≤ e.toNat → exec (.spawnn g p b a) s = .next (s.trap 0x03)) ∧
    (bit e 0 = false → e.toNat < 2 ^ 47 → dep = 15 ∨ n = 256 → exec (.spawnn g p b a) s = .next (s.trap 0x0C)) ∧
    (bit e 0 = false → e.toNat < 2 ^ 47 → dep < 15 → n < 256 →
      (s.spawnRoom = false → exec (.spawnn g p b a) s = .next ((s.writeP p false).finish [b] 4)) ∧
      (s.spawnRoom = true → ∃ (x : TaskRec) (t : State), exec (.spawnn g p b a) s = .next (t.writeP p true) ∧
        x.entry = e ∧ x.args = [s.readE 0, s.readE 1, s.readE 2, s.readE 3] ∧ x.launch = s.me.launch ∧ x.id.wid = s.me.id.wid ∧
        x.id.pagent = s.agentId s.cur ∧ x.id.jv = false ∧ x.stamp = (s.csr Csr.rphase).setWidth 16 ∧ bits x.id.path 7 0 = dep + 1 ∧
        t.full = s.full ∧ bits (t.csr Csr.taskj) 8 0 = n + 1 ∧ t.me.regs.pc = s.me.regs.pc + 4 ∧
        (a ≠ 0 → isQueue a = false → t.readS a = word n) ∧ t.mem = s.mem ∧
        (s.me.launch.ordered = false → s.myCore.deque.length < 64 → t.myCore.deque = x :: s.myCore.deque) ∧
        (s.me.launch.ordered = true → t.myCore.deque = s.myCore.deque ∧
          ∃ m : Msg, t.myDie.msgs = s.myDie.msgs ++ [m] ∧ m.kind = 3 ∧ m.task = x)))) ∧
  (∀ (s : State) (g p : BitVec 3) (o : BitVec 3) (a : BitVec 5), s.readP g = true → s.cur.rep = false → Operands s [] (some a) [] →
    s.cur.die < 4 → s.Settled 0 →
    let j := s.csr Csr.taskj
    let w (i : Nat) : Nat := lsWord s.cur.die s.cur.core (bits j 63 47 + 8 * i)
    let open_ (i : Nat) : Prop := bits j 25 17 ≤ i ∧ i < bits j 8 0
    let v (i : Nat) : Word := word (bytesNat (s.lsRead (bits j 63 47 + 8 * i) 8))
    let vs := (List.range (bits j 8 0 - bits j 25 17)).map fun i => v (bits j 25 17 + i)
    let f (x y : Word) : Word :=
      if o = 0 then x + y else if o = 1 then BitVec.ofInt 64 (min x.toInt y.toInt) else if o = 2 then BitVec.ofInt 64 (max x.toInt y.toInt)
      else if o = 3 then x &&& y else if o = 4 then x ||| y else if o = 5 then x ^^^ y
      else if o = 6 then word (Fmt.f32.add .rne 0 (x.toNat % 2 ^ 32) (y.toNat % 2 ^ 32)).1 else y
    let z : Word := if o = 1 then 0x7FFFFFFFFFFFFFFF else if o = 2 then 0x8000000000000000 else if o = 3 then 0xFFFFFFFFFFFFFFFF else 0
    (s.inHandler = true → exec (.join g o a) s = .next (s.trap 0x06) ∧ ∃ t, exec (.joinn g p o a) s = .next t ∧
      (a ≠ 0 → t.readS a = z) ∧ (p ≠ 0 → t.readP p = true) ∧ t.mem = s.mem) ∧
    (s.inHandler = false → (∃ i, open_ i ∧ s.tag (w i) = false) →
      exec (.join g o a) s = .next s ∧ exec (.joinn g p o a) s = .next ((s.writeP p false).finish [] 4)) ∧
    (s.inHandler = false → (∀ i, open_ i → s.tag (w i) = true) → s.bad = [] → s.soft = [] →
      ∃ t, exec (.join g o a) s = .next t ∧ exec (.joinn g p o a) s = .next (t.writeP p true) ∧
        (a ≠ 0 → isQueue a = false → t.readS a = vs.foldl f z) ∧ (∀ i, open_ i → t.tag (w i) = false) ∧
        bits (t.csr Csr.taskj) 25 17 = bits j 8 0 ∧ bits (t.csr Csr.taskj) 8 0 = bits j 8 0 ∧
        t.me.regs.pc = s.me.regs.pc + 4 ∧ t.mem = s.mem) ∧
    (∀ i : Instr, i = .done ∨ i = .cDone → s.me.regs.repActive = false →
      (s.inHandler = true → exec i s = .next (s.trap 0x01)) ∧
      (s.inHandler = false → s.me.region = none →
        ((∃ i, open_ i ∧ s.tag (w i) = false) → exec i s = .next s) ∧
        ((∀ i, open_ i → s.tag (w i) = true) → ∃ t, exec i s = .next t ∧ t.me.st = .ended ∧ t.me.att = false ∧ t.mem = s.mem ∧
          (s.me.id.jv = false → t.myDie.joins = s.myDie.joins) ∧
          (∀ x, s.me.id.jv = true → s.agentOf s.cur.die s.me.launch.pad.toNat s.me.id.pagent = some x →
            ∃ q : Payload, t.myDie.joins = s.myDie.joins ++ [q] ∧ q.core = x.core ∧ q.off = s.me.id.joff.toNat ∧
              q.bytes = natBytes 8 (s.readS 3).toNat ∧ q.full = true)))))

/-- R144, R206, R207, R361, R362: barriers. BAR.INIT gives a barrier of its own core its count; BAR.ARR, BAR.WAIT and BAR.TEST send a
message to the host and wait; the host counts an arrival, and the last one of a phase advances it; an arrival whose host is being
saved waits in its lean-to (R215); a wait's reply comes once its phase
has passed; a reply completes its instruction, and a BAR.WAIT, or a BAR.TEST that answers true, on the launch's race barrier advances
the stamp.
The waits' form is log 2, the points that the rules leave unsaid are log 67, and arrivals for a saved task log 85. -/
def Obligations.Barriers : Prop :=
  ∀ (s : State) (g : BitVec 3) (c b a : BitVec 5) (d : BitVec 3) (x y w : Word) (die : BitVec 2) (i : Nat) (m : BMsg),
    s.readP g = true → s.cur.rep = false →
    (Operands s [b, a] none [y, x] →
      (x.toNat < 512 → 1 ≤ y.toNat → y.toNat < 4096 → exec (.barInit g b a) s = .next ((s.modMyCore fun k =>
        { k with bars := k.bars.set x.toNat { count := BitVec.ofNat 12 y.toNat } }).finish [b, a] 4)) ∧
      (512 ≤ x.toNat ∨ y = 0 ∨ 4096 ≤ y.toNat → exec (.barInit g b a) s = .next (s.trap 0x03))) ∧
    (let query (ref : Word) (host : Nat) (kind : BitVec 2) (ph : BitVec 16) : Host.Outcome State Fault Refusal :=
      .next ((s.modMyDie fun z => { z with bmsgs := z.bmsgs ++
        [{ agent := s.cur, core := host, num := BitVec.ofNat 9 (bits ref 8 0), kind := kind, phase := ph }] }).setWait .sent)
     (Operands s [b] (some a) [x] → s.me.region = none →
      (s.barHost x = none → exec (.barArr g b a) s = .next (s.trap 0x03)) ∧
      (∀ host, s.barHost x = some host →
        (s.waiting = .idle → exec (.barArr g b a) s = query x host 0 0) ∧ (s.waiting = .sent → exec (.barArr g b a) s = .next s) ∧
        (s.waiting = .answered (.word w) → w.toNat < 2 ^ 63 →
          exec (.barArr g b a) s = .next (((s.setWait .idle).put a w).finish [b] 4)) ∧
        (s.waiting = .answered (.word 0x8000000000000000) → exec (.barArr g b a) s = .next (s.trap 0x03)))) ∧
     (Operands s [b, a] none [y, x] → s.inHandler = false → s.me.region = none →
      (s.barHost x = none → exec (.barWait g b a) s = .next (s.trap 0x03)) ∧
      (∀ host, s.barHost x = some host →
        (s.waiting = .idle → exec (.barWait g b a) s = query x host 1 (y.setWidth 16)) ∧
        (s.waiting = .sent → exec (.barWait g b a) s = .next s) ∧
        (s.waiting = .answered (.word w) → ∃ t, exec (.barWait g b a) s = .next t ∧ t.me.regs.pc = s.me.regs.pc + 4 ∧
          t.mem = s.mem ∧ t.csr Csr.rphase =
            if s.me.launch.rbv = true ∧ s.me.launch.rbcore.toNat = bits x 26 16 ∧ s.me.launch.rbnum.toNat = bits x 8 0 then
              ((s.csr Csr.rphase).setWidth 16 + 1 : BitVec 16).setWidth 64 else s.csr Csr.rphase))) ∧
     (s.inHandler = true → wrongWay false [b, a] none = false → Operands s [b, a] none [y, x] →
      exec (.barWait g b a) s = .next (s.trap 0x06)) ∧
     (Operands s [b, c] none [x, y] → s.me.region = none →
      (s.barHost x = none → exec (.barTest g c b d) s = .next (s.trap 0x03)) ∧
      (∀ host, s.barHost x = some host →
        (s.waiting = .idle → exec (.barTest g c b d) s = query x host 2 0) ∧
        (s.waiting = .sent → exec (.barTest g c b d) s = .next s) ∧
        (s.waiting = .answered (.word w) →
          let k := (w.setWidth 16 - y.setWidth 16 : BitVec 16).toNat
          let passed : Prop := 1 ≤ k ∧ k ≤ 32767
          ∃ t, exec (.barTest g c b d) s = .next t ∧ t.me.regs.pc = s.me.regs.pc + 4 ∧ t.mem = s.mem ∧
            (d ≠ 0 → (t.readP d = true ↔ passed)) ∧
            (passed → s.me.launch.rbv = true → s.me.launch.rbcore.toNat = bits x 26 16 → s.me.launch.rbnum.toNat = bits x 8 0 →
              t.csr Csr.rphase = ((s.csr Csr.rphase).setWidth 16 + 1 : BitVec 16).setWidth 64) ∧
            (¬ passed ∨ s.me.launch.rbv = false ∨ s.me.launch.rbcore.toNat ≠ bits x 26 16 ∨ s.me.launch.rbnum.toNat ≠ bits x 8 0 →
              t.csr Csr.rphase = s.csr Csr.rphase))))) ∧
    ((s.dieAt die.toNat).bmsgs[i]? = some m →
      let h := s.bar die.toNat m.core m.num.toNat
      let reply (v : Word) (t : State) : Prop := (t.dieAt die.toNat).bmsgs[i]? = some { m with reply := some v }
      (∀ at_, m.kind = 0 → m.reply = none → m.refused = none → s.barWaits die.toNat m = some at_ →
        (s.coreOf (coreKey at_ m.core)).leanBytes + 16 ≤ 180224 → ∃ t, exec (.barrierArrival die i) s = .next t ∧
          (t.coreOf (coreKey at_ m.core)).leanBars = (s.coreOf (coreKey at_ m.core)).leanBars ++ [m] ∧
          (t.dieAt die.toNat).bmsgs = (s.dieAt die.toNat).bmsgs.eraseIdx i) ∧
      (m.reply = none → m.refused = none → s.barWaits die.toNat m = none →
        (m.kind = 0 → h.count ≠ 0 → ∃ t, exec (.barrierArrival die i) s = .next t ∧ reply (h.phase.setWidth 64) t ∧
          (h.arrived + 1 = h.count → t.bar die.toNat m.core m.num.toNat = { h with arrived := 0, phase := h.phase + 1 }) ∧
          (h.arrived + 1 ≠ h.count → t.bar die.toNat m.core m.num.toNat = { h with arrived := h.arrived + 1 })) ∧
        (m.kind = 0 → h.count = 0 → ∃ t, exec (.barrierArrival die i) s = .next t ∧ reply 0x8000000000000000 t ∧
          t.bar die.toNat m.core m.num.toNat = h) ∧
        (let k := (h.phase - m.phase).toNat
         (m.kind = 1 → 1 ≤ k → k ≤ 32767 → ∃ t, exec (.barrierQuery die i) s = .next t ∧ reply (h.phase.setWidth 64) t) ∧
         (m.kind = 1 → k = 0 ∨ 32767 < k → exec (.barrierQuery die i) s = .next s)) ∧
        (m.kind = 2 → ∃ t, exec (.barrierQuery die i) s = .next t ∧ reply (h.phase.setWidth 64) t) ∧
        (m.kind = 3 → ∃ t, exec (.barrierQuery die i) s = .next t ∧ reply h.word t)) ∧
      (∀ v, m.reply = some v → m.agent.ctx ≠ 3 → (s.ctxOf (ctxKey m.agent.die m.agent.core m.agent.ctx)).wait = .sent → ∃ t,
        exec (.barrierReply die i) s = .next t ∧ (t.dieAt die.toNat).bmsgs = (s.dieAt die.toNat).bmsgs.eraseIdx i ∧
        (t.ctxOf (ctxKey m.agent.die m.agent.core m.agent.ctx)).wait = .answered (.word v)))

/-- R105, R145, R147, R190 to R193: what the hardware does about tasks between their instructions. A granted idle core starts the newest
record of its deque, with the registers of R161; an idle core asks its next victim, whose oldest record goes to the thief; a record
sent by an ordered spawn stands in its core's deque; a join word's value arrives with its tag full; a sweep keeps the records of the
current phases; a write of 0 empties a fault log.
What a task start keeps is log 62, which task counts as a launch's first is log 142, the steal search log 39, and the record
that an idle core takes log 65. -/
def Obligations.TaskEvents : Prop :=
  ∀ (s : State) (die : BitVec 2) (core : BitVec 11) (ctx : BitVec 2) (vault : Bool) (unit : BitVec 6) (i : Nat) (r : TaskRec)
    (l : List TaskRec),
    let d := die.toNat
    let k := core.toNat
    let c := s.coreOf (coreKey d k)
    let free : Prop := (s.task d k).st = .dormant ∨ (s.task d k).st = .ended
    (c.granted = true → free → s.coreHeld d k = false → s.pkg.tripped = false → c.deque = r :: l → r.launch.ordered = false →
      ∃ t, exec (.taskStart die core) s = .next t ∧ (t.coreOf (coreKey d k)).deque = l ∧ (t.coreOf (coreKey d k)).granted = false ∧
        let x := t.task d k
        x.st = .running ∧ x.id = r.id ∧ x.launch = r.launch ∧ x.att = false ∧ x.regs.pc = r.entry ∧ x.regs.live = 0xFFFFFFFF ∧
        x.regs.p = 0 ∧ x.regs.getS 2 = 0x20000 ∧ (∀ j < 4, x.regs.getS (3 + j) = r.args.getD j 0) ∧
        (∀ n, n = 0 ∨ n = 1 ∨ 6 < n → x.regs.getS n = 0) ∧ x.regs.getCsr Csr.rphase = r.stamp.setWidth 64 ∧
        x.regs.getCsr Csr.taskj = 0 ∧ x.regs.getCsr Csr.rngctr = 0 ∧ x.regs.getCsr Csr.fflags = 0 ∧ x.regs.getCsr Csr.fenab = 0 ∧
        (c.last.map (·.uid) ≠ some r.launch.uid → (t.coreOf (coreKey d k)).tiles = [] ∧ (t.coreOf (coreKey d k)).acc0 = {} ∧
          (∀ n < 2 ^ 17, t.byte (lsBase d k + n) = 0) ∧ ∀ w, lsBase d k / 8 ≤ w → w < lsBase d k / 8 + 2 ^ 14 → t.tag w = false)) ∧
    (c.hasRecord = false → c.granted = false → bit c.stealctl 4 = false → free → s.coreHeld d k = false → c.stealRev < s.rev →
      c.on = true → (∀ x ∈ (s.dieAt d).steals, x.1 ≠ k) →
      (s.victims d k = [] → exec (.stealRequest die core) s = .next s) ∧
      (∀ v, (s.victims d k)[c.stealPos % (s.victims d k).length]? = some v → ∃ t, exec (.stealRequest die core) s = .next t ∧
        (t.dieAt d).steals = (s.dieAt d).steals ++ [(k, v)] ∧ (t.coreOf (coreKey d k)).stealRev = s.rev)) ∧
    (∀ thief victim, (s.dieAt d).steals[i]? = some (thief, victim) → thief ≠ victim →
      let v := s.coreOf (coreKey d victim)
      let f := s.coreOf (coreKey d thief)
      (v.spill = [] → v.deque = l ++ [r] → r.launch.ordered = false → bit v.stealctl 4 = false → f.deque.length < 64 →
        ∃ t, exec (.stealReply die i) s = .next t ∧ (t.coreOf (coreKey d thief)).deque = r :: f.deque ∧
          (t.coreOf (coreKey d victim)).deque = l ∧ (t.dieAt d).steals = (s.dieAt d).steals.eraseIdx i) ∧
      (v.spill = [] → v.deque = [] → ∃ t, exec (.stealReply die i) s = .next t ∧ t.cores = s.cores ∧
        (t.dieAt d).steals = (s.dieAt d).steals.eraseIdx i)) ∧
    (∀ m, (s.dieAt d).msgs[i]? = some m → m.kind = 3 → m.refused = none → m.relay = strOf m.core →
      let f := s.coreOf (coreKey d m.core)
      (f.deque.length < 64 → ∃ t, exec (.taskRecordArrival die i) s = .next t ∧
        (t.coreOf (coreKey d m.core)).deque = m.task :: f.deque ∧ (t.dieAt d).acks = (s.dieAt d).acks ++ [m.src]) ∧
      (f.dequeFull = true → ∃ t, exec (.taskRecordArrival die i) s = .next t ∧
        (t.dieAt d).msgs[i]? = some { m with refused := some s.wt } ∧ t.cores = s.cores)) ∧
    (∀ p, (s.dieAt d).joins[i]? = some p → Memory.wf s.mem = true → ∃ t, exec (.joinWordWrite die i) s = .next t ∧
      let at_ := lsBase (s.joinDie d p) p.core + p.off
      t.bytesAt at_ p.bytes.length = p.bytes ∧ t.tag (lsWord (s.joinDie d p) p.core p.off) = true ∧
      (∀ a, a < at_ ∨ at_ + p.bytes.length ≤ a → t.byte a = s.byte a) ∧
      (t.dieAt d).joins = (s.dieAt d).joins.eraseIdx i) ∧
    (∃ t, exec (.raceSweep die vault unit) s = .next t ∧ t.mem = s.mem ∧
      let old := if vault then (s.vaultAt d unit.toNat).races else (s.pgAt d unit.toNat).races
      let new := if vault then (t.vaultAt d unit.toNat).races else (t.pgAt d unit.toNat).races
      unit.toNat < 16 ∨ vault = true → ∀ p, p ∈ new.recs ↔ p ∈ old.recs ∧
        (p.2.phase = old.newest.getD p.2.lid.toNat 0 ∨ p.2.phase + 1 = old.newest.getD p.2.lid.toNat 0)) ∧
    ∃ t, exec (.flogClear die core ctx) s = .next t ∧ (t.ctxOf (ctxKey d k ctx.toNat)).flog = [] ∧
      (t.ctxOf (ctxKey d k ctx.toNat)).flogLost = 0 ∧ t.mem = s.mem

/-- R209, R210, R358: LAUNCH and LAUNCHN put a launch into the entry that is free, under the issuer's ASID and paddock; without one
LAUNCH waits and LAUNCHN says so; in a handler context both are illegal.
That a failing LAUNCHN commits nothing is log 58. -/
def Obligations.Launching : Prop :=
  ∀ (s : State) (g : BitVec 3) (b a : BitVec 5) (p : BitVec 3) (x y : Word), s.readP g = true → s.cur.rep = false →
    Operands s [b, a] none [x, y] →
    (s.inHandler = true → exec (.launch g b a) s = .next (s.trap 0x01) ∧ exec (.launchn g a b p) s = .next (s.trap 0x01)) ∧
    (s.inHandler = false → s.me.region = none →
      (s.launchRoom = none → exec (.launch g b a) s = .next s ∧
        exec (.launchn g a b p) s = .next ((s.writeP p false).finish [b, a] 4)) ∧
      (∀ lid, s.launchRoom = some lid →
        (∃ t q, exec (.launch g b a) s = .next t ∧ t.myDie.launches.find? lid = some q ∧ q.hdr = y ∧ q.tag = x ∧
          q.info.asid = s.me.launch.asid ∧ q.info.pad = s.me.launch.pad ∧ q.info.lid.toNat = lid % 4096 ∧ q.checked = false ∧
          t.me.regs.pc = s.me.regs.pc + 4 ∧ t.mem = s.mem) ∧
        ∃ t q, exec (.launchn g a b p) s = .next t ∧ t.myDie.launches.find? lid = some q ∧ q.hdr = x ∧ q.tag = y ∧
          (p ≠ 0 → t.readP p = true) ∧ t.me.regs.pc = s.me.regs.pc + 4 ∧ t.mem = s.mem))

/-- R208 to R214, R359, R360, R406: the manger. A doorbell moves TAIL or fails its queue; a queue is enabled with a size and an ASID
that it may have, and a write that names another sets ERR even where it disables the queue; intake takes the record at HEAD into the
lowest free entry; a round comes once per revolution, a launch whose record was bad fails with BADHDR in it, and a gang that is formed
for a free string of a tenant that can draw, or that is aged, starts there, each member with the registers of R161; core-time is
refilled, no earlier than the arbiter has given its allowance (R416); a completion record is written with SIGNAL last, and its entry
freed.
Places of the queue registers are log 36, a bad record log 37, a ring made smaller log 122, the lowest free entry log 68, and
one record for each intake log 72. -/
def Obligations.MangerEvents : Prop :=
  ∀ (s : State) (die : BitVec 2) (fn : BitVec 5) (q : BitVec 3) (v : Word) (lid : BitVec 12) (x : Launch),
    let d := die.toNat
    let f := fn.toNat
    let z := s.lq d f q.toNat
    let at_ (t : State) : LQueue := t.lq d f q.toNat
    (s.fnOpen d f = true → (s.dieAt d).held = false → f ≠ 0 ∨ (s.dieAt d).operator.isSome = true →
      (bits v 15 0 < 2 ^ bits z.cfg 3 0 → z.head.toNat < 2 ^ bits z.cfg 3 0 → ∃ t, exec (.doorbell die fn q v) s = .next t ∧
        at_ t = { z with tail := BitVec.ofNat 16 (bits v 15 0) }) ∧
      (2 ^ bits z.cfg 3 0 ≤ bits v 15 0 ∨ 2 ^ bits z.cfg 3 0 ≤ z.head.toNat → ∃ t, exec (.doorbell die fn q v) s = .next t ∧ bits (at_ t).cfg 63 62 = 1 ∧
        (at_ t).tail = z.tail)) ∧
    (s.fnOpen d f = false ∨ (s.dieAt d).held = true → exec (.doorbell die fn q v) s = .next s ∧ exec (.lqConfigWrite die fn q v) s = .next s) ∧
    (s.fnOpen d f = true → (s.dieAt d).held = false → bit v 63 = false →
      ∃ t, exec (.lqConfigWrite die fn q v) s = .next t ∧ bit (at_ t).cfg 63 = false ∧
        bit (at_ t).cfg 62 = (!(s.dieAt d).queueAsidOk f (bits v 15 5) || bit z.cfg 62)) ∧
    (s.fnOpen d f = true → (s.dieAt d).held = false → bit v 63 = true →
      (3 ≤ bits v 3 0 → (s.dieAt d).queueAsidOk f (bits v 15 5) = true → ∃ t, exec (.lqConfigWrite die fn q v) s = .next t ∧
        bits (at_ t).cfg 63 62 = 2 ∧ bits (at_ t).cfg 15 5 = bits v 15 5 ∧ bits (at_ t).cfg 3 0 = bits v 3 0 ∧
        (at_ t).base = z.base ∧ (at_ t).tail = z.tail) ∧
      (bits v 3 0 < 3 ∨ (s.dieAt d).queueAsidOk f (bits v 15 5) = false → ∃ t, exec (.lqConfigWrite die fn q v) s = .next t ∧
        bits (at_ t).cfg 63 62 = 1)) ∧
    (∀ n e pad, (s.dieAt d).freeLid = some e → s.intakeQueue d = some n → (s.dieAt d).fnPad (n / 8) = some pad →
      let y := s.lq d (n / 8) (n % 8)
      let u := s.modDie d fun k => { k with intake := (n + 1) % 136 }
      let l : LaunchInfo :=
        { asid := BitVec.ofNat 11 y.asid, pad := BitVec.ofNat 4 pad, pf := n / 8 == 0
          ten := BitVec.ofNat 8 (((s.pad? d pad).map (·.ten)).getD 0) }
      (∀ w, u.mangerRead d l (y.base + word (32 * y.head.toNat)) 32 = (none, w) → ∃ t, exec (.launchIntake die) s = .next t ∧
        bits (t.lq d (n / 8) (n % 8)).cfg 63 62 = 1) ∧
      (∀ bs w, u.mangerRead d l (y.base + word (32 * y.head.toNat)) 32 = (some bs, w) → bs.length = 32 →
        ∃ t k, exec (.launchIntake die) s = .next t ∧ (t.lq d (n / 8) (n % 8)).head.toNat = (y.head.toNat + 1) % y.entries % 2 ^ 16 ∧
          (t.dieAt d).launches.find? e = some k ∧ k.hdr = word (bytesNat (bs.take 8)) ∧
          k.tag = word (bytesNat ((bs.drop 8).take 8)) ∧ k.info.asid.toNat = y.asid ∧
          (k.bad = true ↔ bytesNat (bs.drop 16) ≠ 0 ∨ bytesNat (bs.take 8) % 64 ≠ 0))) ∧
    (s.rev ≤ (s.dieAt d).round → exec (.dispatchRound die) s = .next s) ∧
    ((s.dieAt d).round < s.rev → (s.dieAt d).pads = [] → (s.dieAt d).launches = [(lid.toNat, x)] → x.checked = false → x.failed = none →
      x.bad = true → ∃ t k, exec (.dispatchRound die) s = .next t ∧ (t.dieAt d).round = s.rev ∧
        (t.dieAt d).launches.find? lid.toNat = some k ∧ k.failed = some 0x10 ∧
        (bits x.hdr 5 0 ≠ 0 → t.mem = s.mem)) ∧
    (∀ (pad k : Nat) (p : Paddock) (g : List Nat) (n c : Nat), (s.dieAt d).round < s.rev → (s.dieAt d).pads = [(pad, p)] →
      (s.dieAt d).launches = [(lid.toNat, x)] → x.checked = true → x.failed = none → x.aborted = false → x.info.pad.toNat = pad →
      x.formed = [(k, g)] → k ∈ regionStrs p.vreg → s.withheld d k pad = false → s.strReady d k = true →
      (∀ j ∈ regionStrs p.vreg, j ≠ k → s.withheld d j pad = true) →
      (∀ c ∈ (s.dieAt d).goodCores k, s.logLeft d c x.info = false ∧ (s.coreOf (coreKey d c)).hasRecord = false) →
      64 ≤ x.passed.getD k 0 ∨ 0 < ((s.dieAt d).coreTime.bucket x.info.ten.toNat).b →
      g.length ≤ ((s.dieAt d).goodCores k).length → ((s.dieAt d).goodCores k)[n]? = some c → n < g.length →
      ∃ t, exec (.dispatchRound die) s = .next t ∧ (t.dieAt d).round = s.rev ∧
        (t.strAt d k).gang = some { uid := x.info.uid, size := g.length } ∧
        (∃ y, (t.dieAt d).launches.find? lid.toNat = some y ∧ y.formed = [] ∧ y.live = x.live + g.length) ∧
        let m := t.task d c
        m.st = .running ∧ m.launch = x.info ∧ m.member = true ∧ m.att = true ∧ m.gangPos = n ∧ m.id.wid = word (g.getD n 0) ∧
        m.id.jv = false ∧ m.regs.pc = x.entry ∧ m.regs.getS 2 = 0x20000 ∧ m.regs.getS 3 = x.info.args ∧
        m.regs.getS 4 = word (g.getD n 0) ∧ (∀ r, r < 2 ∨ 4 < r → m.regs.getS r = 0) ∧ m.regs.p = 0 ∧
        m.regs.getCsr Csr.rphase = 0 ∧ m.regs.getCsr Csr.taskj = 0) ∧
    ((s.dieAt d).coreTime.period ≤ s.wt.toNat / 128000 → s.wt.toNat / 128000 ≤ s.pkg.period → (s.dieAt d).coreTime.debts = [] →
      let share (k : Nat) : Nat := (s.dieAt d).share (·.cts) k * s.pkg.allow / 1000
      ∃ t, exec (.coreTimeRefill die) s = .next t ∧ (t.dieAt d).coreTime.period = s.wt.toNat / 128000 + 1 ∧
        (∀ k ∈ (s.dieAt d).tenants, ((t.dieAt d).coreTime.bucket k).b = (share k : Int) - ((s.dieAt d).coreTime.bucket k).deficit ∧
          ((t.dieAt d).coreTime.bucket k).deficit = 0) ∧
        (t.dieAt d).coreTime.pool = (131072 * s.pkg.allow / 1000 : Nat) - (((s.dieAt d).tenants.map share).sum : Nat)) ∧
    (s.wt.toNat / 128000 < (s.dieAt d).coreTime.period ∨ s.pkg.period < s.wt.toNat / 128000 →
      exec (.coreTimeRefill die) s = .next s) ∧
    ((s.dieAt d).launches.find? lid.toNat = some x →
      (s.launchDone d x = false → exec (.completionRecord die lid) s = .next s) ∧
      (s.launchDone d x = true → ∃ t, exec (.completionRecord die lid) s = .next t ∧
        (t.dieAt d).launches.find? lid.toNat = none ∧
        (x.checked = false → (s.dieAt d).lostCompl.toNat < 2 ^ 64 - 1 → t.mem = s.mem ∧
          (t.dieAt d).lostCompl = (s.dieAt d).lostCompl + 1) ∧
        (x.checked = true → x.faults = [] → ∀ u w,
          (s.orderLaunch d x.info.uid x.info.cscope.toNat x.info.ten.toNat).mangerWrite d x.info (x.info.compl + 8)
            ((x.record s.wt).flatMap fun k => natBytes 8 k.toNat) = (true, u) →
          u.mangerWrite d x.info x.info.compl (natBytes 8 1) = (true, w) → t.mem = w.mem))) ∧
    (x.record s.wt).length = 7 ∧ (x.record s.wt)[1]? = some x.tag ∧ (x.record s.wt)[4]? = some s.wt ∧
    ∃ w1, (x.record s.wt)[0]? = some w1 ∧ bits w1 63 56 = (match x.failed with
      | some k => k.toNat
      | none => if x.aborted then 0x03 else if x.trapped then 0x04 else if x.fatal then 0x02 else if x.fltCnt ≠ 0 then 0x01 else 0x00) ∧
      bits w1 55 44 = x.info.lid.toNat

/-- R372 to R377: the supervisor's ring. A record is written at TAIL with every word full and TAIL advances, or it is held while the
ring has no room and offered again in a later revolution; TSCR takes its writable fields, or only ERR where a write is refused; a
parked context is terminated, with TSTAT.STATE 10 and its launch FATAL, and one that CTX.SAVE has saved on its image, which is given up
with the last of them; the physical function resumes a supervisor, or, while none serves the ring, terminates the paddock's parked
contexts, whose launches end TRAPPED.
The events beside CSRW are log 74, and the order of a string's records log 86. -/
def Obligations.SupervisorEvents : Prop :=
  ∀ (s : State) (die : BitVec 2) (str : BitVec 8) (core : BitVec 11) (slot : BitVec 4) (agent : BitVec 13) (v pc : Word) (r : TrapRec)
    (rest : List TrapRec) (c : Nat) (a : Agent),
    let d := die.toNat
    let tscr (t : State) (k : Nat) : Word := (t.coreOf (coreKey d k)).csr.getD Csr.tscr 0
    ((s.strAt d str.toNat).traps = r :: rest → s.supvCore d r.pad.toNat = some c → r.words.length = 8 →
      let w := tscr s c
      let room : Prop := s.supvAt d c = true ∧ bit w 0 = true ∧ (bits w 31 24 + 256 - bits w 39 32) % 256 ≠ 2 ^ bits w 23 20
      let off := lsBase d c + bits w 16 6 * 64 + 64 * (bits w 31 24 % 2 ^ bits w 23 20)
      ∀ i : Instr, (i = .trapRecord die str ∧ r.held = false ∨ i = .trapRecordRetry die str ∧ r.held = true ∧ r.rev < s.rev) →
        (room → Memory.wf s.mem = true → ∃ t, exec i s = .next t ∧ (t.strAt d str.toNat).traps = rest ∧
          t.bytesAt off 64 = (r.words.flatMap fun x => natBytes 8 x.toNat) ∧
          (∀ j < 8, t.tag (off / 8 + j) = true) ∧ bits (tscr t c) 31 24 = (bits w 31 24 + 1) % 256 ∧
          (∀ k, k < off ∨ off + 64 ≤ k → t.byte k = s.byte k)) ∧
        (¬ room → ∃ t, exec i s = .next t ∧ (t.strAt d str.toNat).traps = { r with held := true, rev := s.rev } :: rest ∧
          t.mem = s.mem ∧ t.cores = s.cores)) ∧
    ((s.strAt d str.toNat).traps = r :: rest → r.held = true → exec (.trapRecord die str) s = .next s) ∧
    ((s.strAt d str.toNat).traps = r :: rest → r.held = false ∨ s.rev ≤ r.rev → exec (.trapRecordRetry die str) s = .next s) ∧
    (let w := tscr s core.toNat
     let new := (w &&& 0x00007F00FF0E003E) ||| (v &&& 0x1FFF80FF00F1FFC1)
     let refused : Prop := (bits w 31 24 + 256 - bits w 39 32) % 256 < (bits v 39 32 + 256 - bits w 39 32) % 256 ∨
      bit v 0 = true ∧ (bits v 23 20 < 2 ∨ 7 < bits v 23 20 ∨ 2 ^ 17 < bits v 16 6 * 64 + 64 * 2 ^ bits v 23 20)
     s.supvAt d core.toNat = true → v &&& 0x00007F00000E003E = 0 → bits v 63 62 = 0 →
      (¬ refused → ∃ t, exec (.tscrWrite die core v) s = .next t ∧ tscr t core.toNat = new ∧ t.mem = s.mem) ∧
      (refused → ∃ t, exec (.tscrWrite die core v) s = .next t ∧ tscr t core.toNat = setBits w 61 61 1 ∧ t.mem = s.mem)) ∧
    (s.supvAt d core.toNat = false → exec (.tscrWrite die core v) s = .next s ∧ exec (.terminate die core agent) s = .next s) ∧
    (s.supvAt d core.toNat = true → s.agentOf d (s.task d core.toNat).launch.pad.toNat agent = some a →
      let k := ctxKey a.die a.core a.ctx
      ((s.ctxOf k).st = .parked → (s.ctxOf k).halted = false → a.ctx = 0 → ∃ t, exec (.terminate die core agent) s = .next t ∧
        (t.ctxOf k).st = .terminated ∧ bits ((t.ctxOf k).regs.getCsr Csr.tstat) 1 0 = 2 ∧ (t.ctxOf k).region = none ∧
        (t.ctxOf k).att = false ∧ t.mem = s.mem ∧
        (∀ x, (s.dieAt d).launches.find? (s.ctxOf k).launch.lid.toNat = some x → x.info.uid = (s.ctxOf k).launch.uid →
          ∃ y, (t.dieAt d).launches.find? (s.ctxOf k).launch.lid.toNat = some y ∧ y.fatal = true ∧ y.live = x.live - 1)) ∧
      ((s.ctxOf k).st ≠ .parked → (s.ctxOf k).st ≠ .saved → s.savedCtx a = true → a.ctx < 3 →
        let other (n : Nat) : Prop := n < 3 ∧ n ≠ a.ctx ∧ (s.ctxOf (ctxKey (slotDie a.die) a.core n)).st = .saved
        ∃ t, exec (.terminate die core agent) s = .next t ∧ (t.ctxOf (ctxKey (slotDie a.die) a.core a.ctx)).st ≠ .saved ∧
          ((∀ n, ¬ other n) → t.images.find? (coreKey (slotDie a.die) a.core) = none) ∧
          ∀ n, other n → (t.ctxOf (ctxKey (slotDie a.die) a.core n)).st = .saved ∧
            (t.images.find? (coreKey (slotDie a.die) a.core)).isSome = true) ∧
      (s.mayEnd a = false → ∃ t, exec (.terminate die core agent) s = .next t ∧
        bit (tscr t core.toNat) 61 = true ∧ t.ctxs = s.ctxs)) ∧
    (s.supvCore d slot.toNat = some c →
      ((s.task d c).st = .parked → (s.task d c).halted = false → bit ((s.task d c).regs.getCsr Csr.tcause) 41 = false →
        pc.toNat < 2 ^ 48 → pc.toNat % 2 = 0 → ∃ t, exec (.supervisorResume die slot false pc) s = .next t ∧
          (t.task d c).st = .running ∧ (t.task d c).regs.pc = pc ∧ (t.task d c).regs.s = (s.task d c).regs.s ∧ t.mem = s.mem) ∧
      ((s.task d c).st ≠ .parked → exec (.supervisorResume die slot false pc) s = .next s) ∧
      ((s.task d c).st = .running → bit (tscr s c) 0 = true → exec (.supervisorResume die slot true pc) s = .next s) ∧
      ((s.task d c).st ≠ .running ∨ bit (tscr s c) 0 = false →
        (s.parkedOf d slot.toNat = [] → exec (.supervisorResume die slot true pc) s = .next s) ∧
        ∀ b, s.parkedOf d slot.toNat = [b] → b.ctx = 0 → (s.task b.die b.core).halted = false →
          ∃ t, exec (.supervisorResume die slot true pc) s = .next t ∧ (t.task b.die b.core).st = .terminated ∧
            ∀ x, (s.dieAt d).launches.find? (s.task b.die b.core).launch.lid.toNat = some x → x.info.uid = (s.task b.die b.core).launch.uid →
              ∃ y, (t.dieAt d).launches.find? (s.task b.die b.core).launch.lid.toNat = some y ∧ y.trapped = true))

/-! ## The die's tables, pre-emption -/

/-- R14, R25, R29, R31, R33 to R35, R89: commands of the die's tables. An install, an export or a load that its checks allow has its
effect and answers with ERR clear, and one they refuse changes no entry and sets ERR; a revocation sends its notice and ends with V and
RV clear and the next generation, when it is acknowledged or after a millisecond; no command is served on a die that its boot holds (R411); an invalidation marks every held entry that it hits,
and a holder's acknowledgement removes them.
The order of service and the refusals that the rules leave unsaid are log 75, log 76 and log 78; a REMOVE as one step is log
79, and a walk as one step log 115. -/
def Obligations.TableEvents : Prop :=
  ∀ (s : State) (die : BitVec 2) (c : TableCmd) (rest : List TableCmd) (a : Agent) (hnd : BitVec 12) (va : Word) (acc : BitVec 3)
    (core : BitVec 11) (e : TlbEntry) (t0 : Tlbi) (i : Nat) (n : Notice),
    let d := die.toNat
    let z := s.dieAt d
    let w (j : Nat) : Word := c.words.getD j 0
    let who := ctxKey a.die a.core a.ctx
    let err (t : State) (r : Nat) (b : Bool) : Prop := bit ((t.ctxOf who).regs.getCsr r) 63 = b
    let done (t : State) : Prop := (s.ctxOf who).wait = .sent → (t.ctxOf who).wait = .answered (.word 0)
    (z.cmds = c :: rest → z.held = false → c.agent = some a → a.ctx ≠ 3 →
      (c.table = 0 → c.cmd = 1 →
        (z.asidRefused c = true → ∃ t, exec (.asidInstall die) s = .next t ∧ (t.dieAt d).asids = z.asids ∧ err t Csr.asidcmd true ∧ done t) ∧
        (z.asidRefused c = false → c.pf = false → ∃ t, exec (.asidInstall die) s = .next t ∧
          (t.dieAt d).asidWords c.sel = (w 0, w 1) ∧ (∀ k, k ≠ c.sel → (t.dieAt d).asidWords k = z.asidWords k) ∧
          err t Csr.asidcmd false ∧ done t ∧ (t.dieAt d).cmds = rest)) ∧
      (c.table = 0 → c.cmd = 2 → c.pf = true ∨ z.ownsAsid c.pad.toNat c.sel = true → ∃ t, exec (.asidLoad die) s = .next t ∧
        (t.ctxOf who).regs.getCsr Csr.asiddat0 = (z.asidWords c.sel).1 ∧ (t.ctxOf who).regs.getCsr Csr.asiddat1 = (z.asidWords c.sel).2 ∧
        err t Csr.asidcmd false ∧ done t) ∧
      (c.table = 1 → c.cmd = 1 →
        (z.exportRefused c = true → ∃ t, exec (.exportHandle die) s = .next t ∧ (t.dieAt d).handles = z.handles ∧ err t Csr.hndcmd true) ∧
        (z.exportRefused c = false → ∃ t, exec (.exportHandle die) s = .next t ∧ handleV ((t.dieAt d).handle c.sel) = true ∧
          handleRv ((t.dieAt d).handle c.sel) = false ∧ handleGen ((t.dieAt d).handle c.sel) = handleGen (z.handle c.sel) ∧
          handleAsid ((t.dieAt d).handle c.sel) = handleAsid c.words ∧ handleRights ((t.dieAt d).handle c.sel) = handleRights c.words ∧
          (∀ k, k ≠ c.sel → (t.dieAt d).handle k = z.handle k) ∧ err t Csr.hndcmd false ∧ done t)) ∧
      (c.table = 1 → c.cmd = 2 → handleV (z.handle c.sel) = true → handleRv (z.handle c.sel) = false →
        c.pf = true ∨ z.ownsAsid c.pad.toNat (handleAsid (z.handle c.sel)) = true → c.sel < 4096 →
        bits ((z.handle c.sel).getD 3 0) 63 52 = s.pkg.number.toNat → (z.handle c.sel).length = 4 → ∃ t m, exec (.revoke die) s = .next t ∧
          handleRv ((t.dieAt d).handle c.sel) = true ∧
          (t.dieAt (bits ((z.handle c.sel).getD 3 0) 51 50)).notices =
            (s.dieAt (bits ((z.handle c.sel).getD 3 0) 51 50)).notices ++ [m] ∧
          m.xdie = d ∧ m.hnd.toNat = c.sel ∧ m.gen = handleGen (z.handle c.sel) ∧ m.sentAt = s.wt ∧
          (t.dieAt d).revoking = z.revoking ++ [c] ∧ (t.ctxOf who).regs.getCsr Csr.hndcmd = 0) ∧
      (c.table = 1 → c.cmd = 2 → handleV (z.handle c.sel) = false → ∃ t, exec (.revoke die) s = .next t ∧
        (t.dieAt d).handles = z.handles ∧ (t.dieAt d).notices = z.notices ∧ err t Csr.hndcmd true) ∧
      (c.table = 1 → c.cmd = 3 → c.pf = true ∨ handleV (z.handle c.sel) = false ∨ z.ownsAsid c.pad.toNat (handleAsid (z.handle c.sel)) = true →
        ∃ t, exec (.handleRead die) s = .next t ∧
          (∀ j < 4, (t.ctxOf who).regs.getCsr (Csr.hnddat + j) = (z.handle c.sel).getD j 0) ∧ err t Csr.hndcmd false ∧ done t) ∧
      (c.table = 2 → c.cmd = 1 →
        (z.installRefused c = true → ∃ t, exec (.install die) s = .next t ∧ (t.dieAt d).regions = z.regions ∧ err t Csr.rrcmd true) ∧
        (z.installRefused c = false → ∃ t, exec (.install die) s = .next t ∧
          (t.dieAt d).regions.find? c.sel = some [w 0 ||| 0x8000000000000000, w 1, w 2] ∧ err t Csr.rrcmd false ∧ done t)) ∧
      (c.table = 2 → c.cmd = 2 → (z.ownsAsid c.pad.toNat (regionAsid (z.regions.getD c.sel [0, 0, 0])) = true ∨ c.pf = true) →
        regionV (z.regions.getD c.sel [0, 0, 0]) = true → regionLines (z.regions.getD c.sel [0, 0, 0]) = 0 →
        (z.regions.getD c.sel [0, 0, 0]).length = 3 → ∃ t, exec (.remove die) s = .next t ∧
          regionV ((t.dieAt d).regions.getD c.sel [0, 0, 0]) = false ∧ (t.ctxOf who).regs.getCsr Csr.rrcmd = 0 ∧ t.mem = s.mem) ∧
      (c.table = 2 → c.cmd = 2 → c.pf = false → regionV (z.regions.getD c.sel [0, 0, 0]) = false → ∃ t, exec (.remove die) s = .next t ∧
        (t.dieAt d).regions = z.regions ∧ err t Csr.rrcmd true) ∧
      (c.table = 2 → c.cmd = 3 → c.pf = true → ∃ t, exec (.regionRead die) s = .next t ∧
        (∀ j < 3, (t.ctxOf who).regs.getCsr (Csr.rrdat + j) = (z.regions.getD c.sel [0, 0, 0]).getD j 0) ∧ err t Csr.rrcmd false)) ∧
    (z.cmds = [] ∨ z.held = true → ∀ x ∈ [Instr.asidInstall die, .asidLoad die, .exportHandle die, .revoke die, .handleRead die, .install die,
      .remove die, .regionRead die], exec x s = .next s) ∧
    (z.notices[i]? = some n → n.ipkg = s.pkg.number → n.idie = d → n.acked = false → n.marked = false → bit (z.asidWords n.iasid.toNat).1 0 = false →
      ∃ t, exec (.revokeNotice die i) s = .next t ∧ (t.dieAt d).notices[i]? = some { n with marked := true } ∧ t.mem = s.mem) ∧
    (z.notices[i]? = some n → n.ipkg = s.pkg.number → n.idie = d → n.acked = false → n.marked = true → z.tlbis = [] → s.awaits n = true →
      ∃ t, exec (.revokeNotice die i) s = .next t ∧ (t.dieAt d).notices[i]? = some { n with acked := true }) ∧
    (let h := z.handle hnd.toNat
     let ended (t : State) : Prop := handleV ((t.dieAt d).handle hnd.toNat) = false ∧ handleRv ((t.dieAt d).handle hnd.toNat) = false ∧
      handleGen ((t.dieAt d).handle hnd.toNat) = handleGen h + 1
     s.noticeOf d hnd.toNat = some (d, i) → z.notices[i]? = some n → h.length = 4 →
      (n.acked = true → ∃ t, exec (.revokeAck die hnd) s = .next t ∧ ended t ∧ (t.dieAt d).notices = z.notices.eraseIdx i) ∧
      (n.acked = false → exec (.revokeAck die hnd) s = .next s) ∧
      (n.acked = false → n.sentAt.toNat + 2000000 ≤ s.wt.toNat → ∃ t, exec (.revokeTimeout die hnd) s = .next t ∧ ended t) ∧
      (n.acked = true ∨ s.wt.toNat < n.sentAt.toNat + 2000000 → exec (.revokeTimeout die hnd) s = .next s)) ∧
    ((s.task d core.toNat).st = .running → va.toNat < 2 ^ 47 → tlbFind (s.coreOf (coreKey d core.toNat)).utlb (s.task d core.toNat).launch.asid.toNat va = none →
      tlbFind (s.pgAt d (pgOf va)).tlb (s.task d core.toNat).launch.asid.toNat va = some e → e.peer = false → permOk acc.toNat e.x e.w e.rd = true →
      ∃ t, exec (.fillRequest die core false va acc) s = .next t ∧ t.mem = s.mem ∧
        (t.coreOf (coreKey d core.toNat)).utlb = (e :: (s.coreOf (coreKey d core.toNat)).utlb).take 16) ∧
    (z.tlbis = [t0] → t0.active = false →
      (s.holdersOf d t0 ≠ [] → ∃ t q, exec (.tlbiBroadcast die) s = .next t ∧ (t.dieAt d).tlbis = [q] ∧ q.active = true ∧
        q.holders = s.holdersOf d t0 ∧
        ∀ k, k / 2048 = d → (∀ x ∈ (t.coreOf k).utlb, t0.hits x = true → x.dead = true) ∧
          (t.coreOf k).utlb.length = (s.coreOf k).utlb.length) ∧
      (s.holdersOf d t0 = [] → t0.hw = false → t0.agent.ctx ≠ 3 → (s.ctxOf (ctxKey t0.agent.die t0.agent.core t0.agent.ctx)).wait = .sent →
        ∃ t, exec (.tlbiBroadcast die) s = .next t ∧ (t.dieAt d).tlbis = [] ∧
          (t.ctxOf (ctxKey t0.agent.die t0.agent.core t0.agent.ctx)).wait = .answered (.word 0))) ∧
    (z.tlbis = [t0] → t0.active = true → core.toNat ∈ t0.holders → (∃ h ∈ t0.holders, h ≠ core.toNat) →
      (s.holderBusy d core.toNat t0 = true → exec (.holderAck die (core.setWidth 12)) s = .next s) ∧
      (s.holderBusy d core.toNat t0 = false → ∃ t, exec (.holderAck die (core.setWidth 12)) s = .next t ∧
        (∀ x ∈ (t.coreOf (coreKey d core.toNat)).utlb, ¬ (t0.hits x = true ∧ x.dead = true)) ∧
        (t.dieAt d).tlbis = [{ t0 with holders := t0.holders.filter (· != core.toNat) }]))

/-- R371, R379 to R387, R391, R393: pre-emption. A request is accepted when none is in progress and names its strings; a string that the
broadcast reaches chooses: idle and held without live contexts, drain where its remaining time allows, discard where every region is
discardable, else save; a drain that overruns falls back; its images complete and it is held; with every named string held the response
gives the choices; a release restores the saved contexts.
The parts that an image keeps are log 83, and the choice idle, the queue of requests and the response's ID log 84. -/
def Obligations.PreemptionEvents : Prop :=
  ∀ (s : State) (die : BitVec 2) (str : BitVec 8) (ws : List Word),
    let d := die.toNat
    let k := str.toNat
    let p := (s.strAt d k).pre
    let live := s.liveCtxs d k
    let bad : Prop := ws.length ≠ 6 ∨ bits (ws.getD 0 0) 59 48 ≠ 0 ∨ 2 < bits (ws.getD 0 0) 63 60 ∨ bits (ws.getD 5 0) 63 1 ≠ 0
    (bad → exec (.preemptionRequest die ws) s = .next s ∧ exec (.release die ws) s = .next s) ∧
    ((s.dieAt d).held = true → exec (.preemptionRequest die ws) s = .next s ∧ exec (.release die ws) s = .next s) ∧
    (¬ bad → (s.dieAt d).held = false → bit (ws.getD 5 0) 0 = false → (s.dieAt d).pre.cur = none → (s.dieAt d).pre.queue = [] →
      ∃ t, exec (.preemptionRequest die ws) s = .next t ∧ (t.dieAt d).pre.cur = some ws ∧ (t.dieAt d).pre.acceptedAt = s.wt ∧
        (t.dieAt d).pre.queue = [] ∧
        ∀ j < 256, (t.strAt d j).pre.named = (bit (ws.getD (1 + j / 64) 0) (j % 64) || (s.strAt d j).pre.named)) ∧
    (¬ bad → (s.dieAt d).held = false → bit (ws.getD 5 0) 0 = false → (s.dieAt d).pre.cur ≠ none → ∃ t, exec (.preemptionRequest die ws) s = .next t ∧
      (t.dieAt d).pre.queue = (s.dieAt d).pre.queue ++ [ws] ∧ t.strs = s.strs) ∧
    (¬ bad → (s.dieAt d).held = false → bit (ws.getD 5 0) 0 = true → (s.dieAt d).pre.cur = none → (s.dieAt d).pre.queue = [] →
      ∃ t, exec (.release die ws) s = .next t ∧ (t.dieAt d).pre.cur = none ∧
        ∀ j < 256, (t.strAt d j).pre.releasing =
          ((bit (ws.getD (1 + j / 64) 0) (j % 64) && (s.strAt d j).pre.held) || (s.strAt d j).pre.releasing)) ∧
    ((s.dieAt d).pre.cur = some ws → p.named = true → p.releasing = false → p.writing = false → p.held = false →
      (s.dieAt d).pre.acceptedAt.toNat ≤ s.wt.toNat →
      ∃ t ch, exec (.preemptBroadcast die str) s = .next t ∧ (t.strAt d k).pre.choice = some ch ∧ (t.strAt d k).pre.named = false ∧
        (t.strAt d k).pre.arrival = s.wt ∧ t.ctxs = s.ctxs ∧
        (live = [] → ch = .idle ∧ (t.strAt d k).pre.held = true) ∧
        (live ≠ [] → (t.strAt d k).pre.held = false ∧
          let dl : Int := (max 20000 (bits (ws.getD 0 0) 31 0) : Nat) - ((s.wt.toNat : Int) - (s.dieAt d).pre.acceptedAt.toNat)
          let fits (a : Agent) : Prop := ∃ r, s.remaining a = some r ∧ (r : Int) + 18000 ≤ dl
          ((∀ a ∈ live, fits a) → ch = .drain) ∧
          (¬ (∀ a ∈ live, fits a) → ch = if s.discardable d k then .discard else .save))) ∧
    (p.choice = some .drain → p.writing = false → p.held = false →
      (live ≠ [] → p.arrival.toNat + p.d ≤ s.wt.toNat + 18000 → ∃ t, exec (.fallback die str) s = .next t ∧
        (t.strAt d k).pre.choice = some (if s.discardable d k then .discard else .save)) ∧
      (s.wt.toNat + 18000 < p.arrival.toNat + p.d → exec (.fallback die str) s = .next s) ∧
      (live = [] → ∃ t, exec (.drainEnd die str) s = .next t ∧ (t.strAt d k).pre.writing = true) ∧
      (live ≠ [] → exec (.drainEnd die str) s = .next s)) ∧
    (p.choice = some .save → p.held = false → (∀ a ∈ s.strCtxs d k, (s.ctxAt a).live = true → s.notStopped a = false) →
      (∀ a ∈ live, (s.ctxAt a).region = none) → (∀ a ∈ live, s.accessOpen a = false) → s.bad = [] →
      (∀ c ∈ (s.dieAt d).goodCores k, (s.coreOf (coreKey d c)).badTiles = [] ∧ (s.coreOf (coreKey d c)).badAccs = []) → d < 4 → k < 256 →
      ∃ t, exec (.imagesWritten die str) s = .next t ∧ (t.strAt d k).pre.held = true ∧ (t.strAt d k).pre.writing = false ∧ t.mem = s.mem ∧
        (∀ c ∈ (s.dieAt d).goodCores k, ∃ im, t.images.find? (coreKey d c) = some im ∧ im.form = 2 ∧ im.wt = s.wt ∧ im.lost = false) ∧
        (∀ a ∈ s.strCtxs d k, (s.ctxAt a).st = .running → (t.ctxAt a).st = .saved ∧ (t.ctxAt a).regs = (s.ctxAt a).regs)) ∧
    ((s.dieAt d).pre.cur = some ws → (s.dieAt d).pre.queue = [] →
      ((∀ j < 256, bit (ws.getD (1 + j / 64) 0) (j % 64) = true → (s.strAt d j).pre.held = true ∧ (s.strAt d j).pre.named = false) →
        ∃ t, exec (.preemptionResponse die) s = .next t ∧ (t.dieAt d).pre.cur = none ∧
          (t.dieAt d).pre.respId.toNat = bits (ws.getD 0 0) 47 32 ∧ (t.dieAt d).pre.response.length = 8 ∧
          ∀ j < 256, bits ((t.dieAt d).pre.response.getD (j / 32) 0) (2 * (j % 32) + 1) (2 * (j % 32)) =
            if bit (ws.getD (1 + j / 64) 0) (j % 64) then
              (match (s.strAt d j).pre.choice with
                | some .drain => 1
                | some .discard => 2
                | some .save => 3
                | _ => 0)
            else 0) ∧
      ((∃ j < 256, bit (ws.getD (1 + j / 64) 0) (j % 64) = true ∧ (s.strAt d j).pre.held = false) →
        exec (.preemptionResponse die) s = .next s)) ∧
    (p.releasing = true → p.held = true → d < 4 → k < 256 →
      (∀ c ∈ (s.dieAt d).goodCores k, (s.coreOf (coreKey d c)).lean = [] ∧ s.imageLost d c = false) →
      ∃ t, exec (.restoreComplete die str) s = .next t ∧ (t.strAt d k).pre.held = false ∧ t.mem = s.mem ∧
        (∀ c ∈ (s.dieAt d).goodCores k, t.images.find? (coreKey d c) = none) ∧
        ∀ a ∈ s.strCtxs d k, (s.ctxAt a).st = .saved →
          (bits ((s.ctxAt a).regs.getCsr Csr.tstat) 1 0 = 0 → (t.ctxAt a).st = .running ∧ (t.ctxAt a).regs = (s.ctxAt a).regs) ∧
          (bits ((s.ctxAt a).regs.getCsr Csr.tstat) 1 0 = 1 → (t.ctxAt a).st = .parked)) ∧
    (p.releasing = false → exec (.restoreComplete die str) s = .next s)

/-! ## Paddocks, the trust die, power, the host -/

/-- R394 to R396, R399, R402, R403: PDCMD. The first check of CREATE that fails decides STATUS and builds nothing; one that all pass
builds the paddock with fresh keys, its cores in their reset value, its raised delivery window, an opening record and an enabled
virtual function, once the rows are at the guard step where it makes the package multi-tenant (R415). DESTROY ends with the paddock's keys, ASIDs and streams gone, its closing record kept and its function disabled.
A usage record comes at every period, chained and numbered, and a write of its SEQ exposes it.
The READ clauses are the model's (log 25), and so are the waits of CREATE and the steps of DESTROY (log 99, log 100); the tree
and the slots that it leaves are free (log 8). -/
def Obligations.PaddockEvents : Prop :=
  ∀ (s : State) (die : BitVec 2) (slot : BitVec 4) (fn : BitVec 5) (seq : Word) (p : Paddock),
    let d := die.toNat
    let n := slot.toNat
    let z := s.dieAt d
    let ws := z.tableWords n
    let new : Paddock := { desc := ws }
    let status (t : State) (e : Nat) : Prop := bits (t.dieAt d).pdcmd 55 48 = e ∧ bit (t.dieAt d).pdcmd 63 = false
    let nothing (t : State) : Prop := t.cores = s.cores ∧ t.ctxs = s.ctxs ∧ t.mem = s.mem ∧ t.slots = s.slots ∧
      (t.dieAt d).keys = z.keys ∧ ∀ k, (t.pad? d k).map (·.desc) = (s.pad? d k).map (·.desc)
    (z.pdBusy 1 n = true → 5 ≤ s.pkg.boot → (s.pkg.member = true → s.pkg.aligned = true) →
      (s.pad? d n ≠ none → ∃ t, exec (.create die slot) s = .next t ∧ status t 1 ∧ nothing t) ∧
      (s.pad? d n = none → badDesc ws = true → ∃ t, exec (.create die slot) s = .next t ∧ status t 2 ∧ nothing t) ∧
      (s.pad? d n = none → badDesc ws = false → (∃ q ∈ z.pads.values, new.overlaps q = true) →
        ∃ t, exec (.create die slot) s = .next t ∧ status t 3 ∧ nothing t) ∧
      (s.pad? d n = none → badDesc ws = false → (∀ q ∈ z.pads.values, new.overlaps q = false) →
        (5120 < new.hsh + (z.pads.values.map (·.hsh)).sum ∨ 131072 < new.cts + (z.pads.values.map (·.cts)).sum →
          ∃ t, exec (.create die slot) s = .next t ∧ status t 4 ∧ nothing t) ∧
        (new.hsh + (z.pads.values.map (·.hsh)).sum ≤ 5120 → new.cts + (z.pads.values.map (·.cts)).sum ≤ 131072 →
          ((z.logical new.vreg).length ≤ new.supv → ∃ t, exec (.create die slot) s = .next t ∧ status t 5 ∧ nothing t) ∧
          (new.supv < (z.logical new.vreg).length → s.joinsMulti new.ten = false → z.funcs.find? (n + 1) = none →
            (∀ f ∈ standingPaths d ws, s.asleep f.path = false) →
            let vaults := (List.range 64).filter fun v => bit new.vreg v
            (9 ∈ s.pkg.bootFail → ∃ t, exec (.create die slot) s = .next t ∧ status t 6 ∧ nothing t) ∧
            (9 ∉ s.pkg.bootFail → convex (regionStrs new.vreg) = false →
              ∃ t, exec (.create die slot) s = .next t ∧ status t 7 ∧ nothing t) ∧
            (9 ∉ s.pkg.bootFail → convex (regionStrs new.vreg) = true →
              (match s.placeAll (standingOf d (regionStrs new.vreg) vaults) with
              | none => ∃ t, exec (.create die slot) s = .next t ∧ status t 8 ∧ nothing t
              | some (_, cs) => ∃ t q r, exec (.create die slot) s = .next t ∧ status t 0 ∧ t.mem = s.mem ∧ t.pad? d n = some q ∧
                q.desc = ws ∧ q.dw = raisedDw (descDw ws) (regionStrs new.vreg) ∧ q.standing = cs ∧ q.floor = 0 ∧ q.usage.seq = 1 ∧
                q.usage.ring = [r] ∧ r.length = 256 ∧ bytesNat ((r.drop 20).take 4) = 1 ∧
                ((t.dieAt d).funcs.getD (n + 1) {}).enabled = true ∧
                (∀ i < new.keyN, ((t.dieAt d).keys.find? (new.keyB + i)).isSome = true) ∧
                ∀ c ∈ z.logical new.vreg, let y := t.coreOf (coreKey d c)
                  y.on = true ∧ y.div = 1 ∧ y.deque = [] ∧ y.spill = [] ∧ y.bars = [] ∧ y.csr.getD Csr.stealctl 0 = 6))) ∧
          (new.supv < (z.logical new.vreg).length → s.joinsMulti new.ten = true → z.funcs.find? (n + 1) = none →
            (∀ f ∈ standingPaths d ws, s.asleep f.path = false) →
            match s.build d n ws with
            | .error e => e < 256 → ∃ t, exec (.create die slot) s = .next t ∧ status t e ∧ nothing t
            | .ok _ =>
              (s.entered = false → exec (.create die slot) s = .next s.startEntry) ∧
              (s.entered = true → s.enterMulti.pkg.mt = true ∧ s.enterMulti.pkg.step = s.pkg.entering.getD 0 ∧
                s.enterMulti.pkg.gcnt = s.pkg.gcnt + 1 ∧
                match s.enterMulti.build d n ws with
                | .error e => e < 256 → ∃ t, exec (.create die slot) s = .next t ∧ status t e ∧ nothing t
                | .ok u => exec (.create die slot) s = .next (u.pdDone d 0)))))) ∧
    (z.pdBusy 3 n = true →
      (s.pad? d n = none → ∃ t, exec (.paddockRead die slot) s = .next t ∧ status t 1 ∧ (t.dieAt d).pdTable = z.pdTable) ∧
      (s.pad? d n = some p → p.desc.length = 8 → p.dw < 2048 → ∃ t, exec (.paddockRead die slot) s = .next t ∧ status t 0 ∧
        (∀ j < 8, j ≠ 2 → ((t.dieAt d).tableWords n).getD j 0 = p.word j) ∧
        bits (((t.dieAt d).tableWords n).getD 2 0) 31 21 = p.dw)) ∧
    (z.pdBusy 2 n = true →
      (s.pad? d n = none → ∃ t, exec (.destroy die slot) s = .next t ∧ status t 1 ∧ t.mem = s.mem ∧ t.ctxs = s.ctxs) ∧
      (s.pad? d n = some p → p.phase ≠ 0 → s.padBusy d n = true → exec (.destroy die slot) s = .next s) ∧
      (s.pad? d n = some p → p.phase = 2 → s.padBusy d n = false → z.padHandles p = [] → s.padCircuits d n = [] →
        (∀ l ∈ z.launches, l.2.info.pad.toNat ≠ n) → ∃ t, exec (.destroy die slot) s = .next t ∧ status t 0 ∧ t.mem = s.mem ∧
          t.pad? d n = none ∧ (∀ k, p.keyB ≤ k → k < p.keyB + p.keyN → (t.dieAt d).keys.find? k = none) ∧
          (∀ k, p.asidB ≤ k → k < p.asidB + p.asidN → (t.dieAt d).asids.find? k = none) ∧
          (∀ y ∈ (t.dieAt d).streams, y.pad.toNat ≠ n) ∧ ((t.dieAt d).funcs.getD (n + 1) {}).enabled = false ∧
          (∀ k, ∀ e ∈ (t.coreOf (coreKey d k)).utlb, k < 2048 → ¬ (p.asidB ≤ e.asid.toNat ∧ e.asid.toNat < p.asidB + p.asidN)) ∧
          ∃ r, (t.pkg.oldRings.getD (d * 16 + n) []).getLast? = some r ∧ bytesNat ((r.drop 20).take 4) / 2 % 2 = 1)) ∧
    (s.pad? d n = none → exec (.usageRecord die slot) s = .next s) ∧
    (s.pad? d n = some p →
      (s.wt.toNat / (p.studp * 2000000000) ≤ p.usage.period → exec (.usageRecord die slot) s = .next s) ∧
      (p.usage.period < s.wt.toNat / (p.studp * 2000000000) → ∃ t q r, exec (.usageRecord die slot) s = .next t ∧ t.mem = s.mem ∧
        t.pad? d n = some q ∧ q.usage.seq = p.usage.seq + 1 ∧ q.usage.tbeg = s.wt ∧ q.usage.flags = 0 ∧ q.usage.charge = 0 ∧
        q.usage.ring = (if 256 ≤ p.usage.ring.length then p.usage.ring.drop 1 else p.usage.ring) ++ [r] ∧ r.length = 256 ∧
        r.take 8 = natBytes 8 p.usage.seq ∧ (r.drop 17).take 1 = [BitVec.ofNat 8 n] ∧ (r.drop 24).take 8 = natBytes 8 p.usage.tbeg.toNat ∧
        (r.drop 32).take 8 = natBytes 8 s.wt.toNat ∧ (r.drop 40).take 8 = natBytes 8 p.usage.charge ∧
        (r.drop 72).take 8 = natBytes 8 p.usage.launches)) ∧
    (s.fnOpen d fn.toNat = false → exec (.studBookIndex die fn seq) s = .next s) ∧
    (s.fnOpen d fn.toNat = true → ∃ t, exec (.studBookIndex die fn seq) s = .next t ∧
      ((t.dieAt d).funcs.getD fn.toNat {}).studIdx = seq ∧ t.mem = s.mem ∧
      ∀ k, (t.pad? d k).map (·.usage.ring) = (s.pad? d k).map (·.usage.ring))

/-- R400, R405, R409: the trust die. Messages are answered in the order that a connection follows; a session stands once FINISH
verifies; BIND is refused in the cases of R405 and otherwise adds a stream whose counter is 0 and raises the floor, which UNBIND and
END_SESSION leave as it is; at most 72 IDE streams are keyed; an interface moves between its states and only STOP_INTERFACE leaves
ERROR. The bytes of the answers, the order of the stages and the answer to an unexpected message are the model's own (log 10,
log 104), and the count of IDE streams is over the package (log 105). -/
def Obligations.TrustEvents : Prop :=
  ∀ (s : State) (die target : BitVec 2) (slot cert : BitVec 4) (off len : BitVec 16) (bytes : List Byte) (block stream8 : BitVec 8)
    (n : Nat) (asid : BitVec 11) (stream : BitVec 32) (key : BitVec 256) (fn : BitVec 5) (p : Paddock) (k : BitVec 256),
    let d := die.toNat
    let x := s.spdmAt d
    let t0 := s.dieAt target.toNat
    let refusal (t : State) : Prop := (t.spdmAt d).resp = spdmError ∧ t.dies = s.dies ∧ t.pkg.ide = s.pkg.ide
    (s.pkg.boot < 3 → ∀ i ∈ [Instr.version die, .capabilities die, .algorithms die, .digests die, .certificate die cert off len,
      .challenge die cert bytes, .measurements die block bytes, .keyExchange die bytes, .finish die n bytes],
      exec i s = .next s) ∧
    (3 ≤ s.pkg.boot →
      (∃ t, exec (.version die) s = .next t ∧ (t.spdmAt d).stage = 1 ∧ t.dies = s.dies) ∧
      (x.stage = 0 → ∃ t, exec (.capabilities die) s = .next t ∧ refusal t ∧ (t.spdmAt d).stage = 0) ∧
      (1 ≤ x.stage → ∃ t, exec (.capabilities die) s = .next t ∧ (t.spdmAt d).stage = max x.stage 2 ∧ t.dies = s.dies) ∧
      (x.stage < 2 → ∃ t, exec (.algorithms die) s = .next t ∧ refusal t) ∧
      (2 ≤ x.stage → ∃ t, exec (.algorithms die) s = .next t ∧ (t.spdmAt d).stage = 3 ∧ t.dies = s.dies) ∧
      (x.stage < 3 → ∀ i ∈ [Instr.digests die, .certificate die cert off len, .challenge die cert bytes, .measurements die block bytes,
        .keyExchange die bytes, .finish die n bytes], ∃ t, exec i s = .next t ∧ refusal t ∧ (t.spdmAt d).sessions = x.sessions) ∧
      (3 ≤ x.stage →
        (∃ t, exec (.digests die) s = .next t ∧ (t.spdmAt d).resp = s.chainDigest 0 ++ s.chainDigest 1) ∧
        (cert.toNat < 2 →
          (∃ t, exec (.certificate die cert off len) s = .next t ∧
            (t.spdmAt d).resp = ((s.chain cert.toNat).drop off.toNat).take len.toNat) ∧
          ∃ t body, exec (.challenge die cert bytes) s = .next t ∧
            (t.spdmAt d).resp = body ++ Config.ed448Sign s.pkg.trust.alias_ body ∧ body = s.chainDigest cert.toNat ++ bytes) ∧
        (2 ≤ cert.toNat → (∃ t, exec (.certificate die cert off len) s = .next t ∧ refusal t) ∧
          ∃ t, exec (.challenge die cert bytes) s = .next t ∧ refusal t) ∧
        (1 ≤ block.toNat → block.toNat ≤ 4 → ∃ t body, exec (.measurements die block bytes) s = .next t ∧
          (t.spdmAt d).resp = body ++ Config.ed448Sign s.pkg.trust.alias_ body ∧
          body = s.pkg.measured.getD (block.toNat - 1) [] ++ bytes) ∧
        (∃ t q, exec (.keyExchange die bytes) s = .next t ∧ (t.spdmAt d).sessions.find? x.nextSession = some (false, q) ∧
          (t.spdmAt d).nextSession = x.nextSession + 1 ∧ ∀ j, j ≠ x.nextSession → (t.spdmAt d).sessions.find? j = x.sessions.find? j) ∧
        (x.sessions.find? n = some (false, k) →
          s.sessionKey d n = none ∧ ∃ t, exec (.finish die n bytes) s = .next t ∧
            if Config.finishOk k bytes = true then t.sessionKey d n = some k
            else refusal t ∧ (t.spdmAt d).sessions.find? n = none) ∧
        (x.sessions.find? n ≠ none → ∃ t, exec (.endSession die n) s = .next t ∧ (t.spdmAt d).sessions.find? n = none ∧
          (∀ j < 4, ∀ y ∈ (t.dieAt j).streams, ¬ (y.conn = d ∧ y.session = n)) ∧
          ∀ j k, (t.pad? j k).map (·.floor) = (s.pad? j k).map (·.floor)) ∧
        (s.sessionKey d n = some k →
          (t0.pads.find? slot.toNat = some p →
            (256 ≤ t0.streams.length ∨ t0.ownsAsid slot.toNat asid.toNat = false ∨ (∃ y ∈ t0.streams, y.id = stream) ∨
              stream.toNat ≤ p.floor.toNat → ∃ t, exec (.bind die n target slot asid stream) s = .next t ∧ refusal t) ∧
            (t0.streams.length < 256 → t0.ownsAsid slot.toNat asid.toNat = true → (∀ y ∈ t0.streams, y.id ≠ stream) →
              p.floor.toNat < stream.toNat → ∃ t y, exec (.bind die n target slot asid stream) s = .next t ∧
                (t.dieAt target.toNat).streams = t0.streams ++ [y] ∧ y.id = stream ∧ y.asid = asid ∧ y.pad = slot ∧ y.last = 0 ∧
                y.key = Config.streamKey k stream ∧ (t.pad? target.toNat slot.toNat).map (·.floor) = some stream)) ∧
          ((∃ y ∈ t0.streams, y.id = stream ∧ y.conn = d ∧ y.session = n) →
            ∃ t, exec (.unbind die n target stream) s = .next t ∧
              (∀ y ∈ (t.dieAt target.toNat).streams, ¬ (y.id = stream ∧ y.conn = d ∧ y.session = n)) ∧
              (t.dieAt target.toNat).pads = t0.pads) ∧
          (s.pkg.ide.length < 72 → ∃ t, exec (.ideKm die n stream8 key) s = .next t ∧ t.pkg.ide.find? stream8.toNat = some key) ∧
          (72 ≤ s.pkg.ide.length → s.pkg.ide.find? stream8.toNat = none →
            ∃ t, exec (.ideKm die n stream8 key) s = .next t ∧ refusal t)) ∧
        (s.sessionKey d n = none → (∃ t, exec (.bind die n target slot asid stream) s = .next t ∧ refusal t) ∧
          (∃ t, exec (.unbind die n target stream) s = .next t ∧ refusal t) ∧
          ∃ t, exec (.ideKm die n stream8 key) s = .next t ∧ refusal t)) ∧
      (fn.toNat ≤ 16 →
        let st (t : State) : Tdisp := ((t.dieAt d).funcs.getD fn.toNat {}).tdisp
        (∃ t, exec (.lockInterface die fn) s = .next t ∧ st t = if st s = .unlocked then .locked else st s) ∧
        (∃ t, exec (.startInterface die fn) s = .next t ∧ st t = if st s = .locked then .run else st s) ∧
        ∃ t, exec (.stopInterface die fn) s = .next t ∧ st t = .unlocked))

/-- R400, R404, R411 to R422: boot and power. The boot stops at the first step that fails, with the fault pin asserted where PCIe does
not train yet, and one that passes leaves keys 1 to 15 installed, local stores and vaults zero, WTIME at zero, and the keys that the seed
and the digests of the firmware give. A core without a live context stops after a microsecond and restarts undivided; the arbiter acts
once per period by the rules of R416; a row and a guard step move at revolution boundaries, up at least 10 µs after the voltage; cap
messages and the lease follow R421; each row's sensor runs its state machine. What the boot derives in detail is the model's own
(log 136).
POWER_ON as one step is the model's choice (log 93), and so are the clocks of cores (log 94), the sensor (log 95), the rows
(log 96), the entry (log 97) and the checks of a message (log 98). -/
def Obligations.PowerEvents : Prop :=
  ∀ (s : State) (die : BitVec 2) (core : BitVec 11) (v : Word) (row : Nat) (r : Row) (c : StepChange) (w : Nat),
    let d := die.toNat
    let k := coreKey d core.toNat
    let p := s.pkg
    let fails (n : Nat) : Prop := n ∈ p.bootFail
    (p.boot ≠ 0 → exec .powerOn s = .next s) ∧
    (p.boot = 0 →
      (fails 1 → ∃ t, exec .powerOn s = .next t ∧ t.pkg.boot = 0 ∧ (t.dieAt d).fstep = 1 ∧ t.pkg.faultPin = true ∧ t.mem = s.mem) ∧
      (¬ fails 1 → fails 2 →
        ∃ t, exec .powerOn s = .next t ∧ t.pkg.boot = 0 ∧ (t.dieAt d).fstep = 2 ∧ t.pkg.faultPin = true ∧ t.mem = s.mem) ∧
      (¬ fails 1 → ¬ fails 2 → fails 4 →
        ∃ t, exec .powerOn s = .next t ∧ t.pkg.boot = 3 ∧ (t.dieAt d).fstep = 4 ∧ (t.dieAt d).state = 2 ∧ t.mem = s.mem) ∧
      (¬ fails 1 → ¬ fails 2 → ¬ fails 4 → ∃ t, exec .powerOn s = .next t ∧ t.pkg.boot = 7 ∧ t.wt = 0 ∧
        (fails (5 + d) → (t.dieAt d).fstep = 5 ∧ (t.dieAt d).state = 3) ∧
        (¬ fails (5 + d) → (t.dieAt d).fstep = 0 ∧ (t.dieAt d).state = 1) ∧
        t.pkg.measured = [1, 2, 3, 4].map (fun j => shake256 64 (Config.firmware p.firmware j)) ∧
        t.pkg.trust.alias_ = shake256 57 (Config.fusedSeed ++ t.pkg.measured.flatten) ∧
        (∀ j, ((t.dieAt d).keys.find? j).isSome = true ↔ 1 ≤ j ∧ j ≤ 15) ∧ (∀ a, vaultBase 0 ≤ a → t.byte a = 0) ∧
        ∀ a < vaultBase 0, t.byte a = s.byte a)) ∧
    (let x := s.coreOf k
     (x.on = true → x.div ≠ 0 → s.coreLive d core.toNat = false → x.idleSince.toNat + 2000 ≤ s.wt.toNat →
        ∃ t, exec (.coreStop die core) s = .next t ∧ t.coreOf k = { x with div := 0 } ∧ t.mem = s.mem ∧ t.ctxs = s.ctxs) ∧
      (s.coreLive d core.toNat = true ∨ s.wt.toNat < x.idleSince.toNat + 2000 → exec (.coreStop die core) s = .next s) ∧
      (x.on = true → x.div = 0 → p.tripped = false → ∃ t, exec (.coreRestart die core) s = .next t ∧ (t.coreOf k).div = 1 ∧
        t.mem = s.mem ∧ t.ctxs = s.ctxs) ∧
      (p.tripped = true ∨ x.on = false → exec (.coreRestart die core) s = .next s)) ∧
    (s.wt.toNat / 128000 ≤ p.period → exec .arbiterPeriod s = .next s) ∧
    (p.period < s.wt.toNat / 128000 → ∃ t, exec .arbiterPeriod s = .next t ∧ t.pkg.period = s.wt.toNat / 128000 ∧ t.mem = s.mem ∧
      t.ctxs = s.ctxs ∧ t.pkg.mt = (p.mt && decide (2 ≤ s.tenantsLive.length)) ∧ t.pkg.capPending = none ∧
      t.pkg.budget = (match p.lease, p.capPending with
        | none, _ => 1800
        | some _, some w => min 3400 w
        | some _, none => min 3400 p.capW) ∧
      let mw := t.pkg.budget * 1000
      let total := p.power
      let up := (s.wt.toNat + 20000 + 255) / 256 * 256
      let budget (row : Nat) : Nat := max 2000 (mw * s.rowLive row / max 1 ((s.rowsOn.map s.rowLive).sum))
      let high (row : Nat) : Prop := budget row < (p.rows.getD row {}).power
      (t.pkg.mt = true → (∀ j ∈ s.rowsOn, (t.pkg.rows.getD j {}).excess = true ↔ high j) ∧
        t.pkg.allow = (if mw < total then p.allow * mw / total else if total * 100 ≤ mw * 95 then min (p.allow + 50) 1000 else p.allow) ∧
        (p.change = none → t.pkg.allow ≤ 500 → mw < total → p.step < 3 →
          t.pkg.change = some { goal := p.step + 1, up := false, due := (s.rev + 2) * 256 }) ∧
        (p.change = none → t.pkg.allow = 1000 → 15 ≤ p.calm → 0 < p.step →
          total * stepMHz (p.step - 1) * 10 ≤ mw * 9 * stepMHz p.step →
          t.pkg.change = some { goal := p.step - 1, up := true, due := (s.rev + 2) * 256 }) ∧
        (∀ q, p.change = some q → t.pkg.change = some q) ∧ t.pkg.step = p.step) ∧
      (t.pkg.mt = false → t.pkg.allow = 1000 ∧ t.pkg.change = none) ∧
      (t.pkg.mt = false → t.pkg.entering = none → ∀ j ∈ s.rowsOn,
        let x := p.rows.getD j {}
        let y := t.pkg.rows.getD j {}
        (x.therm ≠ .normal → y = x) ∧ (x.therm = .normal →
        (high j → x.point < 7 → y.excess = false ∧ y.raise = none ∧ (s.wt.toNat % 256 = 0 → y.point = x.point + 1) ∧
          (s.wt.toNat % 256 ≠ 0 → y.point = x.point ∧ y.lower = some (x.point + 1))) ∧
        (high j → 7 ≤ x.point → s.rowAtDiv j < 4 → y.point = x.point ∧ y.excess = false ∧
          ∀ i, i ∈ s.cores.keys → i / 2048 * 128 + vrowOf (i % 2048) = j → (s.coreOf i).on = true → (s.coreOf i).div ≠ 0 →
            (t.coreOf i).div = (s.coreOf i).div + 1) ∧
        (high j → 7 ≤ x.point → 4 ≤ s.rowAtDiv j → y.excess = true) ∧
        (¬ high j → y.point = x.point ∧ y.excess = false ∧
          (x.power * 10 < budget j * 9 → 0 < s.rowLive j → total ≤ mw → 0 < x.point → x.raise = none →
            y.raise = some (x.point - 1, up)) ∧
          ∀ i, i ∈ s.cores.keys → i / 2048 * 128 + vrowOf (i % 2048) = j → (s.coreOf i).on = true → (s.coreOf i).div ≠ 0 →
            (t.coreOf i).div = 1)))) ∧
    (p.change = none → exec .guardStepChange s = .next s) ∧
    (p.change = some c →
      (c.volt = true ∨ s.wt.toNat < c.due ∨ s.wt.toNat % 256 ≠ 0 → exec .guardStepChange s = .next s) ∧
      (c.volt = false → c.due ≤ s.wt.toNat → s.wt.toNat % 256 = 0 → c.up = true → ∃ t q, exec .guardStepChange s = .next t ∧
        t.pkg.change = some q ∧ q.volt = true ∧ q.goal = c.goal ∧ s.wt.toNat + 20000 ≤ q.due ∧ q.due % 256 = 0 ∧
        q.due < s.wt.toNat + 20256 ∧ t.pkg.step = p.step ∧ t.pkg.rows = p.rows) ∧
      let taken (t : State) : Prop := t.pkg.step = c.goal ∧ t.pkg.change = none ∧ t.pkg.gcnt = p.gcnt + 1 ∧ t.pkg.gwt = s.wt ∧
        (∀ j < 512, (t.pkg.rows.getD j {}).point = 4 + c.goal) ∧ t.mem = s.mem ∧
        ∀ i j q, s.pad? i j = some q → (t.pad? i j).map (·.usage.flags.getLsbD 3) = some true
      (c.volt = false → c.due ≤ s.wt.toNat → s.wt.toNat % 256 = 0 → c.up = false → ∃ t, exec .guardStepChange s = .next t ∧ taken t) ∧
      (c.volt = true → c.due ≤ s.wt.toNat → s.wt.toNat % 256 = 0 → ∃ t, exec .frequencyRaise s = .next t ∧ taken t)) ∧
    (s.wt.toNat % 256 ≠ 0 → exec .frequencyRaise s = .next s) ∧
    (p.change = none → s.wt.toNat % 256 = 0 → ∃ t, exec .frequencyRaise s = .next t ∧ t.pkg.step = p.step ∧ (p.rows.find? row = some r →
      (∀ q u, r.raise = some (q, u) → u ≤ s.wt.toNat → t.pkg.rows.find? row = some { r with point := q, raise := none, lower := none }) ∧
      (∀ q u, r.raise = some (q, u) → s.wt.toNat < u → t.pkg.rows.find? row = some r) ∧
      (r.raise = none → t.pkg.rows.find? row = some r))) ∧
    (3 ≤ p.boot →
      let z := s.dieAt d
      let capw := bits z.cap1 63 48
      let lease := bits z.cap1 31 0
      let wrong : Prop := bits v 63 58 ≠ 0 ∨ bits v 55 1 ≠ 0 ∨ bits z.cap1 47 32 ≠ 0 ∨ capw < 600 ∨ 3400 < capw ∨ lease = 0 ∨ 60000 < lease
      (bit v 0 = false → exec (.capMessage die v) s = .next s) ∧
      (bit v 0 = true →
        (z.cap0.toNat ≤ p.capSeq.toNat → ∃ t, exec (.capMessage die v) s = .next t ∧ t.pkg = p ∧ (t.dieAt d).capRes = 1) ∧
        (p.capSeq.toNat < z.cap0.toNat → wrong →
          ∃ t, exec (.capMessage die v) s = .next t ∧ t.pkg = p ∧ (t.dieAt d).capRes = 2) ∧
        (p.capSeq.toNat < z.cap0.toNat → ¬ wrong → ∃ t, exec (.capMessage die v) s = .next t ∧ (t.dieAt d).capRes = 0 ∧
          t.pkg.capSeq = z.cap0 ∧ t.pkg.capPending = some capw ∧ t.pkg.lease = some (s.wt.toNat + lease * 2000000) ∧
          t.pkg.budget = p.budget ∧ t.pkg.step = p.step)) ∧
      (70 ≤ v.toNat → v.toNat ≤ 105 → ∃ t, exec (.thresholdWrite die v) s = .next t ∧ t.pkg.threshold.toNat = v.toNat ∧
        t.dies = s.dies) ∧
      (v.toNat < 70 ∨ 105 < v.toNat → exec (.thresholdWrite die v) s = .next s)) ∧
    (p.lease = none → exec .leaseExpiry s = .next s) ∧
    (p.lease = some w → (s.wt.toNat < w → exec .leaseExpiry s = .next s) ∧
      (w ≤ s.wt.toNat → ∃ t, exec .leaseExpiry s = .next t ∧ t.pkg.lease = none ∧
        ∀ i j q, s.pad? i j = some q → (t.pad? i j).map (·.usage.flags.getLsbD 4) = some true)) ∧
    (s.wt.toNat / 64 ≤ p.thermTick → exec .thermalEvaluation s = .next s) ∧
    (p.thermTick < s.wt.toNat / 64 → ∃ t, exec .thermalEvaluation s = .next t ∧ t.mem = s.mem ∧ t.ctxs = s.ctxs ∧
      (p.tripped = false → t.pkg.tripped = false ∧ t.cores = s.cores) ∧
      ((∃ q ∈ t.pkg.rows.values, q.therm = .trip) → t.pkg.tripped = p.tripped) ∧
      (p.rows.find? row = some r → ∃ y, t.pkg.rows.find? row = some y ∧
        let held : Prop := r.since.toNat + 2000000 ≤ s.wt.toNat
        let lim : Int := p.threshold.toNat
        (r.therm ≠ .trip → 110 ≤ r.temp → y.therm = .trip ∧ y.since = s.wt) ∧
        (r.therm = .normal → r.temp < 110 → lim ≤ r.temp → held → y.therm = .throttled ∧ y.since = s.wt ∧
          (p.mt = false → p.entering = none → r.point ≤ 7 → (s.wt.toNat % 256 = 0 → y.point = 7) ∧
            (s.wt.toNat % 256 ≠ 0 → r.point < 7 → y.point = r.point ∧ y.lower = some 7))) ∧
        (r.therm = .normal → r.temp < 110 → r.temp < lim ∨ ¬ held → y = r) ∧
        (r.therm = .throttled → r.temp < 110 → r.temp < lim - 3 → held → y.therm = .normal ∧ y.since = s.wt) ∧
        (r.therm = .throttled → r.temp < 110 → lim - 3 ≤ r.temp ∨ ¬ held → y = r) ∧
        (r.therm = .trip → held → (∀ q ∈ p.rows.values, q.temp < 100) → y.therm = .throttled ∧ y.since = s.wt) ∧
        (r.therm = .trip → ¬ held ∨ (∃ q ∈ p.rows.values, 100 ≤ q.temp) → y = r)))

/-- R394, R395, R403, R406, R408, R409, R419, R420: what the host reads and writes. A function whose memory space is closed completes a
read with Unsupported Request and ignores writes; a write of a register has the effect of its entry; a read gives its value; a memory
request moves bytes under an ASID that the function's queues may name.
The places of the queue registers are log 36, and byte order, lengths, memory requests and the list of answers log 103. -/
def Obligations.HostEvents : Prop :=
  ∀ (s : State) (die : BitVec 2) (fn : BitVec 5) (q : BitVec 3) (slot : BitVec 4) (j : BitVec 3) (off : BitVec 16) (v addr : Word)
    (asid : BitVec 11) (len : Nat) (bytes : List Byte) (wr : Bool) (u : State) (b : List Byte),
    let d := die.toNat
    let f := fn.toNat
    let z := s.dieAt d
    let answered (t : State) (l : List Byte) : Prop := (t.dieAt d).hostOut = z.hostOut ++ [l] ∧ t.mem = s.mem ∧ t.ctxs = s.ctxs
    (s.fnOpen d f = false → exec (.registerWrite die fn off v) s = .next s ∧
      exec (.memoryRequest die fn true wr asid addr len bytes) s = .next s ∧
      ∃ t, exec (.memoryRequest die fn false wr asid addr len bytes) s = .next t ∧ answered t []) ∧
    (v ≠ 0 → exec (.counterClear die off v) s = .next s) ∧
    (3 ≤ s.pkg.boot → ∃ t, exec (.counterClear die off 0) s = .next t ∧ t.mem = s.mem ∧
      let y := t.dieAt d
      y.misroute = (if off = 0x4808 then 0 else z.misroute) ∧ y.lostCompl = (if off = 0x4810 then 0 else z.lostCompl) ∧
      y.eccCor = (if off = 0x4818 then 0 else z.eccCor) ∧ y.eccUnc = (if off = 0x4820 then 0 else z.eccUnc) ∧
      y.linkFail = (if off = 0x4828 then 0 else z.linkFail)) ∧
    (s.fnOpen d f = true →
      (off.toNat = 32 * q.toNat + 8 → bits v 4 0 = 0 → ∃ t, exec (.registerWrite die fn off v) s = .next t ∧
        t.lq d f q.toNat = { s.lq d f q.toNat with base := v } ∧ ∀ k, k ≠ q.toNat → t.lq d f k = s.lq d f k) ∧
      (off = 0x400 → (bits v 63 13 = 0 → ∃ t, exec (.registerWrite die fn off v) s = .next t ∧
          ((t.dieAt d).funcs.getD f {}).ctrSel = v) ∧
        (bits v 63 13 ≠ 0 → exec (.registerWrite die fn off v) s = .next s)) ∧
      (f ≠ 0 → 0x408 ≤ off.toNat → exec (.registerWrite die fn off v) s = .next s) ∧
      (f = 0 → z.held = true → off ≠ 0x2800 → off ≠ 0x2808 → 0x408 ≤ off.toNat → exec (.registerWrite die fn off v) s = .next s) ∧
      (f = 0 →
        (z.held = false → off.toNat = 0x1000 + 64 * slot.toNat + 8 * j.toNat → (z.tableWords slot.toNat).length = 8 →
          ∃ t, exec (.registerWrite die fn off v) s = .next t ∧ ((t.dieAt d).tableWords slot.toNat).getD j.toNat 0 = v ∧
            (∀ k < 8, k ≠ j.toNat → ((t.dieAt d).tableWords slot.toNat).getD k 0 = (z.tableWords slot.toNat).getD k 0) ∧
            ((z.funcs.getD (slot.toNat + 1) {}).tdisp = .locked →
              ((t.dieAt d).funcs.getD (slot.toNat + 1) {}).tdisp = .error)) ∧
        (z.held = false → off = 0x1400 → (bit z.pdcmd 63 = true → ∃ t, exec (.registerWrite die fn off v) s = .next t ∧ (t.dieAt d).pdcmd = z.pdcmd) ∧
          (bit z.pdcmd 63 = false → (1 ≤ bits v 3 0 ∧ bits v 3 0 ≤ 3) → ∃ t, exec (.registerWrite die fn off v) s = .next t ∧
            (t.dieAt d).pdBusy (bits v 3 0) (bits v 7 4) = true) ∧
          (bit z.pdcmd 63 = false → ¬ (1 ≤ bits v 3 0 ∧ bits v 3 0 ≤ 3) → ∃ t, exec (.registerWrite die fn off v) s = .next t ∧
            bits (t.dieAt d).pdcmd 55 48 = 2 ∧ bit (t.dieAt d).pdcmd 63 = false)) ∧
        (off = 0x2800 → ∃ t, exec (.registerWrite die fn off v) s = .next t ∧ (t.dieAt d).cap0 = v ∧ (t.dieAt d).cap1 = z.cap1) ∧
        (off = 0x2808 → ∃ t, exec (.registerWrite die fn off v) s = .next t ∧ (t.dieAt d).cap1 = v ∧ (t.dieAt d).cap0 = z.cap0) ∧
        (z.held = false → off = 0x4000 → ∃ t, exec (.registerWrite die fn off v) s = .next t ∧
          let old := z.win.getD Csr.asidsel 0
          (t.dieAt d).win.getD Csr.asidsel 0 = if bits v 63 11 = 0 then (old &&& ~~~0x7FF) ||| v else old)) ∧
      (let o := addr.toNat % 2 ^ 16
       let w := word (bytesNat bytes)
       let is (i : Instr) : Prop := exec (.memoryRequest die fn true true asid addr len bytes) s = exec i s
       (bytes.length = 8 → (o = 32 * q.toNat → is (.lqConfigWrite die fn q w)) ∧ (o = 32 * q.toNat + 16 → is (.doorbell die fn q w)) ∧
          (o = 0x800 → is (.studBookIndex die fn w)) ∧ (f = 0 → o = 0x2810 → is (.capMessage die w)) ∧
          (f = 0 → o = 0x2818 → is (.thresholdWrite die w)) ∧
          (f = 0 → 0x4808 ≤ o → o ≤ 0x4828 → is (.counterClear die (addr.setWidth 16) w)) ∧
          (o = 32 * q.toNat + 8 ∨ 0x100 ≤ o ∧ o ≠ 0x800 ∧ (f = 0 → o ≠ 0x2810 ∧ o ≠ 0x2818 ∧ ¬ (0x4808 ≤ o ∧ o ≤ 0x4828)) →
            is (.registerWrite die fn (addr.setWidth 16) w))) ∧
        (bytes.length = 48 → f = 0 → o = 0x2000 →
          let ws := (List.range 6).map fun i => word (bytesNat ((bytes.drop (8 * i)).take 8))
          is (if bit (ws.getD 5 0) 0 then .release die ws else .preemptionRequest die ws))) ∧
      (addr.toNat % 8 ≠ 0 → ∃ t, exec (.memoryRequest die fn false true asid addr len bytes) s = .next t ∧ answered t []) ∧
      (let reads (a : Nat) (x : Word) : Prop := addr.toNat = a →
        ∃ t, exec (.memoryRequest die fn false true asid addr len bytes) s = .next t ∧ answered t (natBytes 8 x.toNat)
       reads (32 * q.toNat) (s.lq d f q.toNat).cfg ∧ reads (32 * q.toNat + 24) ((s.lq d f q.toNat).head.setWidth 64) ∧
        reads 0x800 (z.funcs.getD f {}).studIdx ∧ reads 0xC08 s.pkg.gcnt ∧ reads 0xC10 s.pkg.gwt ∧ reads 0xC18 s.pkg.cseq ∧
        (∀ w, bit w 63 = s.pkg.mt → bit w 62 = s.pkg.lease.isSome → bits w 61 60 = s.pkg.step → bits w 59 42 = 0 →
          bits w 41 32 = s.pkg.allow → bits w 31 16 = 0 → bits w 15 0 = s.pkg.budget → reads 0xC00 w) ∧
        (f = 0 → reads (0x1000 + 64 * slot.toNat + 8 * j.toNat) ((z.tableWords slot.toNat).getD j.toNat 0 &&& ~~~padReserved j.toNat) ∧
          reads 0x4808 z.misroute ∧ reads 0x4810 z.lostCompl ∧ reads 0x4818 z.eccCor ∧ reads 0x4820 z.eccUnc ∧
          reads 0x4828 z.linkFail ∧ reads 0x2818 (s.pkg.threshold.setWidth 64) ∧ reads 0x4000 (z.win.getD Csr.asidsel 0))) ∧
      (z.queueAsidOk f asid.toNat = false ∨ z.held = true → exec (.memoryRequest die fn true false asid addr len bytes) s = .next s ∧
        ∃ t, exec (.memoryRequest die fn false false asid addr len bytes) s = .next t ∧ answered t []) ∧
      (z.queueAsidOk f asid.toNat = true → z.held = false →
        let pad := (z.fnPad f).getD 0
        let l : LaunchInfo :=
          { asid := asid, pad := BitVec.ofNat 4 pad, pf := f == 0, ten := BitVec.ofNat 8 (((s.pad? d pad).map (·.ten)).getD 0) }
        (s.mangerRead d l addr len = (some b, u) → ∃ t, exec (.memoryRequest die fn false false asid addr len bytes) s = .next t ∧
          (t.dieAt d).hostOut = (u.dieAt d).hostOut ++ [b] ∧ t.mem = u.mem) ∧
        ((s.mangerWrite d l addr bytes) = (true, u) →
          exec (.memoryRequest die fn true false asid addr len bytes) s = .next u)))
end

