-- ==== Sys2Proof/Laws/Sparse.lean ====
section
/-!
SUPPORT. Sys2Proof/Laws/Sparse.lean: what sparse maps and number lists read after each of their operations.
-/

namespace Sys2Proof.Machine

namespace SMap

variable {α β : Type}

@[simp] theorem find?_nil (k : Nat) : SMap.find? ([] : SMap α) k = none := rfl

theorem find?_erase (m : SMap α) (k j : Nat) : (m.erase k).find? j = if j = k then none else m.find? j := by
  induction m with
  | nil => simp [SMap.erase]
  | cons p m ih =>
    obtain ⟨i, v⟩ := p
    simp only [SMap.erase]
    split <;> rename_i h
    · subst h
      rw [ih]
      by_cases hj : j = i <;> simp [SMap.find?, hj]
      intro hij; exact absurd hij.symm hj
    · by_cases hj : j = k
      · subst hj; simp [SMap.find?, ih, h]
      · simp [SMap.find?, ih, hj]

theorem find?_place (m : SMap α) (k j : Nat) (x : α) (h : m.find? k = none) :
    (m.place k x).find? j = if j = k then some x else m.find? j := by
  induction m with
  | nil => by_cases hj : j = k <;> simp [SMap.place, SMap.find?, hj]; intro hk; exact absurd hk.symm hj
  | cons p m ih =>
    obtain ⟨i, v⟩ := p
    have hi : i ≠ k := by intro hc; simp [SMap.find?, hc] at h
    have hm : SMap.find? m k = none := by simpa [SMap.find?, hi] using h
    simp only [SMap.place]
    split
    · by_cases hj : j = k
      · subst hj; simp [SMap.find?]
      · simp [SMap.find?, hj, Ne.symm hj]
    · by_cases hj : j = k
      · subst hj; simp [SMap.find?, hi, ih hm]
      · simp [SMap.find?, ih hm, hj]

theorem find?_set (m : SMap α) (k j : Nat) (x : α) : (m.set k x).find? j = if j = k then some x else m.find? j := by
  rw [SMap.set, find?_place _ _ _ _ (by simp [find?_erase]), find?_erase]
  by_cases h : j = k <;> simp [h]

@[simp] theorem find?_set_self (m : SMap α) (k : Nat) (x : α) : (m.set k x).find? k = some x := by simp [find?_set]

theorem find?_set_ne (m : SMap α) {k j : Nat} (x : α) (h : j ≠ k) : (m.set k x).find? j = m.find? j := by simp [find?_set, h]

theorem getD_set (m : SMap α) (k j : Nat) (x d : α) : (m.set k x).getD j d = if j = k then x else m.getD j d := by
  by_cases h : j = k <;> simp [SMap.getD, find?_set, h]

@[simp] theorem getD_set_self (m : SMap α) (k : Nat) (x d : α) : (m.set k x).getD k d = x := by simp [getD_set]

theorem getD_set_ne (m : SMap α) {k j : Nat} (x d : α) (h : j ≠ k) : (m.set k x).getD j d = m.getD j d := by simp [getD_set, h]

theorem getD_erase (m : SMap α) (k j : Nat) (d : α) : (m.erase k).getD j d = if j = k then d else m.getD j d := by
  by_cases h : j = k <;> simp [SMap.getD, find?_erase, h]

theorem getD_modify (m : SMap α) (k j : Nat) (d : α) (f : α → α) :
    (m.modify k d f).getD j d = if j = k then f (m.getD k d) else m.getD j d := by
  simp [SMap.modify, getD_set]

theorem find?_mapValues (m : SMap α) (f : Nat → α → β) (k : Nat) : (m.mapValues f).find? k = (m.find? k).map (f k) := by
  induction m with
  | nil => rfl
  | cons p m ih =>
    obtain ⟨i, v⟩ := p
    simp only [SMap.mapValues] at ih
    by_cases h : i = k
    · subst h; simp [SMap.mapValues, SMap.find?]
    · simp [SMap.mapValues, SMap.find?, h, ih]

theorem find?_filter_keys (m : SMap α) (p : Nat → Bool) (k : Nat) :
    SMap.find? (m.filter fun x => p x.1) k = if p k then m.find? k else none := by
  induction m with
  | nil => simp
  | cons q m ih =>
    obtain ⟨i, v⟩ := q
    by_cases h : i = k
    · subst h
      by_cases hp : p i <;> simp [hp, SMap.find?, ih]
    · by_cases hp : p i <;> simp [hp, SMap.find?, ih, h]

end SMap

theorem mem_insertNat (l : List Nat) (k j : Nat) : j ∈ insertNat l k ↔ j = k ∨ j ∈ l := by
  induction l with
  | nil => simp [insertNat]
  | cons i l ih =>
    simp only [insertNat]
    split
    · simp
    · split <;> rename_i h
      · subst h; simp
      · simp [ih, or_left_comm]

theorem mem_removeNat (l : List Nat) (k j : Nat) : j ∈ removeNat l k ↔ j ∈ l ∧ j ≠ k := by simp [removeNat]

end Sys2Proof.Machine
end

