-- ==== Sys2Proof/Laws/State.lean ====
section
/-!
SUPPORT. Sys2Proof/Laws/State.lean: what each update of the state leaves as it was, field by field, and what the accessors of units
and registers read after an update.
-/

namespace Sys2Proof.Machine

/-! ## Every field after every setter -/

@[simp] theorem setCtxOf_wt (s : State) (k : Nat) (x : Ctx) : (s.setCtxOf k x).wt = s.wt := rfl
@[simp] theorem setCtxOf_agenda (s : State) (k : Nat) (x : Ctx) : (s.setCtxOf k x).agenda = s.agenda := rfl
@[simp] theorem setCtxOf_cur (s : State) (k : Nat) (x : Ctx) : (s.setCtxOf k x).cur = s.cur := rfl
@[simp] theorem setCtxOf_fresh (s : State) (k : Nat) (x : Ctx) : (s.setCtxOf k x).fresh = s.fresh := rfl
@[simp] theorem setCtxOf_cores (s : State) (k : Nat) (x : Ctx) : (s.setCtxOf k x).cores = s.cores := rfl
@[simp] theorem setCtxOf_strs (s : State) (k : Nat) (x : Ctx) : (s.setCtxOf k x).strs = s.strs := rfl
@[simp] theorem setCtxOf_pgs (s : State) (k : Nat) (x : Ctx) : (s.setCtxOf k x).pgs = s.pgs := rfl
@[simp] theorem setCtxOf_vaults (s : State) (k : Nat) (x : Ctx) : (s.setCtxOf k x).vaults = s.vaults := rfl
@[simp] theorem setCtxOf_dies (s : State) (k : Nat) (x : Ctx) : (s.setCtxOf k x).dies = s.dies := rfl
@[simp] theorem setCtxOf_yards (s : State) (k : Nat) (x : Ctx) : (s.setCtxOf k x).yards = s.yards := rfl
@[simp] theorem setCtxOf_slots (s : State) (k : Nat) (x : Ctx) : (s.setCtxOf k x).slots = s.slots := rfl
@[simp] theorem setCtxOf_links (s : State) (k : Nat) (x : Ctx) : (s.setCtxOf k x).links = s.links := rfl
@[simp] theorem setCtxOf_flits (s : State) (k : Nat) (x : Ctx) : (s.setCtxOf k x).flits = s.flits := rfl
@[simp] theorem setCtxOf_pkg (s : State) (k : Nat) (x : Ctx) : (s.setCtxOf k x).pkg = s.pkg := rfl
@[simp] theorem setCtxOf_mem (s : State) (k : Nat) (x : Ctx) : (s.setCtxOf k x).mem = s.mem := rfl
@[simp] theorem setCtxOf_memKey (s : State) (k : Nat) (x : Ctx) : (s.setCtxOf k x).memKey = s.memKey := rfl
@[simp] theorem setCtxOf_full (s : State) (k : Nat) (x : Ctx) : (s.setCtxOf k x).full = s.full := rfl
@[simp] theorem setCtxOf_older (s : State) (k : Nat) (x : Ctx) : (s.setCtxOf k x).older = s.older := rfl
@[simp] theorem setCtxOf_bad (s : State) (k : Nat) (x : Ctx) : (s.setCtxOf k x).bad = s.bad := rfl
@[simp] theorem setCtxOf_soft (s : State) (k : Nat) (x : Ctx) : (s.setCtxOf k x).soft = s.soft := rfl
@[simp] theorem setCtxOf_images (s : State) (k : Nat) (x : Ctx) : (s.setCtxOf k x).images = s.images := rfl

@[simp] theorem setCoreOf_wt (s : State) (k : Nat) (x : Core) : (s.setCoreOf k x).wt = s.wt := rfl
@[simp] theorem setCoreOf_agenda (s : State) (k : Nat) (x : Core) : (s.setCoreOf k x).agenda = s.agenda := rfl
@[simp] theorem setCoreOf_cur (s : State) (k : Nat) (x : Core) : (s.setCoreOf k x).cur = s.cur := rfl
@[simp] theorem setCoreOf_fresh (s : State) (k : Nat) (x : Core) : (s.setCoreOf k x).fresh = s.fresh := rfl
@[simp] theorem setCoreOf_ctxs (s : State) (k : Nat) (x : Core) : (s.setCoreOf k x).ctxs = s.ctxs := rfl
@[simp] theorem setCoreOf_strs (s : State) (k : Nat) (x : Core) : (s.setCoreOf k x).strs = s.strs := rfl
@[simp] theorem setCoreOf_pgs (s : State) (k : Nat) (x : Core) : (s.setCoreOf k x).pgs = s.pgs := rfl
@[simp] theorem setCoreOf_vaults (s : State) (k : Nat) (x : Core) : (s.setCoreOf k x).vaults = s.vaults := rfl
@[simp] theorem setCoreOf_dies (s : State) (k : Nat) (x : Core) : (s.setCoreOf k x).dies = s.dies := rfl
@[simp] theorem setCoreOf_yards (s : State) (k : Nat) (x : Core) : (s.setCoreOf k x).yards = s.yards := rfl
@[simp] theorem setCoreOf_slots (s : State) (k : Nat) (x : Core) : (s.setCoreOf k x).slots = s.slots := rfl
@[simp] theorem setCoreOf_links (s : State) (k : Nat) (x : Core) : (s.setCoreOf k x).links = s.links := rfl
@[simp] theorem setCoreOf_flits (s : State) (k : Nat) (x : Core) : (s.setCoreOf k x).flits = s.flits := rfl
@[simp] theorem setCoreOf_pkg (s : State) (k : Nat) (x : Core) : (s.setCoreOf k x).pkg = s.pkg := rfl
@[simp] theorem setCoreOf_mem (s : State) (k : Nat) (x : Core) : (s.setCoreOf k x).mem = s.mem := rfl
@[simp] theorem setCoreOf_memKey (s : State) (k : Nat) (x : Core) : (s.setCoreOf k x).memKey = s.memKey := rfl
@[simp] theorem setCoreOf_full (s : State) (k : Nat) (x : Core) : (s.setCoreOf k x).full = s.full := rfl
@[simp] theorem setCoreOf_older (s : State) (k : Nat) (x : Core) : (s.setCoreOf k x).older = s.older := rfl
@[simp] theorem setCoreOf_bad (s : State) (k : Nat) (x : Core) : (s.setCoreOf k x).bad = s.bad := rfl
@[simp] theorem setCoreOf_soft (s : State) (k : Nat) (x : Core) : (s.setCoreOf k x).soft = s.soft := rfl
@[simp] theorem setCoreOf_images (s : State) (k : Nat) (x : Core) : (s.setCoreOf k x).images = s.images := rfl

@[simp] theorem setStr_wt (s : State) (d k : Nat) (x : Str) : (s.setStr d k x).wt = s.wt := rfl
@[simp] theorem setStr_agenda (s : State) (d k : Nat) (x : Str) : (s.setStr d k x).agenda = s.agenda := rfl
@[simp] theorem setStr_cur (s : State) (d k : Nat) (x : Str) : (s.setStr d k x).cur = s.cur := rfl
@[simp] theorem setStr_fresh (s : State) (d k : Nat) (x : Str) : (s.setStr d k x).fresh = s.fresh := rfl
@[simp] theorem setStr_ctxs (s : State) (d k : Nat) (x : Str) : (s.setStr d k x).ctxs = s.ctxs := rfl
@[simp] theorem setStr_cores (s : State) (d k : Nat) (x : Str) : (s.setStr d k x).cores = s.cores := rfl
@[simp] theorem setStr_pgs (s : State) (d k : Nat) (x : Str) : (s.setStr d k x).pgs = s.pgs := rfl
@[simp] theorem setStr_vaults (s : State) (d k : Nat) (x : Str) : (s.setStr d k x).vaults = s.vaults := rfl
@[simp] theorem setStr_dies (s : State) (d k : Nat) (x : Str) : (s.setStr d k x).dies = s.dies := rfl
@[simp] theorem setStr_yards (s : State) (d k : Nat) (x : Str) : (s.setStr d k x).yards = s.yards := rfl
@[simp] theorem setStr_slots (s : State) (d k : Nat) (x : Str) : (s.setStr d k x).slots = s.slots := rfl
@[simp] theorem setStr_links (s : State) (d k : Nat) (x : Str) : (s.setStr d k x).links = s.links := rfl
@[simp] theorem setStr_flits (s : State) (d k : Nat) (x : Str) : (s.setStr d k x).flits = s.flits := rfl
@[simp] theorem setStr_pkg (s : State) (d k : Nat) (x : Str) : (s.setStr d k x).pkg = s.pkg := rfl
@[simp] theorem setStr_mem (s : State) (d k : Nat) (x : Str) : (s.setStr d k x).mem = s.mem := rfl
@[simp] theorem setStr_memKey (s : State) (d k : Nat) (x : Str) : (s.setStr d k x).memKey = s.memKey := rfl
@[simp] theorem setStr_full (s : State) (d k : Nat) (x : Str) : (s.setStr d k x).full = s.full := rfl
@[simp] theorem setStr_older (s : State) (d k : Nat) (x : Str) : (s.setStr d k x).older = s.older := rfl
@[simp] theorem setStr_bad (s : State) (d k : Nat) (x : Str) : (s.setStr d k x).bad = s.bad := rfl
@[simp] theorem setStr_soft (s : State) (d k : Nat) (x : Str) : (s.setStr d k x).soft = s.soft := rfl
@[simp] theorem setStr_images (s : State) (d k : Nat) (x : Str) : (s.setStr d k x).images = s.images := rfl

@[simp] theorem setPg_wt (s : State) (d k : Nat) (x : PortGroup) : (s.setPg d k x).wt = s.wt := rfl
@[simp] theorem setPg_agenda (s : State) (d k : Nat) (x : PortGroup) : (s.setPg d k x).agenda = s.agenda := rfl
@[simp] theorem setPg_cur (s : State) (d k : Nat) (x : PortGroup) : (s.setPg d k x).cur = s.cur := rfl
@[simp] theorem setPg_fresh (s : State) (d k : Nat) (x : PortGroup) : (s.setPg d k x).fresh = s.fresh := rfl
@[simp] theorem setPg_ctxs (s : State) (d k : Nat) (x : PortGroup) : (s.setPg d k x).ctxs = s.ctxs := rfl
@[simp] theorem setPg_cores (s : State) (d k : Nat) (x : PortGroup) : (s.setPg d k x).cores = s.cores := rfl
@[simp] theorem setPg_strs (s : State) (d k : Nat) (x : PortGroup) : (s.setPg d k x).strs = s.strs := rfl
@[simp] theorem setPg_vaults (s : State) (d k : Nat) (x : PortGroup) : (s.setPg d k x).vaults = s.vaults := rfl
@[simp] theorem setPg_dies (s : State) (d k : Nat) (x : PortGroup) : (s.setPg d k x).dies = s.dies := rfl
@[simp] theorem setPg_yards (s : State) (d k : Nat) (x : PortGroup) : (s.setPg d k x).yards = s.yards := rfl
@[simp] theorem setPg_slots (s : State) (d k : Nat) (x : PortGroup) : (s.setPg d k x).slots = s.slots := rfl
@[simp] theorem setPg_links (s : State) (d k : Nat) (x : PortGroup) : (s.setPg d k x).links = s.links := rfl
@[simp] theorem setPg_flits (s : State) (d k : Nat) (x : PortGroup) : (s.setPg d k x).flits = s.flits := rfl
@[simp] theorem setPg_pkg (s : State) (d k : Nat) (x : PortGroup) : (s.setPg d k x).pkg = s.pkg := rfl
@[simp] theorem setPg_mem (s : State) (d k : Nat) (x : PortGroup) : (s.setPg d k x).mem = s.mem := rfl
@[simp] theorem setPg_memKey (s : State) (d k : Nat) (x : PortGroup) : (s.setPg d k x).memKey = s.memKey := rfl
@[simp] theorem setPg_full (s : State) (d k : Nat) (x : PortGroup) : (s.setPg d k x).full = s.full := rfl
@[simp] theorem setPg_older (s : State) (d k : Nat) (x : PortGroup) : (s.setPg d k x).older = s.older := rfl
@[simp] theorem setPg_bad (s : State) (d k : Nat) (x : PortGroup) : (s.setPg d k x).bad = s.bad := rfl
@[simp] theorem setPg_soft (s : State) (d k : Nat) (x : PortGroup) : (s.setPg d k x).soft = s.soft := rfl
@[simp] theorem setPg_images (s : State) (d k : Nat) (x : PortGroup) : (s.setPg d k x).images = s.images := rfl

@[simp] theorem setVault_wt (s : State) (d k : Nat) (x : Vault) : (s.setVault d k x).wt = s.wt := rfl
@[simp] theorem setVault_agenda (s : State) (d k : Nat) (x : Vault) : (s.setVault d k x).agenda = s.agenda := rfl
@[simp] theorem setVault_cur (s : State) (d k : Nat) (x : Vault) : (s.setVault d k x).cur = s.cur := rfl
@[simp] theorem setVault_fresh (s : State) (d k : Nat) (x : Vault) : (s.setVault d k x).fresh = s.fresh := rfl
@[simp] theorem setVault_ctxs (s : State) (d k : Nat) (x : Vault) : (s.setVault d k x).ctxs = s.ctxs := rfl
@[simp] theorem setVault_cores (s : State) (d k : Nat) (x : Vault) : (s.setVault d k x).cores = s.cores := rfl
@[simp] theorem setVault_strs (s : State) (d k : Nat) (x : Vault) : (s.setVault d k x).strs = s.strs := rfl
@[simp] theorem setVault_pgs (s : State) (d k : Nat) (x : Vault) : (s.setVault d k x).pgs = s.pgs := rfl
@[simp] theorem setVault_dies (s : State) (d k : Nat) (x : Vault) : (s.setVault d k x).dies = s.dies := rfl
@[simp] theorem setVault_yards (s : State) (d k : Nat) (x : Vault) : (s.setVault d k x).yards = s.yards := rfl
@[simp] theorem setVault_slots (s : State) (d k : Nat) (x : Vault) : (s.setVault d k x).slots = s.slots := rfl
@[simp] theorem setVault_links (s : State) (d k : Nat) (x : Vault) : (s.setVault d k x).links = s.links := rfl
@[simp] theorem setVault_flits (s : State) (d k : Nat) (x : Vault) : (s.setVault d k x).flits = s.flits := rfl
@[simp] theorem setVault_pkg (s : State) (d k : Nat) (x : Vault) : (s.setVault d k x).pkg = s.pkg := rfl
@[simp] theorem setVault_mem (s : State) (d k : Nat) (x : Vault) : (s.setVault d k x).mem = s.mem := rfl
@[simp] theorem setVault_memKey (s : State) (d k : Nat) (x : Vault) : (s.setVault d k x).memKey = s.memKey := rfl
@[simp] theorem setVault_full (s : State) (d k : Nat) (x : Vault) : (s.setVault d k x).full = s.full := rfl
@[simp] theorem setVault_older (s : State) (d k : Nat) (x : Vault) : (s.setVault d k x).older = s.older := rfl
@[simp] theorem setVault_bad (s : State) (d k : Nat) (x : Vault) : (s.setVault d k x).bad = s.bad := rfl
@[simp] theorem setVault_soft (s : State) (d k : Nat) (x : Vault) : (s.setVault d k x).soft = s.soft := rfl
@[simp] theorem setVault_images (s : State) (d k : Nat) (x : Vault) : (s.setVault d k x).images = s.images := rfl

@[simp] theorem setDie_wt (s : State) (d : Nat) (x : Die) : (s.setDie d x).wt = s.wt := rfl
@[simp] theorem setDie_agenda (s : State) (d : Nat) (x : Die) : (s.setDie d x).agenda = s.agenda := rfl
@[simp] theorem setDie_cur (s : State) (d : Nat) (x : Die) : (s.setDie d x).cur = s.cur := rfl
@[simp] theorem setDie_fresh (s : State) (d : Nat) (x : Die) : (s.setDie d x).fresh = s.fresh := rfl
@[simp] theorem setDie_ctxs (s : State) (d : Nat) (x : Die) : (s.setDie d x).ctxs = s.ctxs := rfl
@[simp] theorem setDie_cores (s : State) (d : Nat) (x : Die) : (s.setDie d x).cores = s.cores := rfl
@[simp] theorem setDie_strs (s : State) (d : Nat) (x : Die) : (s.setDie d x).strs = s.strs := rfl
@[simp] theorem setDie_pgs (s : State) (d : Nat) (x : Die) : (s.setDie d x).pgs = s.pgs := rfl
@[simp] theorem setDie_vaults (s : State) (d : Nat) (x : Die) : (s.setDie d x).vaults = s.vaults := rfl
@[simp] theorem setDie_yards (s : State) (d : Nat) (x : Die) : (s.setDie d x).yards = s.yards := rfl
@[simp] theorem setDie_slots (s : State) (d : Nat) (x : Die) : (s.setDie d x).slots = s.slots := rfl
@[simp] theorem setDie_links (s : State) (d : Nat) (x : Die) : (s.setDie d x).links = s.links := rfl
@[simp] theorem setDie_flits (s : State) (d : Nat) (x : Die) : (s.setDie d x).flits = s.flits := rfl
@[simp] theorem setDie_pkg (s : State) (d : Nat) (x : Die) : (s.setDie d x).pkg = s.pkg := rfl
@[simp] theorem setDie_mem (s : State) (d : Nat) (x : Die) : (s.setDie d x).mem = s.mem := rfl
@[simp] theorem setDie_memKey (s : State) (d : Nat) (x : Die) : (s.setDie d x).memKey = s.memKey := rfl
@[simp] theorem setDie_full (s : State) (d : Nat) (x : Die) : (s.setDie d x).full = s.full := rfl
@[simp] theorem setDie_older (s : State) (d : Nat) (x : Die) : (s.setDie d x).older = s.older := rfl
@[simp] theorem setDie_bad (s : State) (d : Nat) (x : Die) : (s.setDie d x).bad = s.bad := rfl
@[simp] theorem setDie_soft (s : State) (d : Nat) (x : Die) : (s.setDie d x).soft = s.soft := rfl
@[simp] theorem setDie_images (s : State) (d : Nat) (x : Die) : (s.setDie d x).images = s.images := rfl

@[simp] theorem setYard_wt (s : State) (y : Nat) (x : Yard) : (s.setYard y x).wt = s.wt := rfl
@[simp] theorem setYard_agenda (s : State) (y : Nat) (x : Yard) : (s.setYard y x).agenda = s.agenda := rfl
@[simp] theorem setYard_cur (s : State) (y : Nat) (x : Yard) : (s.setYard y x).cur = s.cur := rfl
@[simp] theorem setYard_fresh (s : State) (y : Nat) (x : Yard) : (s.setYard y x).fresh = s.fresh := rfl
@[simp] theorem setYard_ctxs (s : State) (y : Nat) (x : Yard) : (s.setYard y x).ctxs = s.ctxs := rfl
@[simp] theorem setYard_cores (s : State) (y : Nat) (x : Yard) : (s.setYard y x).cores = s.cores := rfl
@[simp] theorem setYard_strs (s : State) (y : Nat) (x : Yard) : (s.setYard y x).strs = s.strs := rfl
@[simp] theorem setYard_pgs (s : State) (y : Nat) (x : Yard) : (s.setYard y x).pgs = s.pgs := rfl
@[simp] theorem setYard_vaults (s : State) (y : Nat) (x : Yard) : (s.setYard y x).vaults = s.vaults := rfl
@[simp] theorem setYard_dies (s : State) (y : Nat) (x : Yard) : (s.setYard y x).dies = s.dies := rfl
@[simp] theorem setYard_slots (s : State) (y : Nat) (x : Yard) : (s.setYard y x).slots = s.slots := rfl
@[simp] theorem setYard_links (s : State) (y : Nat) (x : Yard) : (s.setYard y x).links = s.links := rfl
@[simp] theorem setYard_flits (s : State) (y : Nat) (x : Yard) : (s.setYard y x).flits = s.flits := rfl
@[simp] theorem setYard_pkg (s : State) (y : Nat) (x : Yard) : (s.setYard y x).pkg = s.pkg := rfl
@[simp] theorem setYard_mem (s : State) (y : Nat) (x : Yard) : (s.setYard y x).mem = s.mem := rfl
@[simp] theorem setYard_memKey (s : State) (y : Nat) (x : Yard) : (s.setYard y x).memKey = s.memKey := rfl
@[simp] theorem setYard_full (s : State) (y : Nat) (x : Yard) : (s.setYard y x).full = s.full := rfl
@[simp] theorem setYard_older (s : State) (y : Nat) (x : Yard) : (s.setYard y x).older = s.older := rfl
@[simp] theorem setYard_bad (s : State) (y : Nat) (x : Yard) : (s.setYard y x).bad = s.bad := rfl
@[simp] theorem setYard_soft (s : State) (y : Nat) (x : Yard) : (s.setYard y x).soft = s.soft := rfl
@[simp] theorem setYard_images (s : State) (y : Nat) (x : Yard) : (s.setYard y x).images = s.images := rfl

@[simp] theorem putBytes_wt (s : State) (a : Nat) (l : List Byte) : (s.putBytes a l).wt = s.wt := rfl
@[simp] theorem putBytes_agenda (s : State) (a : Nat) (l : List Byte) : (s.putBytes a l).agenda = s.agenda := rfl
@[simp] theorem putBytes_cur (s : State) (a : Nat) (l : List Byte) : (s.putBytes a l).cur = s.cur := rfl
@[simp] theorem putBytes_fresh (s : State) (a : Nat) (l : List Byte) : (s.putBytes a l).fresh = s.fresh := rfl
@[simp] theorem putBytes_ctxs (s : State) (a : Nat) (l : List Byte) : (s.putBytes a l).ctxs = s.ctxs := rfl
@[simp] theorem putBytes_cores (s : State) (a : Nat) (l : List Byte) : (s.putBytes a l).cores = s.cores := rfl
@[simp] theorem putBytes_strs (s : State) (a : Nat) (l : List Byte) : (s.putBytes a l).strs = s.strs := rfl
@[simp] theorem putBytes_pgs (s : State) (a : Nat) (l : List Byte) : (s.putBytes a l).pgs = s.pgs := rfl
@[simp] theorem putBytes_vaults (s : State) (a : Nat) (l : List Byte) : (s.putBytes a l).vaults = s.vaults := rfl
@[simp] theorem putBytes_dies (s : State) (a : Nat) (l : List Byte) : (s.putBytes a l).dies = s.dies := rfl
@[simp] theorem putBytes_yards (s : State) (a : Nat) (l : List Byte) : (s.putBytes a l).yards = s.yards := rfl
@[simp] theorem putBytes_slots (s : State) (a : Nat) (l : List Byte) : (s.putBytes a l).slots = s.slots := rfl
@[simp] theorem putBytes_links (s : State) (a : Nat) (l : List Byte) : (s.putBytes a l).links = s.links := rfl
@[simp] theorem putBytes_flits (s : State) (a : Nat) (l : List Byte) : (s.putBytes a l).flits = s.flits := rfl
@[simp] theorem putBytes_pkg (s : State) (a : Nat) (l : List Byte) : (s.putBytes a l).pkg = s.pkg := rfl
@[simp] theorem putBytes_memKey (s : State) (a : Nat) (l : List Byte) : (s.putBytes a l).memKey = s.memKey := rfl
@[simp] theorem putBytes_full (s : State) (a : Nat) (l : List Byte) : (s.putBytes a l).full = s.full := rfl
@[simp] theorem putBytes_older (s : State) (a : Nat) (l : List Byte) : (s.putBytes a l).older = s.older := rfl
@[simp] theorem putBytes_bad (s : State) (a : Nat) (l : List Byte) : (s.putBytes a l).bad = s.bad := rfl
@[simp] theorem putBytes_soft (s : State) (a : Nat) (l : List Byte) : (s.putBytes a l).soft = s.soft := rfl
@[simp] theorem putBytes_images (s : State) (a : Nat) (l : List Byte) : (s.putBytes a l).images = s.images := rfl

@[simp] theorem as_wt (s : State) (a : Agent) : (s.as a).wt = s.wt := rfl
@[simp] theorem as_agenda (s : State) (a : Agent) : (s.as a).agenda = s.agenda := rfl
@[simp] theorem as_fresh (s : State) (a : Agent) : (s.as a).fresh = s.fresh := rfl
@[simp] theorem as_ctxs (s : State) (a : Agent) : (s.as a).ctxs = s.ctxs := rfl
@[simp] theorem as_cores (s : State) (a : Agent) : (s.as a).cores = s.cores := rfl
@[simp] theorem as_strs (s : State) (a : Agent) : (s.as a).strs = s.strs := rfl
@[simp] theorem as_pgs (s : State) (a : Agent) : (s.as a).pgs = s.pgs := rfl
@[simp] theorem as_vaults (s : State) (a : Agent) : (s.as a).vaults = s.vaults := rfl
@[simp] theorem as_dies (s : State) (a : Agent) : (s.as a).dies = s.dies := rfl
@[simp] theorem as_yards (s : State) (a : Agent) : (s.as a).yards = s.yards := rfl
@[simp] theorem as_slots (s : State) (a : Agent) : (s.as a).slots = s.slots := rfl
@[simp] theorem as_links (s : State) (a : Agent) : (s.as a).links = s.links := rfl
@[simp] theorem as_flits (s : State) (a : Agent) : (s.as a).flits = s.flits := rfl
@[simp] theorem as_pkg (s : State) (a : Agent) : (s.as a).pkg = s.pkg := rfl
@[simp] theorem as_mem (s : State) (a : Agent) : (s.as a).mem = s.mem := rfl
@[simp] theorem as_memKey (s : State) (a : Agent) : (s.as a).memKey = s.memKey := rfl
@[simp] theorem as_full (s : State) (a : Agent) : (s.as a).full = s.full := rfl
@[simp] theorem as_older (s : State) (a : Agent) : (s.as a).older = s.older := rfl
@[simp] theorem as_bad (s : State) (a : Agent) : (s.as a).bad = s.bad := rfl
@[simp] theorem as_soft (s : State) (a : Agent) : (s.as a).soft = s.soft := rfl
@[simp] theorem as_images (s : State) (a : Agent) : (s.as a).images = s.images := rfl

@[simp] theorem setTag_wt (s : State) (w : Nat) (f : Bool) : (s.setTag w f).wt = s.wt := by cases f <;> rfl
@[simp] theorem setTag_agenda (s : State) (w : Nat) (f : Bool) : (s.setTag w f).agenda = s.agenda := by cases f <;> rfl
@[simp] theorem setTag_cur (s : State) (w : Nat) (f : Bool) : (s.setTag w f).cur = s.cur := by cases f <;> rfl
@[simp] theorem setTag_fresh (s : State) (w : Nat) (f : Bool) : (s.setTag w f).fresh = s.fresh := by cases f <;> rfl
@[simp] theorem setTag_ctxs (s : State) (w : Nat) (f : Bool) : (s.setTag w f).ctxs = s.ctxs := by cases f <;> rfl
@[simp] theorem setTag_cores (s : State) (w : Nat) (f : Bool) : (s.setTag w f).cores = s.cores := by cases f <;> rfl
@[simp] theorem setTag_strs (s : State) (w : Nat) (f : Bool) : (s.setTag w f).strs = s.strs := by cases f <;> rfl
@[simp] theorem setTag_pgs (s : State) (w : Nat) (f : Bool) : (s.setTag w f).pgs = s.pgs := by cases f <;> rfl
@[simp] theorem setTag_vaults (s : State) (w : Nat) (f : Bool) : (s.setTag w f).vaults = s.vaults := by cases f <;> rfl
@[simp] theorem setTag_dies (s : State) (w : Nat) (f : Bool) : (s.setTag w f).dies = s.dies := by cases f <;> rfl
@[simp] theorem setTag_yards (s : State) (w : Nat) (f : Bool) : (s.setTag w f).yards = s.yards := by cases f <;> rfl
@[simp] theorem setTag_slots (s : State) (w : Nat) (f : Bool) : (s.setTag w f).slots = s.slots := by cases f <;> rfl
@[simp] theorem setTag_links (s : State) (w : Nat) (f : Bool) : (s.setTag w f).links = s.links := by cases f <;> rfl
@[simp] theorem setTag_flits (s : State) (w : Nat) (f : Bool) : (s.setTag w f).flits = s.flits := by cases f <;> rfl
@[simp] theorem setTag_pkg (s : State) (w : Nat) (f : Bool) : (s.setTag w f).pkg = s.pkg := by cases f <;> rfl
@[simp] theorem setTag_mem (s : State) (w : Nat) (f : Bool) : (s.setTag w f).mem = s.mem := by cases f <;> rfl
@[simp] theorem setTag_memKey (s : State) (w : Nat) (f : Bool) : (s.setTag w f).memKey = s.memKey := by cases f <;> rfl
@[simp] theorem setTag_older (s : State) (w : Nat) : (s.setTag w true).older = s.older := rfl
@[simp] theorem setTag_bad (s : State) (w : Nat) (f : Bool) : (s.setTag w f).bad = s.bad := by cases f <;> rfl
@[simp] theorem setTag_soft (s : State) (w : Nat) (f : Bool) : (s.setTag w f).soft = s.soft := by cases f <;> rfl
@[simp] theorem setTag_images (s : State) (w : Nat) (f : Bool) : (s.setTag w f).images = s.images := by cases f <;> rfl

@[simp] theorem modPkg_wt (s : State) (f : Pkg → Pkg) : (s.modPkg f).wt = s.wt := rfl
@[simp] theorem modPkg_agenda (s : State) (f : Pkg → Pkg) : (s.modPkg f).agenda = s.agenda := rfl
@[simp] theorem modPkg_cur (s : State) (f : Pkg → Pkg) : (s.modPkg f).cur = s.cur := rfl
@[simp] theorem modPkg_fresh (s : State) (f : Pkg → Pkg) : (s.modPkg f).fresh = s.fresh := rfl
@[simp] theorem modPkg_ctxs (s : State) (f : Pkg → Pkg) : (s.modPkg f).ctxs = s.ctxs := rfl
@[simp] theorem modPkg_cores (s : State) (f : Pkg → Pkg) : (s.modPkg f).cores = s.cores := rfl
@[simp] theorem modPkg_strs (s : State) (f : Pkg → Pkg) : (s.modPkg f).strs = s.strs := rfl
@[simp] theorem modPkg_pgs (s : State) (f : Pkg → Pkg) : (s.modPkg f).pgs = s.pgs := rfl
@[simp] theorem modPkg_vaults (s : State) (f : Pkg → Pkg) : (s.modPkg f).vaults = s.vaults := rfl
@[simp] theorem modPkg_dies (s : State) (f : Pkg → Pkg) : (s.modPkg f).dies = s.dies := rfl
@[simp] theorem modPkg_yards (s : State) (f : Pkg → Pkg) : (s.modPkg f).yards = s.yards := rfl
@[simp] theorem modPkg_slots (s : State) (f : Pkg → Pkg) : (s.modPkg f).slots = s.slots := rfl
@[simp] theorem modPkg_links (s : State) (f : Pkg → Pkg) : (s.modPkg f).links = s.links := rfl
@[simp] theorem modPkg_flits (s : State) (f : Pkg → Pkg) : (s.modPkg f).flits = s.flits := rfl
@[simp] theorem modPkg_mem (s : State) (f : Pkg → Pkg) : (s.modPkg f).mem = s.mem := rfl
@[simp] theorem modPkg_memKey (s : State) (f : Pkg → Pkg) : (s.modPkg f).memKey = s.memKey := rfl
@[simp] theorem modPkg_full (s : State) (f : Pkg → Pkg) : (s.modPkg f).full = s.full := rfl
@[simp] theorem modPkg_older (s : State) (f : Pkg → Pkg) : (s.modPkg f).older = s.older := rfl
@[simp] theorem modPkg_bad (s : State) (f : Pkg → Pkg) : (s.modPkg f).bad = s.bad := rfl
@[simp] theorem modPkg_soft (s : State) (f : Pkg → Pkg) : (s.modPkg f).soft = s.soft := rfl
@[simp] theorem modPkg_images (s : State) (f : Pkg → Pkg) : (s.modPkg f).images = s.images := rfl

/-! ## The same for a change of one unit -/

@[simp] theorem modCtx_wt (s : State) (k : Nat) (f : Ctx → Ctx) : (s.modCtx k f).wt = s.wt := rfl
@[simp] theorem modCtx_agenda (s : State) (k : Nat) (f : Ctx → Ctx) : (s.modCtx k f).agenda = s.agenda := rfl
@[simp] theorem modCtx_cur (s : State) (k : Nat) (f : Ctx → Ctx) : (s.modCtx k f).cur = s.cur := rfl
@[simp] theorem modCtx_cores (s : State) (k : Nat) (f : Ctx → Ctx) : (s.modCtx k f).cores = s.cores := rfl
@[simp] theorem modCtx_strs (s : State) (k : Nat) (f : Ctx → Ctx) : (s.modCtx k f).strs = s.strs := rfl
@[simp] theorem modCtx_pgs (s : State) (k : Nat) (f : Ctx → Ctx) : (s.modCtx k f).pgs = s.pgs := rfl
@[simp] theorem modCtx_vaults (s : State) (k : Nat) (f : Ctx → Ctx) : (s.modCtx k f).vaults = s.vaults := rfl
@[simp] theorem modCtx_dies (s : State) (k : Nat) (f : Ctx → Ctx) : (s.modCtx k f).dies = s.dies := rfl
@[simp] theorem modCtx_yards (s : State) (k : Nat) (f : Ctx → Ctx) : (s.modCtx k f).yards = s.yards := rfl
@[simp] theorem modCtx_pkg (s : State) (k : Nat) (f : Ctx → Ctx) : (s.modCtx k f).pkg = s.pkg := rfl
@[simp] theorem modCtx_mem (s : State) (k : Nat) (f : Ctx → Ctx) : (s.modCtx k f).mem = s.mem := rfl
@[simp] theorem modCtx_memKey (s : State) (k : Nat) (f : Ctx → Ctx) : (s.modCtx k f).memKey = s.memKey := rfl
@[simp] theorem modCtx_full (s : State) (k : Nat) (f : Ctx → Ctx) : (s.modCtx k f).full = s.full := rfl
@[simp] theorem modCtx_bad (s : State) (k : Nat) (f : Ctx → Ctx) : (s.modCtx k f).bad = s.bad := rfl
@[simp] theorem modCtx_soft (s : State) (k : Nat) (f : Ctx → Ctx) : (s.modCtx k f).soft = s.soft := rfl
@[simp] theorem modCtx_images (s : State) (k : Nat) (f : Ctx → Ctx) : (s.modCtx k f).images = s.images := rfl
@[simp] theorem coreOf_modCtx (s : State) (k : Nat) (f : Ctx → Ctx) (j : Nat) : (s.modCtx k f).coreOf j = s.coreOf j := rfl
@[simp] theorem strAt_modCtx (s : State) (k : Nat) (f : Ctx → Ctx) (i j : Nat) : (s.modCtx k f).strAt i j = s.strAt i j := rfl
@[simp] theorem pgAt_modCtx (s : State) (k : Nat) (f : Ctx → Ctx) (i j : Nat) : (s.modCtx k f).pgAt i j = s.pgAt i j := rfl
@[simp] theorem vaultAt_modCtx (s : State) (k : Nat) (f : Ctx → Ctx) (i j : Nat) : (s.modCtx k f).vaultAt i j = s.vaultAt i j := rfl
@[simp] theorem dieAt_modCtx (s : State) (k : Nat) (f : Ctx → Ctx) (j : Nat) : (s.modCtx k f).dieAt j = s.dieAt j := rfl
@[simp] theorem byte_modCtx (s : State) (k : Nat) (f : Ctx → Ctx) (j : Nat) : (s.modCtx k f).byte j = s.byte j := rfl

@[simp] theorem modMe_wt (s : State) (f : Ctx → Ctx) : (s.modMe f).wt = s.wt := rfl
@[simp] theorem modMe_agenda (s : State) (f : Ctx → Ctx) : (s.modMe f).agenda = s.agenda := rfl
@[simp] theorem modMe_cur (s : State) (f : Ctx → Ctx) : (s.modMe f).cur = s.cur := rfl
@[simp] theorem modMe_cores (s : State) (f : Ctx → Ctx) : (s.modMe f).cores = s.cores := rfl
@[simp] theorem modMe_strs (s : State) (f : Ctx → Ctx) : (s.modMe f).strs = s.strs := rfl
@[simp] theorem modMe_pgs (s : State) (f : Ctx → Ctx) : (s.modMe f).pgs = s.pgs := rfl
@[simp] theorem modMe_vaults (s : State) (f : Ctx → Ctx) : (s.modMe f).vaults = s.vaults := rfl
@[simp] theorem modMe_dies (s : State) (f : Ctx → Ctx) : (s.modMe f).dies = s.dies := rfl
@[simp] theorem modMe_yards (s : State) (f : Ctx → Ctx) : (s.modMe f).yards = s.yards := rfl
@[simp] theorem modMe_pkg (s : State) (f : Ctx → Ctx) : (s.modMe f).pkg = s.pkg := rfl
@[simp] theorem modMe_mem (s : State) (f : Ctx → Ctx) : (s.modMe f).mem = s.mem := rfl
@[simp] theorem modMe_memKey (s : State) (f : Ctx → Ctx) : (s.modMe f).memKey = s.memKey := rfl
@[simp] theorem modMe_full (s : State) (f : Ctx → Ctx) : (s.modMe f).full = s.full := rfl
@[simp] theorem modMe_bad (s : State) (f : Ctx → Ctx) : (s.modMe f).bad = s.bad := rfl
@[simp] theorem modMe_soft (s : State) (f : Ctx → Ctx) : (s.modMe f).soft = s.soft := rfl
@[simp] theorem modMe_images (s : State) (f : Ctx → Ctx) : (s.modMe f).images = s.images := rfl
@[simp] theorem coreOf_modMe (s : State) (f : Ctx → Ctx) (j : Nat) : (s.modMe f).coreOf j = s.coreOf j := rfl
@[simp] theorem strAt_modMe (s : State) (f : Ctx → Ctx) (i j : Nat) : (s.modMe f).strAt i j = s.strAt i j := rfl
@[simp] theorem pgAt_modMe (s : State) (f : Ctx → Ctx) (i j : Nat) : (s.modMe f).pgAt i j = s.pgAt i j := rfl
@[simp] theorem vaultAt_modMe (s : State) (f : Ctx → Ctx) (i j : Nat) : (s.modMe f).vaultAt i j = s.vaultAt i j := rfl
@[simp] theorem dieAt_modMe (s : State) (f : Ctx → Ctx) (j : Nat) : (s.modMe f).dieAt j = s.dieAt j := rfl
@[simp] theorem byte_modMe (s : State) (f : Ctx → Ctx) (j : Nat) : (s.modMe f).byte j = s.byte j := rfl

@[simp] theorem modRegs_wt (s : State) (f : Regs → Regs) : (s.modRegs f).wt = s.wt := rfl
@[simp] theorem modRegs_agenda (s : State) (f : Regs → Regs) : (s.modRegs f).agenda = s.agenda := rfl
@[simp] theorem modRegs_cur (s : State) (f : Regs → Regs) : (s.modRegs f).cur = s.cur := rfl
@[simp] theorem modRegs_cores (s : State) (f : Regs → Regs) : (s.modRegs f).cores = s.cores := rfl
@[simp] theorem modRegs_strs (s : State) (f : Regs → Regs) : (s.modRegs f).strs = s.strs := rfl
@[simp] theorem modRegs_pgs (s : State) (f : Regs → Regs) : (s.modRegs f).pgs = s.pgs := rfl
@[simp] theorem modRegs_vaults (s : State) (f : Regs → Regs) : (s.modRegs f).vaults = s.vaults := rfl
@[simp] theorem modRegs_dies (s : State) (f : Regs → Regs) : (s.modRegs f).dies = s.dies := rfl
@[simp] theorem modRegs_yards (s : State) (f : Regs → Regs) : (s.modRegs f).yards = s.yards := rfl
@[simp] theorem modRegs_pkg (s : State) (f : Regs → Regs) : (s.modRegs f).pkg = s.pkg := rfl
@[simp] theorem modRegs_mem (s : State) (f : Regs → Regs) : (s.modRegs f).mem = s.mem := rfl
@[simp] theorem modRegs_memKey (s : State) (f : Regs → Regs) : (s.modRegs f).memKey = s.memKey := rfl
@[simp] theorem modRegs_full (s : State) (f : Regs → Regs) : (s.modRegs f).full = s.full := rfl
@[simp] theorem modRegs_bad (s : State) (f : Regs → Regs) : (s.modRegs f).bad = s.bad := rfl
@[simp] theorem modRegs_soft (s : State) (f : Regs → Regs) : (s.modRegs f).soft = s.soft := rfl
@[simp] theorem modRegs_images (s : State) (f : Regs → Regs) : (s.modRegs f).images = s.images := rfl
@[simp] theorem coreOf_modRegs (s : State) (f : Regs → Regs) (j : Nat) : (s.modRegs f).coreOf j = s.coreOf j := rfl
@[simp] theorem strAt_modRegs (s : State) (f : Regs → Regs) (i j : Nat) : (s.modRegs f).strAt i j = s.strAt i j := rfl
@[simp] theorem pgAt_modRegs (s : State) (f : Regs → Regs) (i j : Nat) : (s.modRegs f).pgAt i j = s.pgAt i j := rfl
@[simp] theorem vaultAt_modRegs (s : State) (f : Regs → Regs) (i j : Nat) : (s.modRegs f).vaultAt i j = s.vaultAt i j := rfl
@[simp] theorem dieAt_modRegs (s : State) (f : Regs → Regs) (j : Nat) : (s.modRegs f).dieAt j = s.dieAt j := rfl
@[simp] theorem byte_modRegs (s : State) (f : Regs → Regs) (j : Nat) : (s.modRegs f).byte j = s.byte j := rfl

@[simp] theorem modCore_wt (s : State) (k : Nat) (f : Core → Core) : (s.modCore k f).wt = s.wt := rfl
@[simp] theorem modCore_agenda (s : State) (k : Nat) (f : Core → Core) : (s.modCore k f).agenda = s.agenda := rfl
@[simp] theorem modCore_cur (s : State) (k : Nat) (f : Core → Core) : (s.modCore k f).cur = s.cur := rfl
@[simp] theorem modCore_ctxs (s : State) (k : Nat) (f : Core → Core) : (s.modCore k f).ctxs = s.ctxs := rfl
@[simp] theorem modCore_strs (s : State) (k : Nat) (f : Core → Core) : (s.modCore k f).strs = s.strs := rfl
@[simp] theorem modCore_pgs (s : State) (k : Nat) (f : Core → Core) : (s.modCore k f).pgs = s.pgs := rfl
@[simp] theorem modCore_vaults (s : State) (k : Nat) (f : Core → Core) : (s.modCore k f).vaults = s.vaults := rfl
@[simp] theorem modCore_dies (s : State) (k : Nat) (f : Core → Core) : (s.modCore k f).dies = s.dies := rfl
@[simp] theorem modCore_yards (s : State) (k : Nat) (f : Core → Core) : (s.modCore k f).yards = s.yards := rfl
@[simp] theorem modCore_pkg (s : State) (k : Nat) (f : Core → Core) : (s.modCore k f).pkg = s.pkg := rfl
@[simp] theorem modCore_mem (s : State) (k : Nat) (f : Core → Core) : (s.modCore k f).mem = s.mem := rfl
@[simp] theorem modCore_memKey (s : State) (k : Nat) (f : Core → Core) : (s.modCore k f).memKey = s.memKey := rfl
@[simp] theorem modCore_full (s : State) (k : Nat) (f : Core → Core) : (s.modCore k f).full = s.full := rfl
@[simp] theorem modCore_bad (s : State) (k : Nat) (f : Core → Core) : (s.modCore k f).bad = s.bad := rfl
@[simp] theorem modCore_soft (s : State) (k : Nat) (f : Core → Core) : (s.modCore k f).soft = s.soft := rfl
@[simp] theorem modCore_images (s : State) (k : Nat) (f : Core → Core) : (s.modCore k f).images = s.images := rfl
@[simp] theorem ctxOf_modCore (s : State) (k : Nat) (f : Core → Core) (j : Nat) : (s.modCore k f).ctxOf j = s.ctxOf j := rfl
@[simp] theorem strAt_modCore (s : State) (k : Nat) (f : Core → Core) (i j : Nat) : (s.modCore k f).strAt i j = s.strAt i j := rfl
@[simp] theorem pgAt_modCore (s : State) (k : Nat) (f : Core → Core) (i j : Nat) : (s.modCore k f).pgAt i j = s.pgAt i j := rfl
@[simp] theorem vaultAt_modCore (s : State) (k : Nat) (f : Core → Core) (i j : Nat) : (s.modCore k f).vaultAt i j = s.vaultAt i j := rfl
@[simp] theorem dieAt_modCore (s : State) (k : Nat) (f : Core → Core) (j : Nat) : (s.modCore k f).dieAt j = s.dieAt j := rfl
@[simp] theorem byte_modCore (s : State) (k : Nat) (f : Core → Core) (j : Nat) : (s.modCore k f).byte j = s.byte j := rfl

@[simp] theorem modMyCore_wt (s : State) (f : Core → Core) : (s.modMyCore f).wt = s.wt := rfl
@[simp] theorem modMyCore_agenda (s : State) (f : Core → Core) : (s.modMyCore f).agenda = s.agenda := rfl
@[simp] theorem modMyCore_cur (s : State) (f : Core → Core) : (s.modMyCore f).cur = s.cur := rfl
@[simp] theorem modMyCore_ctxs (s : State) (f : Core → Core) : (s.modMyCore f).ctxs = s.ctxs := rfl
@[simp] theorem modMyCore_strs (s : State) (f : Core → Core) : (s.modMyCore f).strs = s.strs := rfl
@[simp] theorem modMyCore_pgs (s : State) (f : Core → Core) : (s.modMyCore f).pgs = s.pgs := rfl
@[simp] theorem modMyCore_vaults (s : State) (f : Core → Core) : (s.modMyCore f).vaults = s.vaults := rfl
@[simp] theorem modMyCore_dies (s : State) (f : Core → Core) : (s.modMyCore f).dies = s.dies := rfl
@[simp] theorem modMyCore_yards (s : State) (f : Core → Core) : (s.modMyCore f).yards = s.yards := rfl
@[simp] theorem modMyCore_pkg (s : State) (f : Core → Core) : (s.modMyCore f).pkg = s.pkg := rfl
@[simp] theorem modMyCore_mem (s : State) (f : Core → Core) : (s.modMyCore f).mem = s.mem := rfl
@[simp] theorem modMyCore_memKey (s : State) (f : Core → Core) : (s.modMyCore f).memKey = s.memKey := rfl
@[simp] theorem modMyCore_full (s : State) (f : Core → Core) : (s.modMyCore f).full = s.full := rfl
@[simp] theorem modMyCore_bad (s : State) (f : Core → Core) : (s.modMyCore f).bad = s.bad := rfl
@[simp] theorem modMyCore_soft (s : State) (f : Core → Core) : (s.modMyCore f).soft = s.soft := rfl
@[simp] theorem modMyCore_images (s : State) (f : Core → Core) : (s.modMyCore f).images = s.images := rfl
@[simp] theorem ctxOf_modMyCore (s : State) (f : Core → Core) (j : Nat) : (s.modMyCore f).ctxOf j = s.ctxOf j := rfl
@[simp] theorem strAt_modMyCore (s : State) (f : Core → Core) (i j : Nat) : (s.modMyCore f).strAt i j = s.strAt i j := rfl
@[simp] theorem pgAt_modMyCore (s : State) (f : Core → Core) (i j : Nat) : (s.modMyCore f).pgAt i j = s.pgAt i j := rfl
@[simp] theorem vaultAt_modMyCore (s : State) (f : Core → Core) (i j : Nat) : (s.modMyCore f).vaultAt i j = s.vaultAt i j := rfl
@[simp] theorem dieAt_modMyCore (s : State) (f : Core → Core) (j : Nat) : (s.modMyCore f).dieAt j = s.dieAt j := rfl
@[simp] theorem byte_modMyCore (s : State) (f : Core → Core) (j : Nat) : (s.modMyCore f).byte j = s.byte j := rfl

@[simp] theorem modStr_wt (s : State) (d k : Nat) (f : Str → Str) : (s.modStr d k f).wt = s.wt := rfl
@[simp] theorem modStr_agenda (s : State) (d k : Nat) (f : Str → Str) : (s.modStr d k f).agenda = s.agenda := rfl
@[simp] theorem modStr_cur (s : State) (d k : Nat) (f : Str → Str) : (s.modStr d k f).cur = s.cur := rfl
@[simp] theorem modStr_ctxs (s : State) (d k : Nat) (f : Str → Str) : (s.modStr d k f).ctxs = s.ctxs := rfl
@[simp] theorem modStr_cores (s : State) (d k : Nat) (f : Str → Str) : (s.modStr d k f).cores = s.cores := rfl
@[simp] theorem modStr_pgs (s : State) (d k : Nat) (f : Str → Str) : (s.modStr d k f).pgs = s.pgs := rfl
@[simp] theorem modStr_vaults (s : State) (d k : Nat) (f : Str → Str) : (s.modStr d k f).vaults = s.vaults := rfl
@[simp] theorem modStr_dies (s : State) (d k : Nat) (f : Str → Str) : (s.modStr d k f).dies = s.dies := rfl
@[simp] theorem modStr_yards (s : State) (d k : Nat) (f : Str → Str) : (s.modStr d k f).yards = s.yards := rfl
@[simp] theorem modStr_pkg (s : State) (d k : Nat) (f : Str → Str) : (s.modStr d k f).pkg = s.pkg := rfl
@[simp] theorem modStr_mem (s : State) (d k : Nat) (f : Str → Str) : (s.modStr d k f).mem = s.mem := rfl
@[simp] theorem modStr_memKey (s : State) (d k : Nat) (f : Str → Str) : (s.modStr d k f).memKey = s.memKey := rfl
@[simp] theorem modStr_full (s : State) (d k : Nat) (f : Str → Str) : (s.modStr d k f).full = s.full := rfl
@[simp] theorem modStr_bad (s : State) (d k : Nat) (f : Str → Str) : (s.modStr d k f).bad = s.bad := rfl
@[simp] theorem modStr_soft (s : State) (d k : Nat) (f : Str → Str) : (s.modStr d k f).soft = s.soft := rfl
@[simp] theorem modStr_images (s : State) (d k : Nat) (f : Str → Str) : (s.modStr d k f).images = s.images := rfl
@[simp] theorem ctxOf_modStr (s : State) (d k : Nat) (f : Str → Str) (j : Nat) : (s.modStr d k f).ctxOf j = s.ctxOf j := rfl
@[simp] theorem coreOf_modStr (s : State) (d k : Nat) (f : Str → Str) (j : Nat) : (s.modStr d k f).coreOf j = s.coreOf j := rfl
@[simp] theorem pgAt_modStr (s : State) (d k : Nat) (f : Str → Str) (i j : Nat) : (s.modStr d k f).pgAt i j = s.pgAt i j := rfl
@[simp] theorem vaultAt_modStr (s : State) (d k : Nat) (f : Str → Str) (i j : Nat) : (s.modStr d k f).vaultAt i j = s.vaultAt i j := rfl
@[simp] theorem dieAt_modStr (s : State) (d k : Nat) (f : Str → Str) (j : Nat) : (s.modStr d k f).dieAt j = s.dieAt j := rfl
@[simp] theorem byte_modStr (s : State) (d k : Nat) (f : Str → Str) (j : Nat) : (s.modStr d k f).byte j = s.byte j := rfl

@[simp] theorem modMyStr_wt (s : State) (f : Str → Str) : (s.modMyStr f).wt = s.wt := rfl
@[simp] theorem modMyStr_agenda (s : State) (f : Str → Str) : (s.modMyStr f).agenda = s.agenda := rfl
@[simp] theorem modMyStr_cur (s : State) (f : Str → Str) : (s.modMyStr f).cur = s.cur := rfl
@[simp] theorem modMyStr_ctxs (s : State) (f : Str → Str) : (s.modMyStr f).ctxs = s.ctxs := rfl
@[simp] theorem modMyStr_cores (s : State) (f : Str → Str) : (s.modMyStr f).cores = s.cores := rfl
@[simp] theorem modMyStr_pgs (s : State) (f : Str → Str) : (s.modMyStr f).pgs = s.pgs := rfl
@[simp] theorem modMyStr_vaults (s : State) (f : Str → Str) : (s.modMyStr f).vaults = s.vaults := rfl
@[simp] theorem modMyStr_dies (s : State) (f : Str → Str) : (s.modMyStr f).dies = s.dies := rfl
@[simp] theorem modMyStr_yards (s : State) (f : Str → Str) : (s.modMyStr f).yards = s.yards := rfl
@[simp] theorem modMyStr_pkg (s : State) (f : Str → Str) : (s.modMyStr f).pkg = s.pkg := rfl
@[simp] theorem modMyStr_mem (s : State) (f : Str → Str) : (s.modMyStr f).mem = s.mem := rfl
@[simp] theorem modMyStr_memKey (s : State) (f : Str → Str) : (s.modMyStr f).memKey = s.memKey := rfl
@[simp] theorem modMyStr_full (s : State) (f : Str → Str) : (s.modMyStr f).full = s.full := rfl
@[simp] theorem modMyStr_bad (s : State) (f : Str → Str) : (s.modMyStr f).bad = s.bad := rfl
@[simp] theorem modMyStr_soft (s : State) (f : Str → Str) : (s.modMyStr f).soft = s.soft := rfl
@[simp] theorem modMyStr_images (s : State) (f : Str → Str) : (s.modMyStr f).images = s.images := rfl
@[simp] theorem ctxOf_modMyStr (s : State) (f : Str → Str) (j : Nat) : (s.modMyStr f).ctxOf j = s.ctxOf j := rfl
@[simp] theorem coreOf_modMyStr (s : State) (f : Str → Str) (j : Nat) : (s.modMyStr f).coreOf j = s.coreOf j := rfl
@[simp] theorem pgAt_modMyStr (s : State) (f : Str → Str) (i j : Nat) : (s.modMyStr f).pgAt i j = s.pgAt i j := rfl
@[simp] theorem vaultAt_modMyStr (s : State) (f : Str → Str) (i j : Nat) : (s.modMyStr f).vaultAt i j = s.vaultAt i j := rfl
@[simp] theorem dieAt_modMyStr (s : State) (f : Str → Str) (j : Nat) : (s.modMyStr f).dieAt j = s.dieAt j := rfl
@[simp] theorem byte_modMyStr (s : State) (f : Str → Str) (j : Nat) : (s.modMyStr f).byte j = s.byte j := rfl

@[simp] theorem modPg_wt (s : State) (d k : Nat) (f : PortGroup → PortGroup) : (s.modPg d k f).wt = s.wt := rfl
@[simp] theorem modPg_agenda (s : State) (d k : Nat) (f : PortGroup → PortGroup) : (s.modPg d k f).agenda = s.agenda := rfl
@[simp] theorem modPg_cur (s : State) (d k : Nat) (f : PortGroup → PortGroup) : (s.modPg d k f).cur = s.cur := rfl
@[simp] theorem modPg_ctxs (s : State) (d k : Nat) (f : PortGroup → PortGroup) : (s.modPg d k f).ctxs = s.ctxs := rfl
@[simp] theorem modPg_cores (s : State) (d k : Nat) (f : PortGroup → PortGroup) : (s.modPg d k f).cores = s.cores := rfl
@[simp] theorem modPg_strs (s : State) (d k : Nat) (f : PortGroup → PortGroup) : (s.modPg d k f).strs = s.strs := rfl
@[simp] theorem modPg_vaults (s : State) (d k : Nat) (f : PortGroup → PortGroup) : (s.modPg d k f).vaults = s.vaults := rfl
@[simp] theorem modPg_dies (s : State) (d k : Nat) (f : PortGroup → PortGroup) : (s.modPg d k f).dies = s.dies := rfl
@[simp] theorem modPg_yards (s : State) (d k : Nat) (f : PortGroup → PortGroup) : (s.modPg d k f).yards = s.yards := rfl
@[simp] theorem modPg_pkg (s : State) (d k : Nat) (f : PortGroup → PortGroup) : (s.modPg d k f).pkg = s.pkg := rfl
@[simp] theorem modPg_mem (s : State) (d k : Nat) (f : PortGroup → PortGroup) : (s.modPg d k f).mem = s.mem := rfl
@[simp] theorem modPg_memKey (s : State) (d k : Nat) (f : PortGroup → PortGroup) : (s.modPg d k f).memKey = s.memKey := rfl
@[simp] theorem modPg_full (s : State) (d k : Nat) (f : PortGroup → PortGroup) : (s.modPg d k f).full = s.full := rfl
@[simp] theorem modPg_bad (s : State) (d k : Nat) (f : PortGroup → PortGroup) : (s.modPg d k f).bad = s.bad := rfl
@[simp] theorem modPg_soft (s : State) (d k : Nat) (f : PortGroup → PortGroup) : (s.modPg d k f).soft = s.soft := rfl
@[simp] theorem modPg_images (s : State) (d k : Nat) (f : PortGroup → PortGroup) : (s.modPg d k f).images = s.images := rfl
@[simp] theorem ctxOf_modPg (s : State) (d k : Nat) (f : PortGroup → PortGroup) (j : Nat) : (s.modPg d k f).ctxOf j = s.ctxOf j := rfl
@[simp] theorem coreOf_modPg (s : State) (d k : Nat) (f : PortGroup → PortGroup) (j : Nat) : (s.modPg d k f).coreOf j = s.coreOf j := rfl
@[simp] theorem strAt_modPg (s : State) (d k : Nat) (f : PortGroup → PortGroup) (i j : Nat) : (s.modPg d k f).strAt i j = s.strAt i j := rfl
@[simp] theorem vaultAt_modPg (s : State) (d k : Nat) (f : PortGroup → PortGroup) (i j : Nat) : (s.modPg d k f).vaultAt i j = s.vaultAt i j := rfl
@[simp] theorem dieAt_modPg (s : State) (d k : Nat) (f : PortGroup → PortGroup) (j : Nat) : (s.modPg d k f).dieAt j = s.dieAt j := rfl
@[simp] theorem byte_modPg (s : State) (d k : Nat) (f : PortGroup → PortGroup) (j : Nat) : (s.modPg d k f).byte j = s.byte j := rfl

@[simp] theorem modDie_wt (s : State) (d : Nat) (f : Die → Die) : (s.modDie d f).wt = s.wt := rfl
@[simp] theorem modDie_agenda (s : State) (d : Nat) (f : Die → Die) : (s.modDie d f).agenda = s.agenda := rfl
@[simp] theorem modDie_cur (s : State) (d : Nat) (f : Die → Die) : (s.modDie d f).cur = s.cur := rfl
@[simp] theorem modDie_ctxs (s : State) (d : Nat) (f : Die → Die) : (s.modDie d f).ctxs = s.ctxs := rfl
@[simp] theorem modDie_cores (s : State) (d : Nat) (f : Die → Die) : (s.modDie d f).cores = s.cores := rfl
@[simp] theorem modDie_strs (s : State) (d : Nat) (f : Die → Die) : (s.modDie d f).strs = s.strs := rfl
@[simp] theorem modDie_pgs (s : State) (d : Nat) (f : Die → Die) : (s.modDie d f).pgs = s.pgs := rfl
@[simp] theorem modDie_vaults (s : State) (d : Nat) (f : Die → Die) : (s.modDie d f).vaults = s.vaults := rfl
@[simp] theorem modDie_yards (s : State) (d : Nat) (f : Die → Die) : (s.modDie d f).yards = s.yards := rfl
@[simp] theorem modDie_pkg (s : State) (d : Nat) (f : Die → Die) : (s.modDie d f).pkg = s.pkg := rfl
@[simp] theorem modDie_mem (s : State) (d : Nat) (f : Die → Die) : (s.modDie d f).mem = s.mem := rfl
@[simp] theorem modDie_memKey (s : State) (d : Nat) (f : Die → Die) : (s.modDie d f).memKey = s.memKey := rfl
@[simp] theorem modDie_full (s : State) (d : Nat) (f : Die → Die) : (s.modDie d f).full = s.full := rfl
@[simp] theorem modDie_bad (s : State) (d : Nat) (f : Die → Die) : (s.modDie d f).bad = s.bad := rfl
@[simp] theorem modDie_soft (s : State) (d : Nat) (f : Die → Die) : (s.modDie d f).soft = s.soft := rfl
@[simp] theorem modDie_images (s : State) (d : Nat) (f : Die → Die) : (s.modDie d f).images = s.images := rfl
@[simp] theorem ctxOf_modDie (s : State) (d : Nat) (f : Die → Die) (j : Nat) : (s.modDie d f).ctxOf j = s.ctxOf j := rfl
@[simp] theorem coreOf_modDie (s : State) (d : Nat) (f : Die → Die) (j : Nat) : (s.modDie d f).coreOf j = s.coreOf j := rfl
@[simp] theorem strAt_modDie (s : State) (d : Nat) (f : Die → Die) (i j : Nat) : (s.modDie d f).strAt i j = s.strAt i j := rfl
@[simp] theorem pgAt_modDie (s : State) (d : Nat) (f : Die → Die) (i j : Nat) : (s.modDie d f).pgAt i j = s.pgAt i j := rfl
@[simp] theorem vaultAt_modDie (s : State) (d : Nat) (f : Die → Die) (i j : Nat) : (s.modDie d f).vaultAt i j = s.vaultAt i j := rfl
@[simp] theorem byte_modDie (s : State) (d : Nat) (f : Die → Die) (j : Nat) : (s.modDie d f).byte j = s.byte j := rfl

@[simp] theorem modMyDie_wt (s : State) (f : Die → Die) : (s.modMyDie f).wt = s.wt := rfl
@[simp] theorem modMyDie_agenda (s : State) (f : Die → Die) : (s.modMyDie f).agenda = s.agenda := rfl
@[simp] theorem modMyDie_cur (s : State) (f : Die → Die) : (s.modMyDie f).cur = s.cur := rfl
@[simp] theorem modMyDie_ctxs (s : State) (f : Die → Die) : (s.modMyDie f).ctxs = s.ctxs := rfl
@[simp] theorem modMyDie_cores (s : State) (f : Die → Die) : (s.modMyDie f).cores = s.cores := rfl
@[simp] theorem modMyDie_strs (s : State) (f : Die → Die) : (s.modMyDie f).strs = s.strs := rfl
@[simp] theorem modMyDie_pgs (s : State) (f : Die → Die) : (s.modMyDie f).pgs = s.pgs := rfl
@[simp] theorem modMyDie_vaults (s : State) (f : Die → Die) : (s.modMyDie f).vaults = s.vaults := rfl
@[simp] theorem modMyDie_yards (s : State) (f : Die → Die) : (s.modMyDie f).yards = s.yards := rfl
@[simp] theorem modMyDie_pkg (s : State) (f : Die → Die) : (s.modMyDie f).pkg = s.pkg := rfl
@[simp] theorem modMyDie_mem (s : State) (f : Die → Die) : (s.modMyDie f).mem = s.mem := rfl
@[simp] theorem modMyDie_memKey (s : State) (f : Die → Die) : (s.modMyDie f).memKey = s.memKey := rfl
@[simp] theorem modMyDie_full (s : State) (f : Die → Die) : (s.modMyDie f).full = s.full := rfl
@[simp] theorem modMyDie_bad (s : State) (f : Die → Die) : (s.modMyDie f).bad = s.bad := rfl
@[simp] theorem modMyDie_soft (s : State) (f : Die → Die) : (s.modMyDie f).soft = s.soft := rfl
@[simp] theorem modMyDie_images (s : State) (f : Die → Die) : (s.modMyDie f).images = s.images := rfl
@[simp] theorem ctxOf_modMyDie (s : State) (f : Die → Die) (j : Nat) : (s.modMyDie f).ctxOf j = s.ctxOf j := rfl
@[simp] theorem coreOf_modMyDie (s : State) (f : Die → Die) (j : Nat) : (s.modMyDie f).coreOf j = s.coreOf j := rfl
@[simp] theorem strAt_modMyDie (s : State) (f : Die → Die) (i j : Nat) : (s.modMyDie f).strAt i j = s.strAt i j := rfl
@[simp] theorem pgAt_modMyDie (s : State) (f : Die → Die) (i j : Nat) : (s.modMyDie f).pgAt i j = s.pgAt i j := rfl
@[simp] theorem vaultAt_modMyDie (s : State) (f : Die → Die) (i j : Nat) : (s.modMyDie f).vaultAt i j = s.vaultAt i j := rfl
@[simp] theorem byte_modMyDie (s : State) (f : Die → Die) (j : Nat) : (s.modMyDie f).byte j = s.byte j := rfl

@[simp] theorem modYard_wt (s : State) (y : Nat) (f : Yard → Yard) : (s.modYard y f).wt = s.wt := rfl
@[simp] theorem modYard_agenda (s : State) (y : Nat) (f : Yard → Yard) : (s.modYard y f).agenda = s.agenda := rfl
@[simp] theorem modYard_cur (s : State) (y : Nat) (f : Yard → Yard) : (s.modYard y f).cur = s.cur := rfl
@[simp] theorem modYard_ctxs (s : State) (y : Nat) (f : Yard → Yard) : (s.modYard y f).ctxs = s.ctxs := rfl
@[simp] theorem modYard_cores (s : State) (y : Nat) (f : Yard → Yard) : (s.modYard y f).cores = s.cores := rfl
@[simp] theorem modYard_strs (s : State) (y : Nat) (f : Yard → Yard) : (s.modYard y f).strs = s.strs := rfl
@[simp] theorem modYard_pgs (s : State) (y : Nat) (f : Yard → Yard) : (s.modYard y f).pgs = s.pgs := rfl
@[simp] theorem modYard_vaults (s : State) (y : Nat) (f : Yard → Yard) : (s.modYard y f).vaults = s.vaults := rfl
@[simp] theorem modYard_dies (s : State) (y : Nat) (f : Yard → Yard) : (s.modYard y f).dies = s.dies := rfl
@[simp] theorem modYard_pkg (s : State) (y : Nat) (f : Yard → Yard) : (s.modYard y f).pkg = s.pkg := rfl
@[simp] theorem modYard_mem (s : State) (y : Nat) (f : Yard → Yard) : (s.modYard y f).mem = s.mem := rfl
@[simp] theorem modYard_memKey (s : State) (y : Nat) (f : Yard → Yard) : (s.modYard y f).memKey = s.memKey := rfl
@[simp] theorem modYard_full (s : State) (y : Nat) (f : Yard → Yard) : (s.modYard y f).full = s.full := rfl
@[simp] theorem modYard_bad (s : State) (y : Nat) (f : Yard → Yard) : (s.modYard y f).bad = s.bad := rfl
@[simp] theorem modYard_soft (s : State) (y : Nat) (f : Yard → Yard) : (s.modYard y f).soft = s.soft := rfl
@[simp] theorem modYard_images (s : State) (y : Nat) (f : Yard → Yard) : (s.modYard y f).images = s.images := rfl
@[simp] theorem ctxOf_modYard (s : State) (y : Nat) (f : Yard → Yard) (j : Nat) : (s.modYard y f).ctxOf j = s.ctxOf j := rfl
@[simp] theorem coreOf_modYard (s : State) (y : Nat) (f : Yard → Yard) (j : Nat) : (s.modYard y f).coreOf j = s.coreOf j := rfl
@[simp] theorem strAt_modYard (s : State) (y : Nat) (f : Yard → Yard) (i j : Nat) : (s.modYard y f).strAt i j = s.strAt i j := rfl
@[simp] theorem pgAt_modYard (s : State) (y : Nat) (f : Yard → Yard) (i j : Nat) : (s.modYard y f).pgAt i j = s.pgAt i j := rfl
@[simp] theorem vaultAt_modYard (s : State) (y : Nat) (f : Yard → Yard) (i j : Nat) : (s.modYard y f).vaultAt i j = s.vaultAt i j := rfl
@[simp] theorem dieAt_modYard (s : State) (y : Nat) (f : Yard → Yard) (j : Nat) : (s.modYard y f).dieAt j = s.dieAt j := rfl
@[simp] theorem byte_modYard (s : State) (y : Nat) (f : Yard → Yard) (j : Nat) : (s.modYard y f).byte j = s.byte j := rfl

theorem modCtx_eq (s : State) (k : Nat) (f : Ctx → Ctx) : s.modCtx k f = s.setCtxOf k (f (s.ctxOf k)) := rfl
theorem modMe_eq (s : State) (f : Ctx → Ctx) : s.modMe f = s.setCtxOf s.key (f s.me) := rfl
theorem modRegs_eq (s : State) (f : Regs → Regs) : s.modRegs f = s.setCtxOf s.key { s.me with regs := f s.me.regs } := rfl
theorem modCore_eq (s : State) (k : Nat) (f : Core → Core) : s.modCore k f = s.setCoreOf k (f (s.coreOf k)) := rfl
theorem modMyCore_eq (s : State) (f : Core → Core) : s.modMyCore f = s.setCoreOf s.ckey (f s.myCore) := rfl
theorem modStr_eq (s : State) (d k : Nat) (f : Str → Str) : s.modStr d k f = s.setStr d k (f (s.strAt d k)) := rfl
theorem modPg_eq (s : State) (d k : Nat) (f : PortGroup → PortGroup) : s.modPg d k f = s.setPg d k (f (s.pgAt d k)) := rfl
theorem modDie_eq (s : State) (d : Nat) (f : Die → Die) : s.modDie d f = s.setDie d (f (s.dieAt d)) := rfl
theorem modYard_eq (s : State) (y : Nat) (f : Yard → Yard) : s.modYard y f = s.setYard y (f (s.yardAt y)) := rfl

/-! ## Units read after a setter -/

theorem ctxOf_setCtxOf (s : State) (k j : Nat) (c : Ctx) : (s.setCtxOf k c).ctxOf j = if j = k then c else s.ctxOf j :=
  SMap.getD_set _ _ _ _ _
@[simp] theorem ctxOf_setCtxOf_self (s : State) (k : Nat) (c : Ctx) : (s.setCtxOf k c).ctxOf k = c := by simp [ctxOf_setCtxOf]
theorem coreOf_setCoreOf (s : State) (k j : Nat) (c : Core) : (s.setCoreOf k c).coreOf j = if j = k then c else s.coreOf j :=
  SMap.getD_set _ _ _ _ _
@[simp] theorem coreOf_setCoreOf_self (s : State) (k : Nat) (c : Core) : (s.setCoreOf k c).coreOf k = c := by
  simp [coreOf_setCoreOf]
theorem strAt_setStr (s : State) (d k d' k' : Nat) (x : Str) :
    (s.setStr d k x).strAt d' k' = if d' * 256 + k' = d * 256 + k then x else s.strAt d' k' := SMap.getD_set _ _ _ _ _
@[simp] theorem strAt_setStr_self (s : State) (d k : Nat) (x : Str) : (s.setStr d k x).strAt d k = x := by simp [strAt_setStr]
theorem pgAt_setPg (s : State) (d k d' k' : Nat) (x : PortGroup) :
    (s.setPg d k x).pgAt d' k' = if d' * 16 + k' = d * 16 + k then x else s.pgAt d' k' := SMap.getD_set _ _ _ _ _
@[simp] theorem pgAt_setPg_self (s : State) (d k : Nat) (x : PortGroup) : (s.setPg d k x).pgAt d k = x := by simp [pgAt_setPg]
theorem vaultAt_setVault (s : State) (d k d' k' : Nat) (x : Vault) :
    (s.setVault d k x).vaultAt d' k' = if d' * 64 + k' = d * 64 + k then x else s.vaultAt d' k' := SMap.getD_set _ _ _ _ _
@[simp] theorem vaultAt_setVault_self (s : State) (d k : Nat) (x : Vault) : (s.setVault d k x).vaultAt d k = x := by
  simp [vaultAt_setVault]
theorem dieAt_setDie (s : State) (d j : Nat) (x : Die) : (s.setDie d x).dieAt j = if j = d then x else s.dieAt j :=
  SMap.getD_set _ _ _ _ _
@[simp] theorem dieAt_setDie_self (s : State) (d : Nat) (x : Die) : (s.setDie d x).dieAt d = x := by simp [dieAt_setDie]
theorem yardAt_setYard (s : State) (y j : Nat) (x : Yard) : (s.setYard y x).yardAt j = if j = y then x else s.yardAt j :=
  SMap.getD_set _ _ _ _ _
@[simp] theorem yardAt_setYard_self (s : State) (y : Nat) (x : Yard) : (s.setYard y x).yardAt y = x := by simp [yardAt_setYard]

theorem ctxOf_modCtx (s : State) (k j : Nat) (f : Ctx → Ctx) :
    (s.modCtx k f).ctxOf j = if j = k then f (s.ctxOf k) else s.ctxOf j := SMap.getD_set _ _ _ _ _
@[simp] theorem ctxOf_modCtx_self (s : State) (k : Nat) (f : Ctx → Ctx) : (s.modCtx k f).ctxOf k = f (s.ctxOf k) := by
  simp [ctxOf_modCtx]
theorem ctxOf_modMe (s : State) (j : Nat) (f : Ctx → Ctx) : (s.modMe f).ctxOf j = if j = s.key then f s.me else s.ctxOf j :=
  SMap.getD_set _ _ _ _ _
theorem ctxOf_modRegs (s : State) (j : Nat) (f : Regs → Regs) :
    (s.modRegs f).ctxOf j = if j = s.key then { s.me with regs := f s.me.regs } else s.ctxOf j := SMap.getD_set _ _ _ _ _
theorem coreOf_modCore (s : State) (k j : Nat) (f : Core → Core) :
    (s.modCore k f).coreOf j = if j = k then f (s.coreOf k) else s.coreOf j := SMap.getD_set _ _ _ _ _
@[simp] theorem coreOf_modCore_self (s : State) (k : Nat) (f : Core → Core) : (s.modCore k f).coreOf k = f (s.coreOf k) := by
  simp [coreOf_modCore]
theorem dieAt_modDie (s : State) (d j : Nat) (f : Die → Die) :
    (s.modDie d f).dieAt j = if j = d then f (s.dieAt d) else s.dieAt j := SMap.getD_set _ _ _ _ _
@[simp] theorem dieAt_modDie_self (s : State) (d : Nat) (f : Die → Die) : (s.modDie d f).dieAt d = f (s.dieAt d) := by
  simp [dieAt_modDie]
@[simp] theorem strAt_modStr_self (s : State) (d k : Nat) (f : Str → Str) : (s.modStr d k f).strAt d k = f (s.strAt d k) := by
  simp [modStr_eq]
@[simp] theorem pgAt_modPg_self (s : State) (d k : Nat) (f : PortGroup → PortGroup) : (s.modPg d k f).pgAt d k = f (s.pgAt d k) := by
  simp [modPg_eq]
@[simp] theorem key_modMe (s : State) (f : Ctx → Ctx) : (s.modMe f).key = s.key := rfl
@[simp] theorem key_modRegs (s : State) (f : Regs → Regs) : (s.modRegs f).key = s.key := rfl
@[simp] theorem me_modMe (s : State) (f : Ctx → Ctx) : (s.modMe f).me = f s.me := by
  change (s.modMe f).ctxOf s.key = _
  simp [ctxOf_modMe]
@[simp] theorem me_modRegs (s : State) (f : Regs → Regs) : (s.modRegs f).me = { s.me with regs := f s.me.regs } := by
  change (s.modRegs f).ctxOf s.key = _
  simp [ctxOf_modRegs]
@[simp] theorem myCore_modMyCore (s : State) (f : Core → Core) : (s.modMyCore f).myCore = f s.myCore :=
  coreOf_modCore_self s s.ckey f

/-! ## Units read after a setter of another kind -/

@[simp] theorem coreOf_setCtxOf (s : State) (k : Nat) (x : Ctx) (j : Nat) : (s.setCtxOf k x).coreOf j = s.coreOf j := rfl
@[simp] theorem strAt_setCtxOf (s : State) (k : Nat) (x : Ctx) (i j : Nat) : (s.setCtxOf k x).strAt i j = s.strAt i j := rfl
@[simp] theorem pgAt_setCtxOf (s : State) (k : Nat) (x : Ctx) (i j : Nat) : (s.setCtxOf k x).pgAt i j = s.pgAt i j := rfl
@[simp] theorem vaultAt_setCtxOf (s : State) (k : Nat) (x : Ctx) (i j : Nat) : (s.setCtxOf k x).vaultAt i j = s.vaultAt i j := rfl
@[simp] theorem dieAt_setCtxOf (s : State) (k : Nat) (x : Ctx) (j : Nat) : (s.setCtxOf k x).dieAt j = s.dieAt j := rfl
@[simp] theorem yardAt_setCtxOf (s : State) (k : Nat) (x : Ctx) (j : Nat) : (s.setCtxOf k x).yardAt j = s.yardAt j := rfl
@[simp] theorem byte_setCtxOf (s : State) (k : Nat) (x : Ctx) (j : Nat) : (s.setCtxOf k x).byte j = s.byte j := rfl
@[simp] theorem tag_setCtxOf (s : State) (k : Nat) (x : Ctx) (j : Nat) : (s.setCtxOf k x).tag j = s.tag j := rfl

@[simp] theorem ctxOf_setCoreOf (s : State) (k : Nat) (x : Core) (j : Nat) : (s.setCoreOf k x).ctxOf j = s.ctxOf j := rfl
@[simp] theorem strAt_setCoreOf (s : State) (k : Nat) (x : Core) (i j : Nat) : (s.setCoreOf k x).strAt i j = s.strAt i j := rfl
@[simp] theorem pgAt_setCoreOf (s : State) (k : Nat) (x : Core) (i j : Nat) : (s.setCoreOf k x).pgAt i j = s.pgAt i j := rfl
@[simp] theorem vaultAt_setCoreOf (s : State) (k : Nat) (x : Core) (i j : Nat) : (s.setCoreOf k x).vaultAt i j = s.vaultAt i j := rfl
@[simp] theorem dieAt_setCoreOf (s : State) (k : Nat) (x : Core) (j : Nat) : (s.setCoreOf k x).dieAt j = s.dieAt j := rfl
@[simp] theorem yardAt_setCoreOf (s : State) (k : Nat) (x : Core) (j : Nat) : (s.setCoreOf k x).yardAt j = s.yardAt j := rfl
@[simp] theorem byte_setCoreOf (s : State) (k : Nat) (x : Core) (j : Nat) : (s.setCoreOf k x).byte j = s.byte j := rfl
@[simp] theorem tag_setCoreOf (s : State) (k : Nat) (x : Core) (j : Nat) : (s.setCoreOf k x).tag j = s.tag j := rfl

@[simp] theorem ctxOf_setStr (s : State) (d k : Nat) (x : Str) (j : Nat) : (s.setStr d k x).ctxOf j = s.ctxOf j := rfl
@[simp] theorem coreOf_setStr (s : State) (d k : Nat) (x : Str) (j : Nat) : (s.setStr d k x).coreOf j = s.coreOf j := rfl
@[simp] theorem pgAt_setStr (s : State) (d k : Nat) (x : Str) (i j : Nat) : (s.setStr d k x).pgAt i j = s.pgAt i j := rfl
@[simp] theorem vaultAt_setStr (s : State) (d k : Nat) (x : Str) (i j : Nat) : (s.setStr d k x).vaultAt i j = s.vaultAt i j := rfl
@[simp] theorem dieAt_setStr (s : State) (d k : Nat) (x : Str) (j : Nat) : (s.setStr d k x).dieAt j = s.dieAt j := rfl
@[simp] theorem yardAt_setStr (s : State) (d k : Nat) (x : Str) (j : Nat) : (s.setStr d k x).yardAt j = s.yardAt j := rfl
@[simp] theorem byte_setStr (s : State) (d k : Nat) (x : Str) (j : Nat) : (s.setStr d k x).byte j = s.byte j := rfl
@[simp] theorem tag_setStr (s : State) (d k : Nat) (x : Str) (j : Nat) : (s.setStr d k x).tag j = s.tag j := rfl

@[simp] theorem ctxOf_setPg (s : State) (d k : Nat) (x : PortGroup) (j : Nat) : (s.setPg d k x).ctxOf j = s.ctxOf j := rfl
@[simp] theorem coreOf_setPg (s : State) (d k : Nat) (x : PortGroup) (j : Nat) : (s.setPg d k x).coreOf j = s.coreOf j := rfl
@[simp] theorem strAt_setPg (s : State) (d k : Nat) (x : PortGroup) (i j : Nat) : (s.setPg d k x).strAt i j = s.strAt i j := rfl
@[simp] theorem vaultAt_setPg (s : State) (d k : Nat) (x : PortGroup) (i j : Nat) : (s.setPg d k x).vaultAt i j = s.vaultAt i j := rfl
@[simp] theorem dieAt_setPg (s : State) (d k : Nat) (x : PortGroup) (j : Nat) : (s.setPg d k x).dieAt j = s.dieAt j := rfl
@[simp] theorem yardAt_setPg (s : State) (d k : Nat) (x : PortGroup) (j : Nat) : (s.setPg d k x).yardAt j = s.yardAt j := rfl
@[simp] theorem byte_setPg (s : State) (d k : Nat) (x : PortGroup) (j : Nat) : (s.setPg d k x).byte j = s.byte j := rfl
@[simp] theorem tag_setPg (s : State) (d k : Nat) (x : PortGroup) (j : Nat) : (s.setPg d k x).tag j = s.tag j := rfl

@[simp] theorem ctxOf_setVault (s : State) (d k : Nat) (x : Vault) (j : Nat) : (s.setVault d k x).ctxOf j = s.ctxOf j := rfl
@[simp] theorem coreOf_setVault (s : State) (d k : Nat) (x : Vault) (j : Nat) : (s.setVault d k x).coreOf j = s.coreOf j := rfl
@[simp] theorem strAt_setVault (s : State) (d k : Nat) (x : Vault) (i j : Nat) : (s.setVault d k x).strAt i j = s.strAt i j := rfl
@[simp] theorem pgAt_setVault (s : State) (d k : Nat) (x : Vault) (i j : Nat) : (s.setVault d k x).pgAt i j = s.pgAt i j := rfl
@[simp] theorem dieAt_setVault (s : State) (d k : Nat) (x : Vault) (j : Nat) : (s.setVault d k x).dieAt j = s.dieAt j := rfl
@[simp] theorem yardAt_setVault (s : State) (d k : Nat) (x : Vault) (j : Nat) : (s.setVault d k x).yardAt j = s.yardAt j := rfl
@[simp] theorem byte_setVault (s : State) (d k : Nat) (x : Vault) (j : Nat) : (s.setVault d k x).byte j = s.byte j := rfl
@[simp] theorem tag_setVault (s : State) (d k : Nat) (x : Vault) (j : Nat) : (s.setVault d k x).tag j = s.tag j := rfl

@[simp] theorem ctxOf_setDie (s : State) (d : Nat) (x : Die) (j : Nat) : (s.setDie d x).ctxOf j = s.ctxOf j := rfl
@[simp] theorem coreOf_setDie (s : State) (d : Nat) (x : Die) (j : Nat) : (s.setDie d x).coreOf j = s.coreOf j := rfl
@[simp] theorem strAt_setDie (s : State) (d : Nat) (x : Die) (i j : Nat) : (s.setDie d x).strAt i j = s.strAt i j := rfl
@[simp] theorem pgAt_setDie (s : State) (d : Nat) (x : Die) (i j : Nat) : (s.setDie d x).pgAt i j = s.pgAt i j := rfl
@[simp] theorem vaultAt_setDie (s : State) (d : Nat) (x : Die) (i j : Nat) : (s.setDie d x).vaultAt i j = s.vaultAt i j := rfl
@[simp] theorem yardAt_setDie (s : State) (d : Nat) (x : Die) (j : Nat) : (s.setDie d x).yardAt j = s.yardAt j := rfl
@[simp] theorem byte_setDie (s : State) (d : Nat) (x : Die) (j : Nat) : (s.setDie d x).byte j = s.byte j := rfl
@[simp] theorem tag_setDie (s : State) (d : Nat) (x : Die) (j : Nat) : (s.setDie d x).tag j = s.tag j := rfl

@[simp] theorem ctxOf_setYard (s : State) (y : Nat) (x : Yard) (j : Nat) : (s.setYard y x).ctxOf j = s.ctxOf j := rfl
@[simp] theorem coreOf_setYard (s : State) (y : Nat) (x : Yard) (j : Nat) : (s.setYard y x).coreOf j = s.coreOf j := rfl
@[simp] theorem strAt_setYard (s : State) (y : Nat) (x : Yard) (i j : Nat) : (s.setYard y x).strAt i j = s.strAt i j := rfl
@[simp] theorem pgAt_setYard (s : State) (y : Nat) (x : Yard) (i j : Nat) : (s.setYard y x).pgAt i j = s.pgAt i j := rfl
@[simp] theorem vaultAt_setYard (s : State) (y : Nat) (x : Yard) (i j : Nat) : (s.setYard y x).vaultAt i j = s.vaultAt i j := rfl
@[simp] theorem dieAt_setYard (s : State) (y : Nat) (x : Yard) (j : Nat) : (s.setYard y x).dieAt j = s.dieAt j := rfl
@[simp] theorem byte_setYard (s : State) (y : Nat) (x : Yard) (j : Nat) : (s.setYard y x).byte j = s.byte j := rfl
@[simp] theorem tag_setYard (s : State) (y : Nat) (x : Yard) (j : Nat) : (s.setYard y x).tag j = s.tag j := rfl

@[simp] theorem ctxOf_putBytes (s : State) (a : Nat) (l : List Byte) (j : Nat) : (s.putBytes a l).ctxOf j = s.ctxOf j := rfl
@[simp] theorem coreOf_putBytes (s : State) (a : Nat) (l : List Byte) (j : Nat) : (s.putBytes a l).coreOf j = s.coreOf j := rfl
@[simp] theorem strAt_putBytes (s : State) (a : Nat) (l : List Byte) (i j : Nat) : (s.putBytes a l).strAt i j = s.strAt i j := rfl
@[simp] theorem pgAt_putBytes (s : State) (a : Nat) (l : List Byte) (i j : Nat) : (s.putBytes a l).pgAt i j = s.pgAt i j := rfl
@[simp] theorem vaultAt_putBytes (s : State) (a : Nat) (l : List Byte) (i j : Nat) : (s.putBytes a l).vaultAt i j = s.vaultAt i j := rfl
@[simp] theorem dieAt_putBytes (s : State) (a : Nat) (l : List Byte) (j : Nat) : (s.putBytes a l).dieAt j = s.dieAt j := rfl
@[simp] theorem yardAt_putBytes (s : State) (a : Nat) (l : List Byte) (j : Nat) : (s.putBytes a l).yardAt j = s.yardAt j := rfl
@[simp] theorem tag_putBytes (s : State) (a : Nat) (l : List Byte) (j : Nat) : (s.putBytes a l).tag j = s.tag j := rfl

@[simp] theorem ctxOf_as (s : State) (a : Agent) (j : Nat) : (s.as a).ctxOf j = s.ctxOf j := rfl
@[simp] theorem coreOf_as (s : State) (a : Agent) (j : Nat) : (s.as a).coreOf j = s.coreOf j := rfl
@[simp] theorem strAt_as (s : State) (a : Agent) (i j : Nat) : (s.as a).strAt i j = s.strAt i j := rfl
@[simp] theorem pgAt_as (s : State) (a : Agent) (i j : Nat) : (s.as a).pgAt i j = s.pgAt i j := rfl
@[simp] theorem vaultAt_as (s : State) (a : Agent) (i j : Nat) : (s.as a).vaultAt i j = s.vaultAt i j := rfl
@[simp] theorem dieAt_as (s : State) (a : Agent) (j : Nat) : (s.as a).dieAt j = s.dieAt j := rfl
@[simp] theorem yardAt_as (s : State) (a : Agent) (j : Nat) : (s.as a).yardAt j = s.yardAt j := rfl
@[simp] theorem byte_as (s : State) (a : Agent) (j : Nat) : (s.as a).byte j = s.byte j := rfl
@[simp] theorem tag_as (s : State) (a : Agent) (j : Nat) : (s.as a).tag j = s.tag j := rfl

@[simp] theorem ctxOf_setTag (s : State) (w : Nat) (f : Bool) (j : Nat) : (s.setTag w f).ctxOf j = s.ctxOf j := by cases f <;> rfl
@[simp] theorem coreOf_setTag (s : State) (w : Nat) (f : Bool) (j : Nat) : (s.setTag w f).coreOf j = s.coreOf j := by cases f <;> rfl
@[simp] theorem strAt_setTag (s : State) (w : Nat) (f : Bool) (i j : Nat) : (s.setTag w f).strAt i j = s.strAt i j := by cases f <;> rfl
@[simp] theorem pgAt_setTag (s : State) (w : Nat) (f : Bool) (i j : Nat) : (s.setTag w f).pgAt i j = s.pgAt i j := by cases f <;> rfl
@[simp] theorem vaultAt_setTag (s : State) (w : Nat) (f : Bool) (i j : Nat) : (s.setTag w f).vaultAt i j = s.vaultAt i j := by cases f <;> rfl
@[simp] theorem dieAt_setTag (s : State) (w : Nat) (f : Bool) (j : Nat) : (s.setTag w f).dieAt j = s.dieAt j := by cases f <;> rfl
@[simp] theorem yardAt_setTag (s : State) (w : Nat) (f : Bool) (j : Nat) : (s.setTag w f).yardAt j = s.yardAt j := by cases f <;> rfl
@[simp] theorem byte_setTag (s : State) (w : Nat) (f : Bool) (j : Nat) : (s.setTag w f).byte j = s.byte j := by cases f <;> rfl

@[simp] theorem ctxOf_modPkg (s : State) (f : Pkg → Pkg) (j : Nat) : (s.modPkg f).ctxOf j = s.ctxOf j := rfl
@[simp] theorem coreOf_modPkg (s : State) (f : Pkg → Pkg) (j : Nat) : (s.modPkg f).coreOf j = s.coreOf j := rfl
@[simp] theorem strAt_modPkg (s : State) (f : Pkg → Pkg) (i j : Nat) : (s.modPkg f).strAt i j = s.strAt i j := rfl
@[simp] theorem pgAt_modPkg (s : State) (f : Pkg → Pkg) (i j : Nat) : (s.modPkg f).pgAt i j = s.pgAt i j := rfl
@[simp] theorem vaultAt_modPkg (s : State) (f : Pkg → Pkg) (i j : Nat) : (s.modPkg f).vaultAt i j = s.vaultAt i j := rfl
@[simp] theorem dieAt_modPkg (s : State) (f : Pkg → Pkg) (j : Nat) : (s.modPkg f).dieAt j = s.dieAt j := rfl
@[simp] theorem yardAt_modPkg (s : State) (f : Pkg → Pkg) (j : Nat) : (s.modPkg f).yardAt j = s.yardAt j := rfl
@[simp] theorem byte_modPkg (s : State) (f : Pkg → Pkg) (j : Nat) : (s.modPkg f).byte j = s.byte j := rfl
@[simp] theorem tag_modPkg (s : State) (f : Pkg → Pkg) (j : Nat) : (s.modPkg f).tag j = s.tag j := rfl

/-! ## The present agent's units -/

@[simp] theorem key_setCtxOf (s : State) (k : Nat) (c : Ctx) : (s.setCtxOf k c).key = s.key := rfl
@[simp] theorem me_setCtxOf_key (s : State) (c : Ctx) : (s.setCtxOf s.key c).me = c := ctxOf_setCtxOf_self s s.key c
@[simp] theorem me_setCoreOf (s : State) (k : Nat) (c : Core) : (s.setCoreOf k c).me = s.me := rfl
@[simp] theorem me_setStr (s : State) (d k : Nat) (x : Str) : (s.setStr d k x).me = s.me := rfl
@[simp] theorem me_setPg (s : State) (d k : Nat) (x : PortGroup) : (s.setPg d k x).me = s.me := rfl
@[simp] theorem me_setVault (s : State) (d k : Nat) (x : Vault) : (s.setVault d k x).me = s.me := rfl
@[simp] theorem me_setDie (s : State) (d : Nat) (x : Die) : (s.setDie d x).me = s.me := rfl
@[simp] theorem me_setYard (s : State) (y : Nat) (x : Yard) : (s.setYard y x).me = s.me := rfl
@[simp] theorem me_putBytes (s : State) (a : Nat) (l : List Byte) : (s.putBytes a l).me = s.me := rfl
@[simp] theorem me_setTag (s : State) (w : Nat) (f : Bool) : (s.setTag w f).me = s.me := by cases f <;> rfl
@[simp] theorem myCore_setCtxOf (s : State) (k : Nat) (c : Ctx) : (s.setCtxOf k c).myCore = s.myCore := rfl
@[simp] theorem myCore_setCoreOf (s : State) (c : Core) : (s.setCoreOf s.ckey c).myCore = c := coreOf_setCoreOf_self s s.ckey c
@[simp] theorem myCore_setDie (s : State) (d : Nat) (x : Die) : (s.setDie d x).myCore = s.myCore := rfl
@[simp] theorem myCore_setStr (s : State) (d k : Nat) (x : Str) : (s.setStr d k x).myCore = s.myCore := rfl
@[simp] theorem myDie_setCtxOf (s : State) (k : Nat) (c : Ctx) : (s.setCtxOf k c).myDie = s.myDie := rfl
@[simp] theorem myDie_setCoreOf (s : State) (k : Nat) (c : Core) : (s.setCoreOf k c).myDie = s.myDie := rfl
@[simp] theorem myStr_setCtxOf (s : State) (k : Nat) (c : Ctx) : (s.setCtxOf k c).myStr = s.myStr := rfl
@[simp] theorem myStr_setCoreOf (s : State) (k : Nat) (c : Core) : (s.setCoreOf k c).myStr = s.myStr := rfl
@[simp] theorem myStr_setDie (s : State) (d : Nat) (x : Die) : (s.setDie d x).myStr = s.myStr := rfl

/-- Two contexts of the package have one key only if they are one context. -/
theorem ctxKey_inj {d c x d' c' x' : Nat} (hc : c < 2048) (hc' : c' < 2048) (hx : x < 4) (hx' : x' < 4)
    (h : ctxKey d c x = ctxKey d' c' x') : d = d' ∧ c = c' ∧ x = x' := by
  unfold ctxKey at h
  omega

theorem coreKey_inj {d c d' c' : Nat} (hc : c < 2048) (hc' : c' < 2048) (h : coreKey d c = coreKey d' c') : d = d' ∧ c = c' := by
  unfold coreKey at h
  omega

end Sys2Proof.Machine
end

