-- ==== Sys2Proof/Laws/Memory.lean ====
section
/-!
SUPPORT. Sys2Proof/Laws/Memory.lean: a byte of memory read after a write, and the canonical form of memory, which every memory
operation keeps.
-/

namespace Sys2Proof.Machine

namespace Mem

/-- The bound that the addresses of a memory exceed. -/
def above (lo : Option Nat) (a : Nat) : Prop := ∀ l, lo = some l → l < a

theorem wfFrom_cons (lo : Option Nat) (j : Nat) (v : Byte) (m : List Host.Cell) :
    Mem.wfFrom lo ((j, v) :: m) = true ↔ above lo j ∧ v ≠ 0 ∧ Mem.wfFrom (some j) m = true := by
  cases lo <;> simp [Mem.wfFrom, above, and_assoc]

theorem above_trans {lo : Option Nat} {a b : Nat} (h : above lo a) (hab : a ≤ b) : above lo b :=
  fun l hl => Nat.lt_of_lt_of_le (h l hl) hab

theorem wfFrom_mono {lo lo' : Option Nat} {m : List Host.Cell} (h : Mem.wfFrom lo m = true)
    (hl : ∀ a, above lo a → above lo' a) : Mem.wfFrom lo' m = true := by
  cases m with
  | nil => cases lo' <;> rfl
  | cons p m =>
    obtain ⟨j, v⟩ := p
    rw [wfFrom_cons] at h ⊢
    exact ⟨hl j h.1, h.2⟩

/-- Below its bound a memory lists nothing. -/
theorem get_below {lo : Nat} {m : List Host.Cell} (h : Mem.wfFrom (some lo) m = true) {a : Nat} (ha : a ≤ lo) :
    Mem.get m a = 0 := by
  induction m generalizing lo with
  | nil => rfl
  | cons p m ih =>
    obtain ⟨j, v⟩ := p
    rw [wfFrom_cons] at h
    have hj : lo < j := h.1 lo rfl
    simp only [Mem.get]
    rw [if_neg (by omega)]
    exact ih h.2.2 (by omega)

theorem wf_erase {lo : Option Nat} {m : List Host.Cell} (a : Nat) (h : Mem.wfFrom lo m = true) :
    Mem.wfFrom lo (Mem.erase m a) = true := by
  induction m generalizing lo with
  | nil => exact h
  | cons p m ih =>
    obtain ⟨j, v⟩ := p
    rw [wfFrom_cons] at h
    simp only [Mem.erase]
    split
    · exact wfFrom_mono h.2.2 fun b hb => above_trans h.1 (Nat.le_of_lt (hb j rfl))
    · split
      · rw [wfFrom_cons]; exact h
      · rw [wfFrom_cons]; exact ⟨h.1, h.2.1, ih h.2.2⟩

theorem wf_insert {lo : Option Nat} {m : List Host.Cell} {a : Nat} {b : Byte} (h : Mem.wfFrom lo m = true) (ha : above lo a)
    (hb : b ≠ 0) : Mem.wfFrom lo (Mem.insert m a b) = true := by
  induction m generalizing lo with
  | nil => simp only [Mem.insert]; rw [wfFrom_cons]; exact ⟨ha, hb, rfl⟩
  | cons p m ih =>
    obtain ⟨j, v⟩ := p
    rw [wfFrom_cons] at h
    simp only [Mem.insert]
    split <;> rename_i hj
    · rw [wfFrom_cons, wfFrom_cons]
      exact ⟨ha, hb, fun l hl => by cases hl; exact hj, h.2⟩
    · split <;> rename_i hk
      · subst hk; rw [wfFrom_cons]; exact ⟨ha, hb, h.2.2⟩
      · rw [wfFrom_cons]
        exact ⟨h.1, h.2.1, ih h.2.2 fun l hl => by cases hl; omega⟩

theorem get_erase {lo : Option Nat} {m : List Host.Cell} (h : Mem.wfFrom lo m = true) (a j : Nat) :
    Mem.get (Mem.erase m a) j = if j = a then 0 else Mem.get m j := by
  induction m generalizing lo with
  | nil => simp [Mem.erase, Mem.get]
  | cons p m ih =>
    obtain ⟨i, v⟩ := p
    rw [wfFrom_cons] at h
    simp only [Mem.erase]
    split <;> rename_i hi
    · subst hi
      by_cases hj : j = i
      · subst hj; rw [if_pos rfl]; exact get_below h.2.2 (Nat.le_refl _)
      · simp [Mem.get, hj, Ne.symm hj]
    · split <;> rename_i hlt
      · by_cases hj : j = a
        · subst hj
          simp only [Mem.get, if_neg hi, if_true]
          exact get_below h.2.2 (Nat.le_of_lt hlt)
        · simp [hj]
      · simp only [Mem.get, ih h.2.2]
        by_cases hj : j = a
        · subst hj; simp [hi]
        · simp [hj]

theorem get_insert {lo : Option Nat} {m : List Host.Cell} (h : Mem.wfFrom lo m = true) (a j : Nat) (b : Byte) :
    Mem.get (Mem.insert m a b) j = if j = a then b else Mem.get m j := by
  induction m generalizing lo with
  | nil => by_cases hj : j = a <;> simp [Mem.insert, Mem.get, hj]; intro h; exact absurd h.symm hj
  | cons p m ih =>
    obtain ⟨i, v⟩ := p
    rw [wfFrom_cons] at h
    simp only [Mem.insert]
    split
    · by_cases hj : j = a
      · subst hj; simp [Mem.get]
      · simp [Mem.get, hj, Ne.symm hj]
    · split <;> rename_i hk
      · subst hk
        by_cases hj : j = a
        · subst hj; simp [Mem.get]
        · simp [Mem.get, hj, Ne.symm hj]
      · simp only [Mem.get, ih h.2.2]
        by_cases hj : j = a
        · subst hj; simp [Ne.symm hk]
        · simp [hj]

/-- A write keeps the canonical form. -/
theorem wf_set {m : List Host.Cell} (a : Nat) (b : Byte) (h : Memory.wf m = true) : Memory.wf (Mem.set m a b) = true := by
  unfold Mem.set
  split
  · exact wf_erase a h
  · exact wf_insert h (fun l hl => by cases hl) ‹_›

/-- A byte read after a byte was written. -/
theorem get_set {m : List Host.Cell} (h : Memory.wf m = true) (a j : Nat) (b : Byte) :
    Mem.get (Mem.set m a b) j = if j = a then b else Mem.get m j := by
  unfold Mem.set
  split <;> rename_i hb
  · subst hb; exact get_erase h a j
  · exact get_insert h a j b

theorem wf_setList {m : List Host.Cell} (a : Nat) (l : List Byte) (h : Memory.wf m = true) :
    Memory.wf (Mem.setList m a l) = true := by
  induction l generalizing m a with
  | nil => exact h
  | cons b l ih => exact ih (a + 1) (wf_set a b h)

/-- A byte read after bytes were written from an address on. -/
theorem get_setList {m : List Host.Cell} (h : Memory.wf m = true) (a j : Nat) (l : List Byte) :
    Mem.get (Mem.setList m a l) j = if a ≤ j ∧ j < a + l.length then l.getD (j - a) 0 else Mem.get m j := by
  induction l generalizing m a with
  | nil => simp only [Mem.setList, List.length_nil]; rw [if_neg (by omega)]
  | cons b l ih =>
    simp only [Mem.setList]
    rw [ih (wf_set a b h), get_set h]
    by_cases h1 : j = a
    · subst h1
      rw [if_neg (by omega), if_pos rfl, if_pos (by simp)]
      simp
    · by_cases h2 : a + 1 ≤ j ∧ j < a + 1 + l.length
      · rw [if_pos h2, if_pos (by simp; omega)]
        obtain ⟨k, hk⟩ : ∃ k, j = a + 1 + k := ⟨j - (a + 1), by omega⟩
        subst hk
        have : a + 1 + k - a = k + 1 := by omega
        simp [this]
      · rw [if_neg h2, if_neg h1, if_neg (by simp; omega)]

/-- Entries dropped by their address keep the canonical form. -/
theorem wf_filter {lo : Option Nat} {m : List Host.Cell} (p : Host.Cell → Bool) (h : Mem.wfFrom lo m = true) :
    Mem.wfFrom lo (m.filter p) = true := by
  induction m generalizing lo with
  | nil => exact h
  | cons q m ih =>
    obtain ⟨j, v⟩ := q
    rw [wfFrom_cons] at h
    rw [List.filter_cons]
    split
    · rw [wfFrom_cons]; exact ⟨h.1, h.2.1, ih h.2.2⟩
    · exact wfFrom_mono (ih h.2.2) fun b hb => above_trans h.1 (Nat.le_of_lt (hb j rfl))

/-- In canonical form equal memories are equal data. -/
theorem ext {lo lo' : Option Nat} {m m' : List Host.Cell} (h : Mem.wfFrom lo m = true) (h' : Mem.wfFrom lo' m' = true)
    (he : ∀ a, Mem.get m a = Mem.get m' a) : m = m' := by
  induction m generalizing lo lo' m' with
  | nil =>
    cases m' with
    | nil => rfl
    | cons p m' =>
      obtain ⟨j, v⟩ := p
      rw [wfFrom_cons] at h'
      exact absurd (he j).symm (by simpa [Mem.get] using h'.2.1)
  | cons p m ih =>
    obtain ⟨i, u⟩ := p
    rw [wfFrom_cons] at h
    cases m' with
    | nil => exact absurd (he i) (by simpa [Mem.get] using h.2.1)
    | cons q m' =>
      obtain ⟨j, v⟩ := q
      rw [wfFrom_cons] at h'
      have hij : i = j := by
        rcases Nat.lt_trichotomy i j with hlt | heq | hgt
        · have := he i
          simp only [Mem.get, if_true, if_neg (show j ≠ i by omega)] at this
          rw [get_below h'.2.2 (by omega)] at this
          exact absurd this h.2.1
        · exact heq
        · have := he j
          simp only [Mem.get, if_true, if_neg (show i ≠ j by omega)] at this
          rw [get_below h.2.2 (by omega)] at this
          exact absurd this.symm h'.2.1
      subst hij
      have huv : u = v := by simpa [Mem.get] using he i
      subst huv
      rw [ih h.2.2 h'.2.2 fun a => ?_]
      by_cases ha : a ≤ i
      · rw [get_below h.2.2 ha, get_below h'.2.2 ha]
      · simpa [Mem.get, show i ≠ a by omega] using he a

end Mem

/-! ## The memory operations of the state -/

theorem wf_putBytes {s : State} (a : Nat) (l : List Byte) (h : Memory.wf s.mem = true) : Memory.wf (s.putBytes a l).mem = true :=
  Mem.wf_setList a l h

theorem byte_putBytes {s : State} (h : Memory.wf s.mem = true) (a j : Nat) (l : List Byte) :
    (s.putBytes a l).byte j = if a ≤ j ∧ j < a + l.length then l.getD (j - a) 0 else s.byte j := Mem.get_setList h a j l

@[simp] theorem mem_eccFresh (s : State) (a n : Nat) : (s.eccFresh a n).mem = s.mem := rfl
@[simp] theorem mem_eccCount (s : State) (d : Nat) : (s.eccCount d).mem = s.mem := rfl
theorem mem_eccCorrect (s : State) (d a n : Nat) : (s.eccCorrect d a n).mem = s.mem := by
  simp only [State.eccCorrect]
  split <;> rfl

@[simp] theorem mem_settle (s : State) (a n : Nat) : (s.settle a n).mem = s.mem := rfl
@[simp] theorem mem_noteWrite (s : State) (a n : Nat) (who : Agent) (uid cls : Nat) (old : Nat → Word) :
    (s.noteWrite a n who uid cls old).mem = s.mem := rfl
@[simp] theorem mem_seeFor (s : State) (who : Agent) (cls a n : Nat) : (s.seeFor who cls a n).mem = s.mem := rfl

theorem wf_lsPutFor {s : State} (who : Agent) (uid cls d c o : Nat) (l : List Byte) (h : Memory.wf s.mem = true) :
    Memory.wf (s.lsPutFor who uid cls d c o l).mem = true := wf_putBytes _ l h

theorem wf_lsPutSeen {s : State} (d c o : Nat) (l : List Byte) (h : Memory.wf s.mem = true) :
    Memory.wf (s.lsPutSeen d c o l).mem = true := wf_putBytes _ l h

theorem wf_lsPut {s : State} (d c o : Nat) (l : List Byte) (h : Memory.wf s.mem = true) :
    Memory.wf (s.lsPut d c o l).mem = true := by
  unfold State.lsPut
  split
  · exact wf_lsPutFor _ _ _ d c o l h
  · split
    · exact wf_lsPutFor _ _ _ d c o l h
    · exact wf_lsPutFor _ _ _ d c o _ h

theorem wf_rekey {s : State} (k u : Nat) (h : Memory.wf s.mem = true) : Memory.wf (s.rekey k u).mem = true := by
  unfold State.rekey
  split
  · exact h
  · exact wf_putBytes _ _ h

theorem wf_writeAs {s : State} (k a : Nat) (l : List Byte) (h : Memory.wf s.mem = true) :
    Memory.wf (s.writeAs k a l).mem = true := by
  unfold State.writeAs
  refine wf_putBytes _ _ ?_
  generalize unitsOf a l.length = us
  induction us generalizing s with
  | nil => exact h
  | cons u us ih => exact ih (wf_rekey k u h)

theorem wf_writeFor {s : State} (who : Agent) (uid cls k a : Nat) (l : List Byte) (h : Memory.wf s.mem = true) :
    Memory.wf (s.writeFor who uid cls k a l).mem = true := by
  unfold State.writeFor
  refine wf_putBytes _ _ ?_
  generalize unitsOf a l.length = us
  have h : Memory.wf (s.noteWrite a l.length who uid cls fun w => word (bytesNat (s.readAs k (8 * w) 8))).mem = true := h
  revert h
  generalize (s.noteWrite a l.length who uid cls fun w => word (bytesNat (s.readAs k (8 * w) 8))) = t
  intro h
  induction us generalizing t with
  | nil => exact h
  | cons u us ih => exact ih _ (wf_rekey k u h)

theorem bytesAt_congr {s t : State} {a n : Nat} (h : ∀ j, a ≤ j → j < a + n → t.byte j = s.byte j) :
    t.bytesAt a n = s.bytesAt a n := by
  induction n generalizing a with
  | zero => rfl
  | succ n ih =>
    simp only [State.bytesAt]
    rw [h a (Nat.le_refl _) (by omega), ih fun j h1 h2 => h j (by omega) (by omega)]

@[simp] theorem length_bytesAt (s : State) (a n : Nat) : (s.bytesAt a n).length = n := by
  induction n generalizing a with
  | zero => rfl
  | succ n ih => simp [State.bytesAt, ih]

/-- Bytes read where they were written. -/
theorem bytesAt_putBytes {s : State} (h : Memory.wf s.mem = true) (a : Nat) (l : List Byte) :
    (s.putBytes a l).bytesAt a l.length = l := by
  apply List.ext_getElem (by simp)
  intro i h1 h2
  have hb : ∀ (t : State) (a n i : Nat) (hi : i < (t.bytesAt a n).length), (t.bytesAt a n)[i] = t.byte (a + i) := by
    intro t a n
    induction n generalizing a with
    | zero => intro i hi; simp [State.bytesAt] at hi
    | succ n ih =>
      intro i hi
      cases i with
      | zero => rfl
      | succ i =>
        simp only [State.bytesAt, List.getElem_cons_succ]
        rw [ih]
        congr 1
        omega
  rw [hb, byte_putBytes h, if_pos (by omega)]
  simp [h2]

end Sys2Proof.Machine
end

