-- ==== Sys2Proof/Laws/Registers.lean ====
section
/-!
SUPPORT. Sys2Proof/Laws/Registers.lean: what registers read after a write, and what retiring, taking a trap and returning from one
do to the context.
-/

namespace Sys2Proof.Machine

/-! ## Bits of a word -/

@[simp] theorem toNat_word (v : Nat) : (word v).toNat = v % 2 ^ 64 := by simp [word]

theorem bits_lt {n : Nat} (w : BitVec n) (hi lo : Nat) : bits w hi lo < 2 ^ (hi + 1 - lo) :=
  Nat.mod_lt _ (Nat.two_pow_pos _)

theorem bit_eq {n : Nat} (w : BitVec n) (i : Nat) : bit w i = decide (w.toNat / 2 ^ i % 2 = 1) := by
  unfold bit
  rw [← BitVec.testBit_toNat, Nat.testBit_eq_decide_div_mod_eq]

theorem bits_eq_bit {n : Nat} (w : BitVec n) (i : Nat) : bits w i i = bnat (bit w i) := by
  have h : w.toNat / 2 ^ i % 2 = 0 ∨ w.toNat / 2 ^ i % 2 = 1 := by omega
  rw [bit_eq]
  unfold bits bnat
  rw [show i + 1 - i = 1 by omega]
  rcases h with h | h <;> simp [h]

/-! ## Scalar registers (R223) -/

@[simp] theorem getS_zero (r : Regs) : r.getS 0 = 0 := rfl
@[simp] theorem setS_zero (r : Regs) (v : Word) : r.setS 0 v = r := rfl

theorem getS_setS (r : Regs) {n k : Nat} (v : Word) (hn : n < 28) :
    (r.setS n v).getS k = if k = n ∧ n ≠ 0 then v else r.getS k := by
  unfold Regs.setS Regs.getS
  by_cases h0 : n = 0
  · simp [h0]
  · by_cases hk : k = 0
    · simp [h0, hk, Ne.symm h0]
    · simp only [h0, hk, if_false]
      by_cases he : k = n
      · subst he; simp [hn, h0]
      · simp [he, Ne.symm he]

@[simp] theorem setS_p (r : Regs) (n : Nat) (v : Word) : (r.setS n v).p = r.p := by unfold Regs.setS; split <;> rfl
@[simp] theorem setS_e (r : Regs) (n : Nat) (v : Word) : (r.setS n v).e = r.e := by unfold Regs.setS; split <;> rfl
@[simp] theorem setS_h (r : Regs) (n : Nat) (v : Word) : (r.setS n v).h = r.h := by unfold Regs.setS; split <;> rfl
@[simp] theorem setS_q (r : Regs) (n : Nat) (v : Word) : (r.setS n v).q = r.q := by unfold Regs.setS; split <;> rfl
@[simp] theorem setS_pc (r : Regs) (n : Nat) (v : Word) : (r.setS n v).pc = r.pc := by unfold Regs.setS; split <;> rfl
@[simp] theorem setS_csr (r : Regs) (n : Nat) (v : Word) : (r.setS n v).csr = r.csr := by unfold Regs.setS; split <;> rfl
@[simp] theorem setS_repBuf (r : Regs) (n : Nat) (v : Word) : (r.setS n v).repBuf = r.repBuf := by
  unfold Regs.setS; split <;> rfl
@[simp] theorem setS_live (r : Regs) (n : Nat) (v : Word) : (r.setS n v).live = r.live := by unfold Regs.setS; split <;> rfl

/-! ## Predicates (R225) -/

@[simp] theorem getP_zero (r : Regs) : r.getP 0 = true := rfl
@[simp] theorem setP_zero (r : Regs) (b : Bool) : r.setP 0 b = r := rfl
@[simp] theorem setP_s (r : Regs) (n : Nat) (b : Bool) : (r.setP n b).s = r.s := by unfold Regs.setP; split <;> rfl
@[simp] theorem setP_e (r : Regs) (n : Nat) (b : Bool) : (r.setP n b).e = r.e := by unfold Regs.setP; split <;> rfl
@[simp] theorem setP_h (r : Regs) (n : Nat) (b : Bool) : (r.setP n b).h = r.h := by unfold Regs.setP; split <;> rfl
@[simp] theorem setP_q (r : Regs) (n : Nat) (b : Bool) : (r.setP n b).q = r.q := by unfold Regs.setP; split <;> rfl
@[simp] theorem setP_pc (r : Regs) (n : Nat) (b : Bool) : (r.setP n b).pc = r.pc := by unfold Regs.setP; split <;> rfl
@[simp] theorem setP_csr (r : Regs) (n : Nat) (b : Bool) : (r.setP n b).csr = r.csr := by unfold Regs.setP; split <;> rfl

/-! ## Extension, shape, system registers and queues -/

theorem getE_setE (r : Regs) {n k : Nat} (v : Word) (hn : n < 8) : (r.setE n v).getE k = if k = n then v else r.getE k := by
  unfold Regs.setE Regs.getE
  by_cases h : k = n
  · subst h; simp [hn]
  · simp [h, Ne.symm h]

theorem getH_setH (r : Regs) {n k : Nat} (v : Word) (hn : n < 8) : (r.setH n v).getH k = if k = n then v else r.getH k := by
  unfold Regs.setH Regs.getH
  by_cases h : k = n
  · subst h; simp [hn]
  · simp [h, Ne.symm h]

theorem getQ_setQ (r : Regs) {n k : Nat} (l : List Word) (hn : n < 4) :
    (r.setQ n l).getQ k = if k = n then l else r.getQ k := by
  unfold Regs.setQ Regs.getQ
  by_cases h : k = n
  · subst h; simp [hn]
  · simp [h, Ne.symm h]

theorem getCsr_setCsr (r : Regs) (n k : Nat) (v : Word) : (r.setCsr n v).getCsr k = if k = n then v else r.getCsr k :=
  SMap.getD_set _ _ _ _ _

@[simp] theorem getCsr_setCsr_self (r : Regs) (n : Nat) (v : Word) : (r.setCsr n v).getCsr n = v := by simp [getCsr_setCsr]
@[simp] theorem setCsr_s (r : Regs) (n : Nat) (v : Word) : (r.setCsr n v).s = r.s := rfl
@[simp] theorem setCsr_p (r : Regs) (n : Nat) (v : Word) : (r.setCsr n v).p = r.p := rfl
@[simp] theorem setCsr_e (r : Regs) (n : Nat) (v : Word) : (r.setCsr n v).e = r.e := rfl
@[simp] theorem setCsr_h (r : Regs) (n : Nat) (v : Word) : (r.setCsr n v).h = r.h := rfl
@[simp] theorem setCsr_q (r : Regs) (n : Nat) (v : Word) : (r.setCsr n v).q = r.q := rfl
@[simp] theorem setCsr_pc (r : Regs) (n : Nat) (v : Word) : (r.setCsr n v).pc = r.pc := rfl
@[simp] theorem setCsr_live (r : Regs) (n : Nat) (v : Word) : (r.setCsr n v).live = r.live := rfl

/-! ## Counting and retirement (R184, R392) -/

@[simp] theorem count_mem (s : State) (n k : Nat) : (s.count n k).mem = s.mem := by
  simp only [State.count]; split <;> rfl
@[simp] theorem count_cores (s : State) (n k : Nat) : (s.count n k).cores = s.cores := by
  simp only [State.count]; split <;> rfl
@[simp] theorem count_strs (s : State) (n k : Nat) : (s.count n k).strs = s.strs := by
  simp only [State.count]; split <;> rfl
@[simp] theorem count_pgs (s : State) (n k : Nat) : (s.count n k).pgs = s.pgs := by
  simp only [State.count]; split <;> rfl
@[simp] theorem count_vaults (s : State) (n k : Nat) : (s.count n k).vaults = s.vaults := by
  simp only [State.count]; split <;> rfl
@[simp] theorem count_cur (s : State) (n k : Nat) : (s.count n k).cur = s.cur := by
  simp only [State.count]; split <;> rfl
@[simp] theorem count_wt (s : State) (n k : Nat) : (s.count n k).wt = s.wt := by
  simp only [State.count]; split <;> rfl
@[simp] theorem count_full (s : State) (n k : Nat) : (s.count n k).full = s.full := by
  simp only [State.count]; split <;> rfl
@[simp] theorem count_bad (s : State) (n k : Nat) : (s.count n k).bad = s.bad := by
  simp only [State.count]; split <;> rfl
@[simp] theorem count_pkg (s : State) (n k : Nat) : (s.count n k).pkg = s.pkg := by
  simp only [State.count]; split <;> rfl
@[simp] theorem count_images (s : State) (n k : Nat) : (s.count n k).images = s.images := by
  simp only [State.count]; split <;> rfl

/-- Counting changes nothing of a context but its counters. -/
theorem count_ctxOf (s : State) (n k j : Nat) : (s.count n k).ctxOf j =
    if j = s.key then { s.me with cnt := s.me.cnt.setIfInBounds n (s.me.cnt[n]?.getD 0 + word k) } else s.ctxOf j := by
  simp only [State.count]
  split <;> simp only [ctxOf_modMe, ctxOf_modMyDie]

@[simp] theorem retire_mem (s : State) (n : Nat) : (s.retire n).mem = s.mem := by simp [State.retire]
@[simp] theorem retire_cores (s : State) (n : Nat) : (s.retire n).cores = s.cores := by simp [State.retire]
@[simp] theorem retire_strs (s : State) (n : Nat) : (s.retire n).strs = s.strs := by simp [State.retire]
@[simp] theorem retire_cur (s : State) (n : Nat) : (s.retire n).cur = s.cur := by simp [State.retire]
@[simp] theorem retire_full (s : State) (n : Nat) : (s.retire n).full = s.full := by simp [State.retire]
@[simp] theorem retire_key (s : State) (n : Nat) : (s.retire n).key = s.key := by simp [State.key]

/-- What retirement does to the present context: its stream's place advances, its request ends, its counter C1 advances. -/
theorem retire_me (s : State) (n : Nat) : (s.retire n).me =
    { s.me with
      regs := s.me.regs.advance s.cur.rep n
      wait := if s.cur.rep then s.me.wait else .idle
      waitRep := if s.cur.rep then .idle else s.me.waitRep
      wpos := if s.me.att && !s.cur.rep then s.me.wpos + 1 else s.me.wpos
      region := s.me.region.map fun r => { r with retired := r.retired + 1 }
      cnt := s.me.cnt.setIfInBounds 1 (s.me.cnt[1]?.getD 0 + word 1) } := by
  have h : (s.retire n).me = (s.retire n).ctxOf s.key := by rw [← retire_key s n]; rfl
  rw [h]
  simp [State.retire, count_ctxOf]

/-- Retirement leaves every other context as it was. -/
theorem retire_others (s : State) (n j : Nat) (h : j ≠ s.key) : (s.retire n).ctxOf j = s.ctxOf j := by
  simp [State.retire, count_ctxOf, ctxOf_modMe, h]

@[simp] theorem advance_s (r : Regs) (b : Bool) (n : Nat) : (r.advance b n).s = r.s := by unfold Regs.advance; cases b <;> rfl
@[simp] theorem advance_p (r : Regs) (b : Bool) (n : Nat) : (r.advance b n).p = r.p := by unfold Regs.advance; cases b <;> rfl
@[simp] theorem advance_e (r : Regs) (b : Bool) (n : Nat) : (r.advance b n).e = r.e := by unfold Regs.advance; cases b <;> rfl
@[simp] theorem advance_h (r : Regs) (b : Bool) (n : Nat) : (r.advance b n).h = r.h := by unfold Regs.advance; cases b <;> rfl
@[simp] theorem advance_q (r : Regs) (b : Bool) (n : Nat) : (r.advance b n).q = r.q := by unfold Regs.advance; cases b <;> rfl
theorem advance_pc (r : Regs) (b : Bool) (n : Nat) : (r.advance b n).pc = if b then r.pc else r.pc + word n := by
  unfold Regs.advance; cases b <;> rfl
theorem advance_csr (r : Regs) (b : Bool) (n k : Nat) (h : k ≠ Csr.tilepos) (h' : k ≠ Csr.reppos) :
    (r.advance b n).getCsr k = r.getCsr k := by
  unfold Regs.advance
  cases b
  · simp [Regs.getCsr, Regs.setCsr, SMap.getD_set, h]
  · simp [Regs.getCsr, Regs.setCsr, SMap.getD_set, h, h']

/-! ## Traps (R370, R372) -/

@[simp] theorem modLaunch_mem (s : State) (d : Nat) (l : LaunchInfo) (f : Launch → Launch) : (s.modLaunch d l f).mem = s.mem := by
  unfold State.modLaunch
  split
  · split <;> rfl
  · rfl
@[simp] theorem modLaunch_cores (s : State) (d : Nat) (l : LaunchInfo) (f : Launch → Launch) :
    (s.modLaunch d l f).cores = s.cores := by
  unfold State.modLaunch
  split
  · split <;> rfl
  · rfl
@[simp] theorem modLaunch_ctxs (s : State) (d : Nat) (l : LaunchInfo) (f : Launch → Launch) :
    (s.modLaunch d l f).ctxs = s.ctxs := by
  unfold State.modLaunch
  split
  · split <;> rfl
  · rfl
@[simp] theorem modLaunch_cur (s : State) (d : Nat) (l : LaunchInfo) (f : Launch → Launch) : (s.modLaunch d l f).cur = s.cur := by
  unfold State.modLaunch
  split
  · split <;> rfl
  · rfl

@[simp] theorem sendTrap_mem (s : State) (ws : List Word) : (s.sendTrap ws).mem = s.mem := by
  simp only [State.sendTrap]; split <;> rfl
@[simp] theorem sendTrap_cores (s : State) (ws : List Word) : (s.sendTrap ws).cores = s.cores := by
  simp only [State.sendTrap]; split <;> rfl
@[simp] theorem sendTrap_ctxs (s : State) (ws : List Word) : (s.sendTrap ws).ctxs = s.ctxs := by
  simp only [State.sendTrap]; split <;> rfl
@[simp] theorem sendTrap_cur (s : State) (ws : List Word) : (s.sendTrap ws).cur = s.cur := by
  simp only [State.sendTrap]; split <;> rfl

/-- Taking a trap changes no byte of memory. -/
@[simp] theorem enterTrap_mem (s : State) (c n : Nat) (a : Word) : (s.enterTrap c n a).mem = s.mem := by
  simp only [State.enterTrap]; split <;> simp
@[simp] theorem enterTrap_cores (s : State) (c n : Nat) (a : Word) : (s.enterTrap c n a).cores = s.cores := by
  simp only [State.enterTrap]; split <;> simp
@[simp] theorem enterTrap_cur (s : State) (c n : Nat) (a : Word) : (s.enterTrap c n a).cur = s.cur := by
  simp only [State.enterTrap]; split <;> simp

/-- What taking a trap does to the contexts: the present one parks, detached, with its three trap registers written; every other
one is as it was. -/
theorem enterTrap_ctxs (s : State) (c n : Nat) (a : Word) : (s.enterTrap c n a).ctxs = s.ctxs.set s.key
    { s.me with
      regs := ((s.me.regs.setCsr Csr.tcause (s.tcause c n)).setCsr Csr.tepc a).setCsr Csr.tstat s.tstat
      st := .parked
      att := false
      arrived := false
      prog := if s.cur.rep then s.me.prog else none
      progRep := if s.cur.rep then none else s.me.progRep
      wait := if !s.cur.rep || s.me.wait.faulted then .idle else s.me.wait
      waitRep := if s.cur.rep || s.me.waitRep.faulted then .idle else s.me.waitRep } := by
  simp only [State.enterTrap]
  split <;> simp only [sendTrap_ctxs, modLaunch_ctxs] <;> rfl

@[simp] theorem trap_mem (s : State) (c : Nat) : (s.trap c).mem = s.mem := enterTrap_mem s c 0 s.here
@[simp] theorem trap_cores (s : State) (c : Nat) : (s.trap c).cores = s.cores := enterTrap_cores s c 0 s.here
@[simp] theorem trap_cur (s : State) (c : Nat) : (s.trap c).cur = s.cur := enterTrap_cur s c 0 s.here
@[simp] theorem trapReply_mem (s : State) (r : Reply) : (s.trapReply r).mem = s.mem := by
  cases r <;> simp [State.trapReply, State.setCsr]

/-- Returning from a trap changes no byte of memory, and no context but the one that it names. -/
@[simp] theorem leaveTrap_mem (s : State) (k : Nat) (a : Word) : (s.leaveTrap k a).mem = s.mem := rfl
theorem leaveTrap_ctxOf (s : State) (k j : Nat) (a : Word) (h : j ≠ k) : (s.leaveTrap k a).ctxOf j = s.ctxOf j := by
  simp [State.leaveTrap, ctxOf_modCtx, h]

end Sys2Proof.Machine
end

