-- ==== Sys2Proof/Laws/Operands.lean ====
section
/-!
SUPPORT. Sys2Proof/Laws/Operands.lean: what the shared front of an instruction (guard, operands, wait for the repeat stream)
does when its operands are ready, when its guard is false and when it stops.
-/

namespace Sys2Proof.Machine

theorem readP_zero (s : State) : s.readP 0 = true := by simp [State.readP, Regs.getP]

theorem withOps_ready {s : State} {srcs : List (BitVec 5)} {dst : Option (BitVec 5)} {vs : List Word}
    {k : List Word → State → State} (h : Operands s srcs dst vs) : s.withOps srcs dst k = k vs s := by
  unfold State.withOps
  have h1 : (usesQueue srcs dst && s.inHandler) = false := by
    cases hq : usesQueue srcs dst
    · rfl
    · simp [h.task hq]
  rw [h1]
  have h2 := h.read
  cases ht : s.me.regs.take srcs with
  | none => rw [ht] at h2; cases h2
  | some x =>
    rw [ht] at h2
    simp only [Option.map_some, Option.some.injEq] at h2
    simp [h.room, h2]

theorem instr_ready {s : State} {g : BitVec 3} {srcs : List (BitVec 5)} {dst : Option (BitVec 5)} {vs : List Word}
    {len : Nat} {k : List Word → State → State} (h : Operands s srcs dst vs) (hg : s.readP g = true) :
    s.instr g srcs dst len k = k vs s := by
  simp [State.instr, State.guarded, h.way, hg, withOps_ready h]

theorem needIdle_quiet {s : State} {k : State → State} (h : s.cur.rep = true ∨ s.me.regs.repActive = false) :
    s.needIdle k = k s := by
  rcases h with h | h <;> simp [State.needIdle, h]

theorem instrIdle_ready {s : State} {g : BitVec 3} {srcs : List (BitVec 5)} {dst : Option (BitVec 5)} {vs : List Word}
    {len : Nat} {k : List Word → State → State} (h : Operands s srcs dst vs) (hg : s.readP g = true)
    (hi : s.cur.rep = true ∨ s.me.regs.repActive = false) : s.instrIdle g srcs dst len k = k vs s := by
  simp [State.instrIdle, State.guarded, h.way, hg, needIdle_quiet hi, withOps_ready h]

theorem instr_unguarded {s : State} {g : BitVec 3} {srcs : List (BitVec 5)} {dst : Option (BitVec 5)} {len : Nat}
    {k : List Word → State → State} (h : wrongWay s.cur.rep srcs dst = false) (hg : s.readP g = false) :
    s.instr g srcs dst len k = s.retire len := by
  simp [State.instr, State.guarded, h, hg]

theorem instrIdle_unguarded {s : State} {g : BitVec 3} {srcs : List (BitVec 5)} {dst : Option (BitVec 5)} {len : Nat}
    {k : List Word → State → State} (h : wrongWay s.cur.rep srcs dst = false) (hg : s.readP g = false) :
    s.instrIdle g srcs dst len k = s.retire len := by
  simp [State.instrIdle, State.guarded, h, hg]

theorem instr_wrongWay {s : State} {g : BitVec 3} {srcs : List (BitVec 5)} {dst : Option (BitVec 5)} {len : Nat}
    {k : List Word → State → State} (h : wrongWay s.cur.rep srcs dst = true) :
    s.instr g srcs dst len k = s.trap causeIllegal := by
  simp [State.instr, h]

/-- An instruction without scalar operands has them ready. -/
theorem operands_nil (s : State) : Operands s [] none [] :=
  ⟨by simp [wrongWay], by simp [usesQueue], rfl, rfl⟩

/-- What blocking on a queue can do: the deadlock trap, or nothing (R179). -/
theorem blocked_cases (s : State) (b : Bool) : s.blocked b = s.trap causeDeadlock ∨ s.blocked b = s := by
  unfold State.blocked
  split
  · exact .inr rfl
  · split
    · exact .inl rfl
    · exact .inr rfl

/-- What waiting for an idle repeat stream can do: go on, the deadlock trap, or nothing (R175, R179). -/
theorem needIdle_cases (s : State) (k : State → State) :
    s.needIdle k = k s ∨ s.needIdle k = s.trap causeDeadlock ∨ s.needIdle k = s := by
  unfold State.needIdle
  split
  · split
    · exact .inr (.inl rfl)
    · exact .inr (.inr rfl)
  · exact .inl rfl

/-- What a guard can do: go on, or retire (R218). -/
theorem guarded_cases (s : State) (g : BitVec 3) (n : Nat) (k : State → State) :
    (s.readP g = true ∧ s.guarded g n k = k s) ∨ (s.readP g = false ∧ s.guarded g n k = s.retire n) := by
  unfold State.guarded
  cases h : s.readP g <;> simp

/-- What reading the operands can do: go on with their values in the same state, trap, or nothing (R202, R224). -/
theorem withOps_cases (s : State) (srcs : List (BitVec 5)) (dst : Option (BitVec 5)) (k : List Word → State → State) :
    (∃ vs, (s.me.regs.take srcs).map (·.1) = some vs ∧ s.withOps srcs dst k = k vs s) ∨
      s.withOps srcs dst k = s.trap causeHandler ∨ s.withOps srcs dst k = s.trap causeDeadlock ∨ s.withOps srcs dst k = s := by
  unfold State.withOps
  split
  · exact .inr (.inl rfl)
  · cases ht : s.me.regs.take srcs with
    | none => rcases blocked_cases s true with h | h <;> simp [h]
    | some x =>
      simp only
      split
      · exact .inl ⟨x.1, rfl, rfl⟩
      · rcases blocked_cases s false with h | h <;> simp [h]

/-- What the front of an instruction can do: run its body on its operands, retire under a false guard, trap, or nothing. -/
theorem instr_cases (s : State) (g : BitVec 3) (srcs : List (BitVec 5)) (dst : Option (BitVec 5)) (n : Nat)
    (k : List Word → State → State) :
    (∃ vs, (s.me.regs.take srcs).map (·.1) = some vs ∧ s.instr g srcs dst n k = k vs s) ∨ s.instr g srcs dst n k = s.retire n ∨
      (∃ c, s.instr g srcs dst n k = s.trap c) ∨ s.instr g srcs dst n k = s := by
  unfold State.instr
  split
  · exact .inr (.inr (.inl ⟨_, rfl⟩))
  · rcases guarded_cases s g n fun s => s.withOps srcs dst k with ⟨-, h⟩ | ⟨-, h⟩
    · rw [h]
      rcases withOps_cases s srcs dst k with ⟨vs, h1, h2⟩ | h | h | h
      · exact .inl ⟨vs, h1, h2⟩
      · exact .inr (.inr (.inl ⟨_, h⟩))
      · exact .inr (.inr (.inl ⟨_, h⟩))
      · exact .inr (.inr (.inr h))
    · exact .inr (.inl h)

/-- A local-store read with its bytes in range of no error goes on with the bytes its class may see, and where a record shows, with
the record's (R78, R101, R136, R201). -/
theorem lsLoad_good {s : State} {off n c a : Nat} {k : List Byte → State → State}
    (h : s.eccHit (lsBase s.cur.die s.cur.core + off) n = false)
    (hs : (s.soft.filter fun w => (wordsOf (lsBase s.cur.die s.cur.core + off) n).contains w) = []) :
    s.lsLoad off n c a k = k (s.seen s.cur off (s.view s.cur c (lsBase s.cur.die s.cur.core + off) (s.lsRead off n)).1)
      (s.view s.cur c (lsBase s.cur.die s.cur.core + off) (s.lsRead off n)).2 := by
  have hc : s.eccCorrect s.cur.die (lsBase s.cur.die s.cur.core + off) n = s := by simp only [State.eccCorrect, hs]; rfl
  simp [State.lsLoad, h, hc]

/-- A read sees the latest bytes where no older write can be read (R136). -/
theorem view_latest {s : State} (h : s.older = []) (who : Agent) (c a : Nat) (l : List Byte) : s.view who c a l = (l, s) := by
  simp [State.view, h]

/-- What an access of the present instruction can do: an answered one goes on with its answer, one that was sent and not answered
waits, and one that has not been made goes on with a translation fault, is sent or held and waits, or is performed on its pieces,
all of them in vaults, at once. -/
theorem access_cases (s : State) (c : Nat) (va : Word) (runs : List (Nat × Nat)) (op : MemOp) (p : Bool) (o : BitVec 8)
    (k : Reply → State → State) :
    (∃ r, s.waiting = .answered r ∧ s.access c va runs op p o k = k r (s.setWait .idle)) ∨
    ((s.waiting = .sent ∨ ∃ r, s.waiting = .performed r) ∧ s.access c va runs op p o k = s) ∨
    (s.waiting = .idle ∧
      ((∃ f t, s.access c va runs op p o k = k (.xlat va f) t) ∨
       (∃ t : State, s.access c va runs op p o k = t.setWait .sent) ∨
       ∃ (t : State) (ps : List Piece), (ps.any fun x => !x.vault) = false ∧ s.access c va runs op p o k =
          k (t.performPieces s.cur.die (t.who c p o []) va op ps).1 (t.performPieces s.cur.die (t.who c p o []) va op ps).2)) := by
  cases hw : s.waiting with
  | answered r => exact .inl ⟨r, rfl, by simp [State.access, State.accessFor, hw]⟩
  | sent => exact .inr (.inl ⟨.inl rfl, by simp [State.access, State.accessFor, hw]⟩)
  | performed r => exact .inr (.inl ⟨.inr ⟨r, rfl⟩, by simp [State.access, State.accessFor, hw]⟩)
  | idle =>
    refine .inr (.inr ⟨rfl, ?_⟩)
    simp only [State.access, State.accessFor, hw]
    split
    · exact .inl ⟨_, s, rfl⟩
    · split <;> split
      · exact .inl ⟨_, _, rfl⟩
      · exact .inr (.inl ⟨_, rfl⟩)
      · exact .inl ⟨_, _, rfl⟩
      · split
        · exact .inr (.inl ⟨_, rfl⟩)
        · rename_i h
          exact .inr (.inr ⟨_, _, by simpa using h, rfl⟩)

end Sys2Proof.Machine
end

