-- ==== Sys2Proof/Tests/Slice0.lean ====
section
/-!
SUPPORT. Sys2Proof/Tests/Slice0.lean: own tests. Encodings written out in bits from R234 to R236 decode to what they stand for;
every check of `wf` refuses an ill-formed term; every statement with hypotheses has states and operands that meet them; and
steps of single instructions with results worked out by hand from the spec.
-/

namespace Sys2Proof.Tests

open Sys2Proof.Machine

-- one proof after another: many at once take a thread each while the kernel works
set_option Elab.async false

/-! ## Small states -/

/-- A running task on die 0, core 0, whose core has power and a clock. -/
def one (r : Regs) : State :=
  { ctxs := [(0, { st := .running, regs := r })]
    cores := [(0, { on := true, div := 1 })] }

/-- Scalar registers by number. -/
def sregs (l : List (Nat × Word)) : Regs := l.foldl (fun r p => r.setS p.1 p.2) {}

/-- The same state with another record of the running context. -/
def withMe (s : State) (f : Ctx → Ctx) : State := s.modMe f

/-- A result held against a condition. -/
def after (o : Host.Outcome State Fault Refusal) (p : State → Bool) : Bool :=
  match o with
  | .next t => p t
  | _ => false

/-! ## Well-formedness: an ill-formed term for each check -/

/-- R223, R224: scalar fields that name a queue in the wrong direction, or a queue as source and destination. -/
theorem test_wf_scalar :
    wf (.add 0 1 28 2) = false ∧ wf (.add 0 29 1 2) = false ∧ wf (.add 0 1 2 30) = false ∧ wf (.add 0 1 2 31) = false ∧
    wf (.cas 0 0 1 2 28) = false ∧ wf (.ffma 0 0 0 1 2 30) = false ∧ wf (.cAddi 30 1) = false ∧ wf (.jr 0 28) = false ∧
    wf (.qtryRd 0 1 1 3) = false ∧ wf (.qtryWr 0 1 2 3) = false ∧ wf (.qtryRd 0 1 2 28) = false ∧ wf (.qtryWr 0 1 0 30) = false ∧ wf (.csrr 0 0 28) = false ∧
    wf (.add 0 30 31 28) = true := by decide

/-- R225: a predicate destination of P0. -/
theorem test_wf_predicate :
    wf (.cmp 0 0 1 2 0) = false ∧ wf (.cmpi 0 0 0 2 0) = false ∧ wf (.pand 0 1 2 0) = false ∧ wf (.por 0 1 2 0) = false ∧
    wf (.pnot 0 1 0) = false ∧ wf (.ldfn 0 0 1 2) = false ∧ wf (.sten 0 0 1 2) = false ∧ wf (.fcmp 0 0 0 1 2 0) = false ∧
    wf (.cpyWPoll 0 0 1 2) = false ∧ wf (.sendn 0 0 1 2) = false ∧ wf (.spawnn 0 0 1 2) = false ∧ wf (.joinn 0 0 0 2) = false ∧
    wf (.launchn 0 1 2 0) = false ∧ wf (.barTest 0 1 2 0) = false ∧ wf (.qtryRd 0 0 2 3) = false := by decide

/-- R236: operation, condition, kind and code values that are not listed, and rounding modes from 101 on. -/
theorem test_wf_codes :
    wf (.cmp 0 10 1 2 1) = false ∧ wf (.cmpi 0 0 10 2 1) = false ∧ wf (.wid 0 7 1) = false ∧ wf (.rep 0 0 0) = false ∧
    wf (.lds 0 0 0 3 1 2) = false ∧ wf (.amo 0 0 9 1 2 3) = false ∧ wf (.red 0 0 0 1 2) = false ∧ wf (.red 0 0 9 1 2) = false ∧
    wf (.fadd 0 5 0 1 2 3) = false ∧ wf (.fcmp 0 5 0 1 2 1) = false ∧ wf (.fcvt 0 5 0 1 1 2) = false ∧
    wf (.fcvt 0 0 6 1 1 2) = false ∧ wf (.fcvt 0 0 1 6 1 2) = false ∧ wf (.fcvt 0 0 1 1 1 2) = false ∧
    wf (.fcvt 0 0 2 4 1 2) = false ∧ wf (.tred 0 0 0 3 0 0) = false := by decide

/-- R137, R140, R221, R231, R234: scopes, classes, register groups, system registers, and a 16-bit destination of S0. -/
theorem test_wf_fields :
    wf (.fence 0 12) = false ∧ wf (.fenceX 0 5 0 0) = false ∧ wf (.fenceX 0 0 5 0) = false ∧ wf (.fenceX 0 0 0 12) = false ∧
    -- a group of two registers at an odd number, and of eight at T4
    wf (.tzero 0 0 5) = false ∧ wf (.tzero 0 0 19) = false ∧ wf (.tadd 0 0 1 9 9) = false ∧ wf (.mma 0 5 0) = false ∧
    wf (.csrr 0 6 1) = false ∧ wf (.csrw 0 0x126 1) = false ∧ wf (.csrr 0 0x102 28) = false ∧
    wf (.cMov 0 1) = false ∧ wf (.cAddi 0 1) = false ∧ wf (.cAdd 0 1) = false ∧ wf (.cSub 0 1) = false := by decide

/-- R234 to R237: words that are no instruction: an opcode and a function that are not assigned, a reserved bit, a guard that must
be zero, and 16-bit words that R234 excludes. -/
theorem test_decode_refused :
    decode32 0b000_00000_00000_00000_00000_0010111_11 = .error .opcode ∧
    decode32 0b000_10111_00011_00010_00001_0000001_11 = .error .function ∧
    decode32 0b000_10011_00001_00010_00001_0000001_11 = .error .reserved ∧
    decode32 0b001_00010_00000_00000_00000_0010011_11 = .error .reserved ∧
    decode32 0b000_00000_00011_11101_00001_0000001_11 = .error .fieldValue ∧
    decode16 0 = .error .compactForm ∧ decode16 0b0000000000011001 = .error .compactForm ∧
    decode16 0b0000000000000010 = .error .compactForm := ⟨rfl, rfl, rfl, rfl, rfl, rfl, rfl, rfl⟩

/-! ## Decoding: one word for every constructor -/

/-- R234 to R236: scalar integer words of OP 0x01. -/
theorem test_decode_integer :
    decodeTableWord 32 0b10100000010101001111011000000111 = some (.add 5 10 19 27) ∧
    decodeTableWord 32 0b10100001010101001111011000000111 = some (.sub 5 10 19 27) ∧
    decodeTableWord 32 0b10100010010101001111011000000111 = some (.mul 5 10 19 27) ∧
    decodeTableWord 32 0b10100011010101001111011000000111 = some (.mulh 5 10 19 27) ∧
    decodeTableWord 32 0b10100100010101001111011000000111 = some (.mulhU 5 10 19 27) ∧
    decodeTableWord 32 0b10100101010101001111011000000111 = some (.div 5 10 19 27) ∧
    decodeTableWord 32 0b10100110010101001111011000000111 = some (.divU 5 10 19 27) ∧
    decodeTableWord 32 0b10100111010101001111011000000111 = some (.rem 5 10 19 27) ∧
    decodeTableWord 32 0b10101000010101001111011000000111 = some (.remU 5 10 19 27) ∧
    decodeTableWord 32 0b10101001010101001111011000000111 = some (.and 5 10 19 27) ∧
    decodeTableWord 32 0b10101010010101001111011000000111 = some (.or 5 10 19 27) ∧
    decodeTableWord 32 0b10101011010101001111011000000111 = some (.xor 5 10 19 27) ∧
    decodeTableWord 32 0b10101100010101001111011000000111 = some (.shl 5 10 19 27) ∧
    decodeTableWord 32 0b10101101010101001111011000000111 = some (.shr 5 10 19 27) ∧
    decodeTableWord 32 0b10101110010101001111011000000111 = some (.sra 5 10 19 27) ∧
    decodeTableWord 32 0b10101111010101001111011000000111 = some (.min 5 10 19 27) ∧
    decodeTableWord 32 0b10110000010101001111011000000111 = some (.minU 5 10 19 27) ∧
    decodeTableWord 32 0b10110001010101001111011000000111 = some (.max 5 10 19 27) ∧
    decodeTableWord 32 0b10110010010101001111011000000111 = some (.maxU 5 10 19 27) ∧
    decodeTableWord 32 0b10110011000001001111011000000111 = some (.clz 5 19 27) ∧
    decodeTableWord 32 0b10110100000001001111011000000111 = some (.popc 5 19 27) ∧
    decodeTableWord 32 0b10110101000001001111011000000111 = some (.mov 5 19 27) ∧
    decodeTableWord 32 0b11010110010101001111011000000111 = some (.sel 6 10 19 27) := by decide

/-- R234 to R236: immediate, extension, compare and WID words. -/
theorem test_decode_immediate :
    decodeTableWord 32 0b10110110011101001111011000001011 = some (.addi 5 718 19 27) ∧
    decodeTableWord 32 0b10110110011101001111011000001111 = some (.andi 5 718 19 27) ∧
    decodeTableWord 32 0b10110110011101001111011000010011 = some (.ori 5 718 19 27) ∧
    decodeTableWord 32 0b10110110011101001111011000010111 = some (.xori 5 718 19 27) ∧
    decodeTableWord 32 0b10100001011001001111011000011011 = some (.shli 5 44 19 27) ∧
    decodeTableWord 32 0b10100001011001001111011000011111 = some (.shri 5 44 19 27) ∧
    decodeTableWord 32 0b10100001011001001111011000100011 = some (.srai 5 44 19 27) ∧
    decodeTableWord 32 0b10101100111010110011011000100111 = some (.movi 2 45996 27) ∧
    decodeTableWord 32 0b10101100111010110011011000101011 = some (.lui 2 45996 27) ∧
    decodeTableWord 32 0b10100000000001001100101000101111 = some (.ext 5 19 5) ∧
    decodeTableWord 32 0b10100001000000010111011000101111 = some (.extRead 5 5 27) ∧
    decodeTableWord 32 0b10101100111010110000101000110011 = some (.exti 2 45996 5) ∧
    decodeTableWord 32 0b10101001010101001100010000110111 = some (.cmp 5 9 10 19 2) ∧
    decodeTableWord 32 0b10110110001111001100010000111011 = some (.cmpi 5 44 7 19 2) ∧
    decodeTableWord 32 0b10100000001100000011011000111111 = some (.wid 5 6 27) := by decide

/-- R234 to R236: branches, CTL, predicates and REP. -/
theorem test_decode_control :
    decodeTableWord 32 0b10110011101011001101011001000011 = some (.b 5887595) ∧
    decodeTableWord 32 0b10110011101011001101011001000111 = some (.bl 5887595) ∧
    decodeTableWord 32 0b01111011001110101100110001001011 = some (.bp 3 1 367974) ∧
    decodeTableWord 32 0b10100000000001001100000001001111 = some (.jr 5 19) ∧
    decodeTableWord 32 0b10100001000000000000000001001111 = some (.ret 5) ∧
    decodeTableWord 32 0b00000010000000000000000001001111 = some (.stray) ∧
    decodeTableWord 32 0b00000011000000000000000001001111 = some (.muster) ∧
    decodeTableWord 32 0b00000100000000000000000001001111 = some (.done) ∧
    decodeTableWord 32 0b10100000001100001100010001010011 = some (.pand 5 6 3 2) ∧
    decodeTableWord 32 0b10100001001100001100010001010011 = some (.por 5 6 3 2) ∧
    decodeTableWord 32 0b10100010000000001100010001010011 = some (.pnot 5 3 2) ∧
    decodeTableWord 32 0b10000110010000110111011001010111 = some (.rep 17185 11 11) ∧
    decodeTableWord 32 0b00000000001101110111011001011011 = some (.repReg 27 11 11) := by decide

/-- R234 to R236: memory, tag, atomic, reduction, fence and queue words. -/
theorem test_decode_memory :
    decodeTableWord 32 0b10111011001101001111011001100011 = some (.ld 5 1 89 2 19 27) ∧
    decodeTableWord 32 0b10111011001101001111011001100111 = some (.lds 5 1 89 2 19 27) ∧
    decodeTableWord 32 0b10111011001101001111011001101011 = some (.st 5 1 89 2 19 27) ∧
    decodeTableWord 32 0b10111011001101001111011001101111 = some (.lda 5 1 89 2 19 27) ∧
    decodeTableWord 32 0b10111011001101001111011001110011 = some (.stl 5 1 89 2 19 27) ∧
    decodeTableWord 32 0b10100000000001001111011001110111 = some (.ldf 5 19 27) ∧
    decodeTableWord 32 0b10100001000111001111011001110111 = some (.ldfn 5 3 19 27) ∧
    decodeTableWord 32 0b10100010000001001111011001110111 = some (.ste 5 19 27) ∧
    decodeTableWord 32 0b10100011000111001111011001110111 = some (.sten 5 3 19 27) ∧
    decodeTableWord 32 0b10100100000001001100000001110111 = some (.tagset 5 19) ∧
    decodeTableWord 32 0b10100101000001001100000001110111 = some (.tagclr 5 19) ∧
    decodeTableWord 32 0b10111000010101001111011001111011 = some (.amo 5 1 8 10 19 27) ∧
    decodeTableWord 32 0b10110000010101001111011001111111 = some (.cas 5 1 10 19 27) ∧
    decodeTableWord 32 0b10110111010101001100000010000011 = some (.red 5 1 7 10 19) ∧
    decodeTableWord 32 0b10100001010101001111011010000111 = some (.redf 5 1 10 19 27) ∧
    decodeTableWord 32 0b10100001010101001100000010001011 = some (.redfU 5 1 10 19) ∧
    decodeTableWord 32 0b10100000000000000001011010001111 = some (.fence 5 11) ∧
    decodeTableWord 32 0b10100001000110010001001010001111 = some (.fenceX 5 3 4 9) ∧
    decodeTableWord 32 0b10100000000111111111011010010011 = some (.qtryRd 5 3 3 27) ∧
    decodeTableWord 32 0b10100001000111110111011010010011 = some (.qtryWr 5 3 1 27) := by decide

/-- R234 to R236: scalar floating-point words. -/
theorem test_decode_float :
    decodeTableWord 32 0b10110001010101001111011010100011 = some (.fadd 5 4 1 10 19 27) ∧
    decodeTableWord 32 0b10110001010101001111011010100111 = some (.fsub 5 4 1 10 19 27) ∧
    decodeTableWord 32 0b10110001010101001111011010101011 = some (.fmul 5 4 1 10 19 27) ∧
    decodeTableWord 32 0b10110001010101001111011010101111 = some (.ffma 5 4 1 10 19 27) ∧
    decodeTableWord 32 0b10110001010101001111011010110011 = some (.fdiv 5 4 1 10 19 27) ∧
    decodeTableWord 32 0b10110001000001001111011010110111 = some (.fsqrt 5 4 1 19 27) ∧
    decodeTableWord 32 0b10100001010101001111011010111011 = some (.fmin 5 1 10 19 27) ∧
    decodeTableWord 32 0b10100001010101001111011010111111 = some (.fmax 5 1 10 19 27) ∧
    decodeTableWord 32 0b10110001010101001100010011000011 = some (.fcmp 5 4 1 10 19 2) ∧
    decodeTableWord 32 0b10110010000011001111011011000111 = some (.fcvt 5 4 4 1 19 27) := by decide

/-- R234 to R236: tile arithmetic words of format T. -/
theorem test_decode_tileArith :
    decodeTableWord 32 0b11011001101001001011001100000011 = some (.tadd 6 1 19 36 89) ∧
    decodeTableWord 32 0b11011001101001001011001100000111 = some (.tsub 6 1 19 36 89) ∧
    decodeTableWord 32 0b11011001101001001011001100001011 = some (.tmul 6 1 19 36 89) ∧
    decodeTableWord 32 0b11011001101001001011001100001111 = some (.tfma 6 1 19 36 89) ∧
    decodeTableWord 32 0b11011001101001001011001100010011 = some (.tmax 6 1 19 36 89) ∧
    decodeTableWord 32 0b11011001101001001011001100010111 = some (.tmin 6 1 19 36 89) ∧
    decodeTableWord 32 0b11010000001001001011001100011011 = some (.texp 6 1 36 89) ∧
    decodeTableWord 32 0b11010000001001001011001100011111 = some (.trcp 6 1 36 89) ∧
    decodeTableWord 32 0b11010000001001001011001100100011 = some (.trsq 6 1 36 89) ∧
    decodeTableWord 32 0b11010000001001001011001100100111 = some (.tlog 6 1 36 89) ∧
    decodeTableWord 32 0b11010000001001001011001100101011 = some (.tcvt 6 1 36 89) ∧
    decodeTableWord 32 0b11010011001001001011001100101111 = some (.tred 6 1 1 2 36 89) ∧
    decodeTableWord 32 0b11010000101001001011001100110011 = some (.tbcast 6 1 1 36 89) ∧
    decodeTableWord 32 0b11010000001001001011001100110111 = some (.ttrans 6 1 36 89) := by decide

/-- R234 to R236: tile compares, selects, moves and format L. -/
theorem test_decode_tileMove :
    decodeTableWord 32 0b11011001101001001011001100111011 = some (.tcmpEq 6 1 19 36 89) ∧
    decodeTableWord 32 0b11011001101001001011001100111111 = some (.tcmpNe 6 1 19 36 89) ∧
    decodeTableWord 32 0b11011001101001001011001101000011 = some (.tcmpLt 6 1 19 36 89) ∧
    decodeTableWord 32 0b11011001101001001011001101000111 = some (.tcmpLe 6 1 19 36 89) ∧
    decodeTableWord 32 0b11001001101001001011001101001011 = some (.tsel 6 19 36 89) ∧
    decodeTableWord 32 0b11000110101001001011001101001111 = some (.tsqz 6 13 36 89) ∧
    decodeTableWord 32 0b11010000001001001011001101010011 = some (.txpd 6 1 36 89) ∧
    decodeTableWord 32 0b11010000000000001011001101010111 = some (.trand 6 1 89) ∧
    decodeTableWord 32 0b11010000001001001011001101011011 = some (.tmov 6 1 36 89) ∧
    decodeTableWord 32 0b11010000000000001011001101011111 = some (.tzero 6 1 89) ∧
    decodeTableWord 32 0b11010000000011011011001101100011 = some (.tfill 6 1 13 89) ∧
    decodeTableWord 32 0b11011000000110111011001101100111 = some (.tld 6 1 1 27 89) ∧
    decodeTableWord 32 0b11001000000110111011001101101011 = some (.tst 6 1 27 89) ∧
    decodeTableWord 32 0b11011101100110111011001101101111 = some (.tldG 6 1 1 22 27 89) ∧
    decodeTableWord 32 0b11001101100110111011001101110011 = some (.tstG 6 1 22 27 89) ∧
    decodeTableWord 32 0b10100000000001001100110101110111 = some (.shpSet 5 19 6) ∧
    decodeTableWord 32 0b10100001000000011011011101110111 = some (.shpGet 5 6 27) := by decide

/-- R234 to R236: matrix words of format M. -/
theorem test_decode_matrix :
    decodeTableWord 32 0b10100100101001000000000110000011 = some (.mma 1 73 36) ∧
    decodeTableWord 32 0b10100100110110000000000110000111 = some (.mmaG 1 73 22) ∧
    decodeTableWord 32 0b10100100101001000000000110001011 = some (.mmas 1 73 36) ∧
    decodeTableWord 32 0b10000000000000000000000110001111 = some (.accClr 1) ∧
    decodeTableWord 32 0b10000001011001110101100110010011 = some (.accAnch 1 45996) ∧
    decodeTableWord 32 0b10000000000000001011001110010111 = some (.accDrn 1 89) ∧
    decodeTableWord 32 0b10000000000001001111011110011011 = some (.accSend 1 19 27) ∧
    decodeTableWord 32 0b10000000000000000011011110011111 = some (.accLd 1 27) ∧
    decodeTableWord 32 0b10000000000000000011011110100011 = some (.accSt 1 27) := by decide

/-- R234 to R236: ENG and CIRC words. -/
theorem test_decode_engine :
    decodeTableWord 32 0b10100000010101001111011111000011 = some (.cpy 5 10 19 27) ∧
    decodeTableWord 32 0b10100001000001001111011111000011 = some (.cpyW 5 19 27) ∧
    decodeTableWord 32 0b10100001000111001111011111000011 = some (.cpyWPoll 5 3 19 27) ∧
    decodeTableWord 32 0b10100010010101001111011111000011 = some (.cpyT 5 10 19 27) ∧
    decodeTableWord 32 0b10100011010101001111011111000011 = some (.cpyDig 5 10 19 27) ∧
    decodeTableWord 32 0b10100100010101001111011111000011 = some (.deal 5 10 19 27) ∧
    decodeTableWord 32 0b10100101010101001111011111000011 = some (.put 5 10 19 27) ∧
    decodeTableWord 32 0b10100000000001001111011111000111 = some (.circOpen 5 19 27) ∧
    decodeTableWord 32 0b10100001000001001111011111000111 = some (.circWiden 5 19 27) ∧
    decodeTableWord 32 0b10100010010101001111011111000111 = some (.circClose 5 10 19 27) ∧
    decodeTableWord 32 0b10100011000001001111011111000111 = some (.circQ 5 19 27) := by decide

/-- R234 to R236: MSG, TASK and BAR words. -/
theorem test_decode_task :
    decodeTableWord 32 0b10100000000001001111011111001011 = some (.send 5 19 27) ∧
    decodeTableWord 32 0b10100001000111001111011111001011 = some (.sendn 5 3 19 27) ∧
    decodeTableWord 32 0b10100010000000000000000111001011 = some (.hret 5) ∧
    decodeTableWord 32 0b10100011010101001111011111001011 = some (.chanCfg 5 10 19 27) ∧
    decodeTableWord 32 0b10100000000001001111011111001111 = some (.spawn 5 19 27) ∧
    decodeTableWord 32 0b10100001000111001111011111001111 = some (.spawnn 5 3 19 27) ∧
    decodeTableWord 32 0b10100010000000011011011111001111 = some (.join 5 6 27) ∧
    decodeTableWord 32 0b10100011000110011011011111001111 = some (.joinn 5 3 6 27) ∧
    decodeTableWord 32 0b10100100000001001111011111001111 = some (.launch 5 19 27) ∧
    decodeTableWord 32 0b10100101010101001100010111001111 = some (.launchn 5 10 19 2) ∧
    decodeTableWord 32 0b10100000000001001111011111010011 = some (.barInit 5 19 27) ∧
    decodeTableWord 32 0b10100001000001001111011111010011 = some (.barArr 5 19 27) ∧
    decodeTableWord 32 0b10100010000001001111011111010011 = some (.barWait 5 19 27) ∧
    decodeTableWord 32 0b10100011010101001100010111010011 = some (.barTest 5 10 19 2) := by decide

/-- R234 to R236: SYS, CSRR and CSRW words. -/
theorem test_decode_system :
    decodeTableWord 32 0b10100000101100111000000111100011 = some (.trap 5 718) ∧
    decodeTableWord 32 0b10100001000001001111011111100011 = some (.eret 5 19 27) ∧
    decodeTableWord 32 0b10100010000000000000000111100011 = some (.brk 5) ∧
    decodeTableWord 32 0b10100011000000000000000111100011 = some (.nop 5) ∧
    decodeTableWord 32 0b10100100000000000000000111100011 = some (.idemBegin 5) ∧
    decodeTableWord 32 0b10100101000000000000000111100011 = some (.idemEnd 5) ∧
    decodeTableWord 32 0b10100110010101001111011111100011 = some (.tlbiR 5 10 19 27) ∧
    decodeTableWord 32 0b10100111000000000011011111100011 = some (.ctxLive 5 27) ∧
    decodeTableWord 32 0b10101000000000000011011111100011 = some (.ctxSave 5 27) ∧
    decodeTableWord 32 0b10101001000001001111011111100011 = some (.ctxRst 5 19 27) ∧
    decodeTableWord 32 0b10100000100000100011011111100111 = some (.csrr 5 65 27) ∧
    decodeTableWord 32 0b10100010000001100011011111101011 = some (.csrw 5 259 27) := by decide

/-- R234 to R236: 16-bit words. -/
theorem test_decode_compact :
    decodeTableWord 16 0b1010111011000100 = some (.cMov 21 27) ∧
    decodeTableWord 16 0b1010110110001000 = some (.cAddi 21 44) ∧
    decodeTableWord 16 0b1010111011001100 = some (.cAdd 21 27) ∧
    decodeTableWord 16 0b1010111011010000 = some (.cSub 21 27) ∧
    decodeTableWord 16 0b1010110110010100 = some (.cLdd 21 44) ∧
    decodeTableWord 16 0b1101110110011000 = some (.cStd 27 44) ∧
    decodeTableWord 16 0b1011001110111100 = some (.cB 1437) ∧
    decodeTableWord 16 0b0111101100100001 = some (.cBp 3 1 89) ∧
    decodeTableWord 16 0b0000000000000101 = some (.cNop) ∧
    decodeTableWord 16 0b0000000000001001 = some (.cRet) ∧
    decodeTableWord 16 0b0000000000001101 = some (.cMuster) ∧
    decodeTableWord 16 0b0000000000010001 = some (.cDone) ∧
    decodeTableWord 16 0b0000000000010101 = some (.cStray) := by decide

/-! ## Witnesses: states and operands that meet the hypotheses of each statement

Queue operands, the edges of ranges and each clause of a statement have theirs. -/

/-- S9 = -1, S10 = 1, S11 = 0, S12 the least integer, S13 = 64, P3 true; Q2 holds 5 and 7, Q0 has room. -/
def sc : State := one (((sregs [(9, -1), (10, 1), (12, 0x8000000000000000), (13, 64)]).setQ 2 [5, 7]).setP 3 true)

theorem witness_IntegerResults :
    Operands sc [9, 13] (some 1) [-1, 64] ∧ Operands sc [30, 30] (some 28) [5, 7] ∧ Operands sc [9, 10] (some 0) [-1, 1] ∧
    Operands sc [11] (some 29) [0] ∧ sc.readP 0 = true ∧ sc.readP 3 = true :=
  ⟨⟨by decide, by decide, by decide, by decide⟩, ⟨by decide, by decide, by decide, by decide⟩,
    ⟨by decide, by decide, by decide, by decide⟩, ⟨by decide, by decide, by decide, by decide⟩, by decide, by decide⟩

theorem witness_DivideResults :
    Operands sc [12, 9] (some 9) [0x8000000000000000, -1] ∧ Operands sc [9, 11] (some 28) [-1, 0] ∧ sc.readP 3 = true :=
  ⟨⟨by decide, by decide, by decide, by decide⟩, ⟨by decide, by decide, by decide, by decide⟩, by decide⟩

theorem witness_ImmediatesAndPredicates :
    Operands sc [30] (some 27) [5] ∧ Operands sc [] (some 28) [] ∧ Operands sc [] (some 0) [] ∧ Operands sc [30] none [5] ∧
    Operands sc [9, 12] none [-1, 0x8000000000000000] ∧ sc.readP 3 = true ∧ sc.me.regs.repActive = false ∧
    sc.inHandler = false ∧ (sc.as { ctx := 1 }).inHandler = true ∧ Operands (sc.as { ctx := 1 }) [] (some 1) [] ∧
    sc.me.launch.widths.length ≤ 0 ∧
    (5 < (withMe sc fun c => { c with launch := { widths := [8, 8, 8, 8, 8, 8] } }).me.launch.widths.length) :=
  ⟨⟨by decide, by decide, by decide, by decide⟩, ⟨by decide, by decide, by decide, by decide⟩,
    ⟨by decide, by decide, by decide, by decide⟩, ⟨by decide, by decide, by decide, by decide⟩,
    ⟨by decide, by decide, by decide, by decide⟩, by decide, by decide, by decide, by decide,
    ⟨by decide, by decide, by decide, by decide⟩, by decide, by decide⟩

theorem witness_ShortInstructions :
    Operands sc [30] (some 28) [5] ∧ Operands sc [9] (some 9) [-1] ∧ Operands sc [9, 10] (some 9) [-1, 1] ∧
    Operands (one (sregs [(2, 0x1FFF8)])) [2] (some 28) [0x1FFF8] ∧
    Operands (one (sregs [(2, 0x1FFF8), (27, 3)])) [2, 27] none [0x1FFF8, 3] ∧
    LocalOk (one (sregs [(2, 0x1FFF8)])) 0x1FFF8 8 ∧ LocalOk sc 0 8 :=
  ⟨⟨by decide, by decide, by decide, by decide⟩, ⟨by decide, by decide, by decide, by decide⟩,
    ⟨by decide, by decide, by decide, by decide⟩, ⟨by decide, by decide, by decide, by decide⟩,
    ⟨by decide, by decide, by decide, by decide⟩, ⟨by decide, by decide, by decide⟩, ⟨by decide, by decide, by decide⟩⟩

/-- FP32 1.0 in S9, the least subnormal in S10, a signalling NaN in S11, and -0.0 in S12. -/
def fp : State := one (sregs [(9, 0x3F800000), (10, 1), (11, 0x7F800001), (12, 0x80000000)])

theorem witness_FloatingPointResults :
    Operands fp [9, 10] (some 28) [0x3F800000, 1] ∧ Operands fp [11] (some 11) [0x7F800001] ∧
    Operands fp [9, 10, 12] (some 12) [0x3F800000, 1, 0x80000000] ∧ Operands fp [9, 11] none [0x3F800000, 0x7F800001] ∧
    fp.readP 0 = true ∧ (4 : BitVec 3).toNat < 5 :=
  ⟨⟨by decide, by decide, by decide, by decide⟩, ⟨by decide, by decide, by decide, by decide⟩,
    ⟨by decide, by decide, by decide, by decide⟩, ⟨by decide, by decide, by decide, by decide⟩, by decide, by decide⟩

theorem witness_MinMaxResults :
    Operands fp [12, 0] (some 1) [0x80000000, 0] ∧ Operands fp [11, 9] (some 28) [0x7F800001, 0x3F800000] ∧
    Operands fp [11, 11] (some 1) [0x7F800001, 0x7F800001] ∧ fp.readP 0 = true ∧ (Fmt.f32.value 0x7F800001).isNan = true ∧
    (Fmt.f32.value 0x80000000).isNan = false :=
  ⟨⟨by decide, by decide, by decide, by decide⟩, ⟨by decide, by decide, by decide, by decide⟩,
    ⟨by decide, by decide, by decide, by decide⟩, by decide, by decide, by decide⟩

theorem witness_RoundingAndFlags :
    0x7F7FFFFF < 2 ^ Fmt.f32.width ∧ (Fmt.f32.value 0x7F7FFFFF).isNan = false ∧ 0x7F81 < 2 ^ Fmt.bf16.width ∧
    (Fmt.bf16.value 0x7F81).isNan = true ∧ (16 : BitVec 5) ≠ 0 := by decide

/-- S1 even, S9 odd, alone at address 0x1000. -/
def br : State := one { sregs [(1, 0x2000), (9, 0x2001), (10, 0x3000)] with pc := 0x1000 }

theorem witness_BranchesGoWhere :
    br.cur.rep = false ∧ br.me.att = false ∧ Operands br [10] none [0x3000] ∧ Operands br [9] none [0x2001] ∧
    br.readP 0 = true ∧ br.readP 1 = false ∧ wrongWay false [10] none = false ∧ (br.readS 1).getLsbD 0 = false ∧
    ((one (sregs [(1, 1)])).readS 1).getLsbD 0 = true :=
  ⟨by decide, by decide, ⟨by decide, by decide, by decide, by decide⟩, ⟨by decide, by decide, by decide, by decide⟩,
    by decide, by decide, by decide, by decide, by decide⟩

/-- A gang of two on string 0: cores 0 and 1, both attached; core 0 leads. -/
def gang : State :=
  { ctxs := [(0, { st := .running, member := true, att := true, regs := { pc := 0x1000 } }),
      (4, { st := .running, member := true, att := true, arrived := true, gangPos := 1, regs := { pc := 0x1000 } })]
    cores := [(0, { on := true, div := 1 }), (1, { on := true, div := 1 })] }

theorem witness_GangsAndMuster :
    gang.cur.rep = false ∧ gang.me.att = true ∧ gang.inHandler = false ∧
    (gang.modMyStr fun x => { x with brLog := [(0, 0x1004)] }).myStr.brLog.find? gang.me.wpos = some 0x1004 ∧
    gang.myStr.brLog.find? gang.me.wpos = none ∧ gang.leads = true ∧ (gang.as { core := 1 }).leads = false ∧
    (one {}).me.member = false ∧ (withMe (one {}) fun c => { c with member := true }).liveMembers 0 0 = [posOf 0] ∧
    gang.me.member = true ∧ gang.me.arrived = false ∧ gang.liveMembers 0 0 ≠ [posOf 0] ∧
    (gang.modMyStr fun x => { x with muster := some 0x2000 }).myStr.muster = some 0x2000 ∧ (0x2000 : Word) ≠ gang.me.regs.pc ∧
    (gang.modMyStr fun x => { x with muster := some 0x1000 }).myStr.muster = some gang.me.regs.pc ∧ gang.cur.core < 2048 ∧
    posOf gang.cur.core ∈ gang.liveMembers 0 0 ∧
    (∀ j ∈ gang.liveMembers 0 0, j ≠ posOf gang.cur.core → (gang.task 0 (coreAt 0 j)).arrived = true) ∧
    (∀ j < 8, (gang.task (slotDie 0) (coreAt 0 j)).liveMember = false) := by decide

/-- ACC.CLR twice behind the word at address 0, in the instruction cache; S9 = 65,535, S10 = 65,536. -/
def rep : State :=
  (one (sregs [(9, 65535), (10, 65536)])).modMyStr fun x =>
    { x with icache := [{ data := (0x0000018F0000018F00000000 : BitVec 128).setWidth 512 }] }

theorem witness_RepeatCaptures :
    rep.cur.rep = false ∧ rep.inHandler = false ∧ rep.me.regs.repActive = false ∧
    [(0x0000018F : Word32), 0x0000018F].length = (1 : BitVec 4).toNat + 1 ∧ rep.Cached (rep.me.regs.pc + 4) [0x0000018F, 0x0000018F] ∧
    rep.fetchWords (rep.me.regs.pc + 4) ((1 : BitVec 4).toNat + 1) = (.ok [0x0000018F, 0x0000018F], rep) ∧
    [(0x0000018F : Word32), 0x0000018F].all wordOk = true ∧ Operands rep [9] none [65535] ∧ Operands rep [10] none [65536] ∧
    Operands rep [0] none [0] :=
  ⟨by decide, by decide, by decide, by decide, by unfold State.Cached State.HoldsWord; decide +kernel, by rfl, by decide, ⟨by decide, by decide, by decide, by decide⟩,
    ⟨by decide, by decide, by decide, by decide⟩, ⟨by decide, by decide, by decide, by decide⟩⟩

/-- Base registers at the edges: S9 = 0x1FFF8 (the last word of the local store), S10 = 64, S11 = 63, S12 the value to store. -/
def ls : State := one (sregs [(9, 0x1FFF8), (10, 64), (11, 63), (12, 0x1122334455667788)])

/-- The same with an answer of 8 bytes in hand. -/
def answered : State := withMe ls fun c => { c with wait := .answered (.data [1, 2, 3, 4, 5, 6, 7, 8]) }

/-- The same with a page of vault in the micro-TLB at address 0. -/
def vaulted : State := ls.modMyCore fun c => { c with utlb := [{ size := 12, kind := 1, rd := true, w := true }] }

theorem witness_LoadsComplete :
    Operands ls [9] (some 28) [0x1FFF8] ∧ ls.readP 0 = true ∧ LocalOk ls (BitVec.ofInt 64 ((0x1FFF8 : Word).toInt + (0 : BitVec 7).toInt * 8)) 8 ∧
    ls.view ls.cur 0 (lsBase 0 0 + 0x1FFF8) (ls.lsRead 0x1FFF8 8) = (ls.lsRead 0x1FFF8 8, ls) ∧ ls.Settled 0 ∧
    Operands answered [10] (some 1) [64] ∧ (64 : Nat) % 64 + 8 ≤ 64 ∧
    Accesses answered (BitVec.ofInt 64 ((64 : Word).toInt + (0 : BitVec 7).toInt * 8)) [(64, 8)] (.read 8) true 0 [1, 2, 3, 4, 5, 6, 7, 8] (answered.setWait .idle) ∧
    Accesses answered (BitVec.ofInt 64 ((64 : Word).toInt + (0 : BitVec 7).toInt * 8)) [(64, 8)] (.read 8) false 0 [1, 2, 3, 4, 5, 6, 7, 8] (answered.setWait .idle) ∧
    Operands vaulted [10] (some 1) [64] ∧ vaulted.waiting = .idle ∧
    tlbFind vaulted.myCore.utlb vaulted.me.launch.asid.toNat 64 = some { size := 12, kind := 1, rd := true, w := true } ∧
    vaulted.buffer = [] ∧ vaulted.bad = [] ∧ vaulted.soft = [] ∧
    answered.waiting = .answered (.data [1, 2, 3, 4, 5, 6, 7, 8]) ∧ (answered.setWait .sent).waiting = .sent :=
  ⟨⟨by decide, by decide, by decide, by decide⟩, by decide, ⟨by decide, by decide, by decide⟩, rfl, fun _ => rfl,
    ⟨by decide, by decide, by decide, by decide⟩, by decide, fun _ => rfl, fun _ => rfl,
    ⟨by decide, by decide, by decide, by decide⟩, by decide, by decide, by decide, by decide, by decide, by decide, by decide⟩

/-- A store answered, and an idempotent region that buffers. -/
def stored : State := withMe ls fun c => { c with wait := .answered (.data []) }
def region : State := withMe ls fun c => { c with region := some {} }

theorem witness_StoresComplete :
    Operands ls [9, 12] none [0x1FFF8, 0x1122334455667788] ∧ ls.readP 0 = true ∧ Memory.wf ls.mem = true ∧
    LocalOk ls (BitVec.ofInt 64 ((0x1FFF8 : Word).toInt + (0 : BitVec 7).toInt * 8)) 8 ∧ ls.me.region = none ∧
    Operands stored [10, 12] none [64, 0x1122334455667788] ∧ stored.me.region = none ∧
    Accesses stored (BitVec.ofInt 64 ((64 : Word).toInt + (0 : BitVec 7).toInt * 8)) [(64, 8)]
      (.write (natBytes 8 0x1122334455667788)) true 3 [] (stored.setWait .idle) ∧
    Accesses stored (BitVec.ofInt 64 ((64 : Word).toInt + (0 : BitVec 7).toInt * 8)) [(64, 8)]
      (.write (natBytes 8 0x1122334455667788)) false 0x23 [] (stored.setWait .idle) ∧
    region.me.region = some {} ∧ ({} : Region).direct = false ∧
    (bufStore { va := 64, size := 8 } [] (lineParts 66 64 8) (natBytes 8 0x1122334455667788)).isSome = true :=
  ⟨⟨by decide, by decide, by decide, by decide⟩, by decide, by decide, ⟨by decide, by decide, by decide⟩, by decide,
    ⟨by decide, by decide, by decide, by decide⟩, by decide, fun _ => rfl, fun _ => rfl, by decide, by decide, by rfl⟩

theorem witness_AddressTraps :
    Operands ls [9] (some 1) [0x1FFF8] ∧ Operands ls [9, 12] none [0x1FFF8, 0x1122334455667788] ∧ ls.readP 0 = true ∧
    2 ^ 17 < (BitVec.ofInt 64 ((0x1FFF8 : Word).toInt + (1 : BitVec 7).toInt * 8) : Word).toNat + 8 ∧
    Operands ls [11] (some 1) [63] ∧ 64 < 63 % 64 + 2 ∧ (63 % 2 ≠ 0) ∧ 63 + 2 ≤ 2 ^ 17 ∧
    Operands ls [11, 12] none [63, 0x1122334455667788] :=
  ⟨⟨by decide, by decide, by decide, by decide⟩, ⟨by decide, by decide, by decide, by decide⟩, by decide, by decide,
    ⟨by decide, by decide, by decide, by decide⟩, by decide, by decide, by decide, ⟨by decide, by decide, by decide, by decide⟩⟩

/-- S9 names the local store's last word, which is full; S10 the word at 64, which is empty. -/
def tags : State := ls.setTag (lsWord 0 0 0x1FFF8) true

theorem witness_TagsFencesQueues :
    tags.readP 0 = true ∧ LocalOk tags 0x1FFF8 8 ∧ LocalOk tags 64 8 ∧ tags.tag (lsWord 0 0 0x1FFF8) = true ∧
    tags.tag (lsWord 0 0 64) = false ∧ Operands tags [9] (some 28) [0x1FFF8] ∧ Operands tags [10] (some 1) [64] ∧
    Operands tags [10, 12] none [64, 0x1122334455667788] ∧ Operands tags [9, 12] none [0x1FFF8, 0x1122334455667788] ∧
    Operands tags [9] none [0x1FFF8] ∧ tags.inHandler = false ∧ (tags.as { ctx := 2 }).inHandler = true ∧
    LocalOk (tags.as { ctx := 2 }) 0 8 ∧ Operands (tags.as { ctx := 2 }) [0] (some 1) [0] ∧
    tags.me.regs.repActive = false ∧ tags.me.region = none ∧ tags.fenceBusy tags.cur [0, 1, 2, 3, 4] 11 = false ∧
    (tags.modPg 0 0 fun p => { p with posted := [{ aim := { hbm := true } }] }).fenceBusy tags.cur [0, 1, 2, 3, 4] 11 = true ∧ tags.me.flog = [] ∧
    (withMe tags fun c => { c with flog := [{}] }).me.flog ≠ [] ∧ sc.me.regs.getQ 2 = 5 :: [7] ∧ sc.me.regs.getQ 3 = [] ∧
    (sc.me.regs.getQ 0).length < 8 ∧ 8 ≤ ((({} : Regs).setQ 1 [0, 0, 0, 0, 0, 0, 0, 0]).getQ 1).length :=
  ⟨by decide, ⟨by decide, by decide, by decide⟩, ⟨by decide, by decide, by decide⟩, by decide, by decide,
    ⟨by decide, by decide, by decide, by decide⟩, ⟨by decide, by decide, by decide, by decide⟩,
    ⟨by decide, by decide, by decide, by decide⟩, ⟨by decide, by decide, by decide, by decide⟩,
    ⟨by decide, by decide, by decide, by decide⟩, by decide, by decide, ⟨by decide, by decide, by decide⟩,
    ⟨by decide, by decide, by decide, by decide⟩, by and_intros <;> decide⟩

theorem witness_AtomicsAndReductions :
    Operands answered [10, 12] (some 28) [64, 0x1122334455667788] ∧ answered.readP 0 = true ∧ answered.me.region = none ∧
    Accesses answered 64 [(64, 8)] (.amo 8 true 0x1122334455667788) false 0 [1, 2, 3, 4, 5, 6, 7, 8] (answered.setWait .idle) ∧
    Operands answered [10, 12, 9] (some 9) [64, 0x1122334455667788, 0x1FFF8] ∧
    Accesses answered 64 [(64, 8)] (.cas true 0x1FFF8 0x1122334455667788) false 0 [1, 2, 3, 4, 5, 6, 7, 8] (answered.setWait .idle) ∧
    Operands answered [11, 12] (some 1) [63, 0x1122334455667788] ∧ (63 % 4 ≠ 0) ∧
    [(1 : Byte), 2, 3, 4].length = (if false then 8 else 4) ∧ ls.cur.rep = false ∧
    Operands ls [10, 12] none [64, 0x1122334455667788] ∧ Operands ls [10, 12, 9] none [64, 0x1122334455667788, 0x1FFF8] ∧
    (ls.postedOf ls.cur).length < 32 ∧
    32 ≤ ((ls.modPg 0 0 fun p => { p with posted := List.replicate 32 {} }).postedOf ls.cur).length ∧
    Operands ls [11, 12] none [63, 0x1122334455667788] :=
  ⟨⟨by decide, by decide, by decide, by decide⟩, by decide, by decide, fun _ => rfl,
    ⟨by decide, by decide, by decide, by decide⟩, fun _ => rfl, ⟨by decide, by decide, by decide, by decide⟩, by decide,
    by decide, by decide, ⟨by decide, by decide, by decide, by decide⟩, ⟨by decide, by decide, by decide, by decide⟩, by decide,
    by decide, ⟨by decide, by decide, by decide, by decide⟩⟩

/-- A shape register's value (R182). -/
def shp (fmt cols vcols rows vrows : Nat) : Word :=
  word (fmt * 2 ^ 60 + cols * 2 ^ 40 + vcols * 2 ^ 32 + rows * 2 ^ 16 + vrows)

/-- A task whose E4 names H0 as shape A and H1 as shape B, with a rounding mode, E6 a row distance, and S9, S10. -/
def tileTask (rm : Nat) (a b : Word) (e6 : Word := 64) : State :=
  one (((((sregs [(9, 0x1FFC0), (10, 64)]).setE 4 (word (rm * 256 + 16))).setE 6 e6).setH 0 a).setH 1 b)

/-- BF16, two rows of four columns, three of them valid; and the transposed shape. -/
def bf : State := tileTask 0 (shp 1 4 3 2 2) (shp 1 2 2 4 3)
/-- Stochastic rounding, FP32 to bytes. -/
def sr : State := tileTask 4 (shp 2 4 3 2 2) (shp 4 4 3 2 2)
/-- An integer shape whose extent is empty. -/
def int : State := tileTask 1 (shp 4 4 0 2 2) (shp 4 4 3 2 2)

theorem tileReady_bf : TileReady bf := ⟨by decide, by decide, by decide, by decide, by decide, by decide, by decide⟩
theorem tileReady_sr : TileReady sr := ⟨by decide, by decide, by decide, by decide, by decide, by decide, by decide⟩
theorem tileReady_int : TileReady int := ⟨by decide, by decide, by decide, by decide, by decide, by decide, by decide⟩

theorem witness_TileArithmetic :
    TileReady bf ∧ TileReady sr ∧ TileReady int ∧ bf.shapeA.plain ∧ sr.shapeA.plain ∧ int.shapeA.plain ∧ sr.tileRm = .sr ∧
    width 9 = width 17 ∧ (bf.group 17).Nodup ∧ (bf.group 127).Nodup ∧ bf.shapeA.fmt = 1 ∧ int.shapeA.fmt = 4 ∧ sr.shapeA.fmt = 2 :=
  ⟨tileReady_bf, tileReady_sr, tileReady_int, ⟨by decide, by decide⟩, ⟨by decide, by decide⟩, ⟨by decide, by decide⟩, by decide,
    by decide, by decide, by decide, by decide, by decide, by decide⟩

theorem witness_TileFunctionsAndReductions :
    TileReady bf ∧ bf.shapeA.plain ∧ bf.shapeA.fmt = 1 ∧ bf.tileRm ≠ .sr ∧ width 9 = width 17 ∧ (bf.group 9).Nodup ∧
    TileReady int ∧ int.shapeA.plain ∧ int.shapeB.plain ∧ int.shapeB.fmt = int.shapeA.fmt ∧
    (int.shapeA.rows = int.shapeB.rows ∧ int.shapeA.vrows = int.shapeB.vrows) ∧
    ((tileTask 0 (shp 3 4 3 2 0) (shp 3 4 3 1 1)).shapeA.cols = (tileTask 0 (shp 3 4 3 2 0) (shp 3 4 3 1 1)).shapeB.cols ∧
      (tileTask 0 (shp 3 4 3 2 0) (shp 3 4 3 1 1)).shapeA.vcols = (tileTask 0 (shp 3 4 3 2 0) (shp 3 4 3 1 1)).shapeB.vcols) ∧
    (2 : BitVec 2) ≠ 3 :=
  ⟨tileReady_bf, ⟨by decide, by decide⟩, by decide, by decide, by decide, by decide, tileReady_int, ⟨by decide, by decide⟩,
    ⟨by decide, by decide⟩, by decide, by decide, by decide, by decide⟩

theorem witness_TileMoves :
    TileReady bf ∧ bf.shapeA.plain ∧ (bf.group 9).Nodup ∧ width 9 = width 17 ∧ Operands bf [10] none [64] ∧
    TileReady sr ∧ sr.shapeA.plain ∧ sr.shapeB.plain ∧ sr.shapeA.sameSize sr.shapeB = true ∧ bf.shapeB.valid = true ∧
    bf.shapeB.fmt = bf.shapeA.fmt ∧ width 8 = 0 ∧
    (bf.shapeB.rows = bf.shapeA.cols ∧ bf.shapeB.cols = bf.shapeA.rows ∧ bf.shapeB.vrows = bf.shapeA.vcols ∧
      bf.shapeB.vcols = bf.shapeA.vrows) ∧
    (let s := tileTask 0 (shp 1 1 1 2 2) (shp 1 4 3 2 2)
     s.shapeB.valid = true ∧ s.shapeA.rows = s.shapeB.rows ∧ s.shapeA.vrows = s.shapeB.vrows) ∧
    (let s := tileTask 0 (shp 1 4 3 1 1) (shp 1 4 3 2 2)
     s.shapeB.valid = true ∧ s.shapeA.cols = s.shapeB.cols ∧ s.shapeA.vcols = s.shapeB.vcols) :=
  ⟨tileReady_bf, ⟨by decide, by decide⟩, by decide, by decide, ⟨by decide, by decide, by decide, by decide⟩, tileReady_sr,
    ⟨by decide, by decide⟩, ⟨by decide, by decide⟩, by decide, by decide, by decide, by decide, by decide, by decide, by decide⟩

theorem witness_TileComparesAndSelects :
    TileReady bf ∧ bf.shapeA.plain ∧ width 8 = 0 ∧ width 12 = 0 ∧ width 9 = width 17 ∧ (bf.group 9).Nodup ∧
    Operands bf [] (some 5) [] ∧ Operands bf [] (some 28) [] ∧ (5 : BitVec 5) ≠ 0 ∧ isQueue 5 = false :=
  ⟨tileReady_bf, ⟨by decide, by decide⟩, by decide, by decide, by decide, by decide,
    ⟨by decide, by decide, by decide, by decide⟩, ⟨by decide, by decide, by decide, by decide⟩, by decide, by decide⟩

theorem witness_TileChecksAndShapes :
    (bf.cur.rep = true ∨ bf.me.regs.repActive = false) ∧ (bf.as { ctx := 1 }).inHandler = true ∧
    (let s := one (({} : Regs).setE 4 8)
     s.inHandler = false ∧ e4Reserved (s.readE 4) = true) ∧
    (let s := one {}
     s.inHandler = false ∧ e4Reserved (s.readE 4) = false ∧ bits (s.readE 4) 10 8 < 5 ∧ s.shapeA.valid = false) ∧
    Operands bf [10] none [64] ∧ shapeReserved 64 = false ∧ shapeReserved 128 = true ∧ Operands bf [] (some 28) [] ∧
    wrongWay false [10] none = false ∧ wrongWay false [] (some 28) = false ∧ bf.readP 0 = true :=
  ⟨by decide, by decide, by decide, by decide, ⟨by decide, by decide, by decide, by decide⟩, by decide, by decide,
    ⟨by decide, by decide, by decide, by decide⟩, by decide, by decide, by decide⟩

/-- One row of BF16, its access answered. -/
def row : State := withMe (tileTask 0 (shp 1 4 3 1 1) 0) fun c => { c with wait := .answered (.data [1, 2, 3, 4, 5, 6]) }

theorem witness_TileMemory :
    TileReady bf ∧ bf.shapeA.plain ∧ (bf.group 9).Nodup ∧ Operands bf [9] none [0x1FFC0] ∧ bf.prog = none ∧
    bit (bf.csr Csr.tilepos) 15 = false ∧ bf.bad = [] ∧ bf.soft = [] ∧ bf.Settled 0 ∧ (∀ k < 8, bf.bankFmt k = 0) ∧ 0x1FFC0 % 2 = 0 ∧
    (bf.readE 6).toNat % 2 = 0 ∧ Memory.wf bf.mem = true ∧
    (∀ k < 1, ∀ r < bf.shapeA.vrows, (0 : Int) ≤ 0x10000 + (k * bf.shapeA.rows + r : Nat) * (bf.readE 6).toInt ∧
      0x10000 + (k * bf.shapeA.rows + r : Nat) * (bf.readE 6).toInt + 6 ≤ 2 ^ 17) ∧
    TileReady row ∧ row.shapeA.plain ∧ width 8 = 0 ∧ row.shapeA.rows = 1 ∧ row.shapeA.vrows = 1 ∧ 0 < row.shapeA.vcols ∧
    Operands row [10] none [64] ∧ row.prog = none ∧ row.me.region = none ∧
    Accesses (row.setProg (some { row := 0, mask := (row.tile 24).data, index := 0 })) 64 [(64, 6)] (.read 6) true 0 [1, 2, 3, 4, 5, 6] ((row.setProg (some { row := 0, mask := (row.tile 24).data, index := 0 })).setWait .idle) ∧
    ((withMe row fun c => { c with wait := .answered (.xlat 64 0) }).setProg (some { row := 0, mask := (row.tile 24).data, index := 0 })).waiting = .answered (.xlat 64 0) :=
  ⟨tileReady_bf, ⟨by decide, by decide⟩, by decide, ⟨by decide, by decide, by decide, by decide⟩, by decide, by decide, by decide,
    by decide, fun _ => rfl, by decide, by decide, by decide, by decide, by decide,
    ⟨by decide, by decide, by decide, by decide, by decide, by decide, by decide⟩, ⟨by decide, by decide⟩, by decide, by decide, by decide,
    by decide, ⟨by decide, by decide, by decide, by decide⟩, by decide, by decide, fun _ => rfl, by decide⟩

/-- BF16 against BF16, FP32 against FP32 and bytes of Aster8 against Aster4, in both shapes the same columns. -/
def mm (fa fb : Nat) : State := tileTask 0 (shp fa 32 32 2 2) (shp fb 32 32 4 3)

theorem witness_MatrixProducts :
    (mm 1 1).inHandler = false ∧ ((mm 1 1).cur.rep = true ∨ (mm 1 1).me.regs.repActive = false) ∧
    e4Reserved ((mm 1 1).readE 4) = false ∧ (mm 1 1).myCore.badTiles = [] ∧ (mm 1 1).myCore.badAccs = [] ∧ (mm 1 1).myCore.softTiles = [] ∧
    (mm 1 1).myCore.softAccs = [] ∧ (mm 1 1).Settled 2 ∧ (mm 1 1).soft = [] ∧
    (mm 1 1).shapeA.valid = true ∧ (mm 1 1).shapeB.valid = true ∧ (mm 1 1).shapeA.cols = (mm 1 1).shapeB.cols ∧
    (mm 1 1).shapeA.vcols = (mm 1 1).shapeB.vcols ∧ (mm 1 1).shapeB.rows * ((mm 1 1).group 67).length ≤ 32 ∧
    (mm 1 1).me.launch.nbv = 2 ∧ (mm 1 1).shapeA.rows * ((mm 1 1).group 33).length ≤ 32 ∧
    (∀ r ∈ (mm 1 1).tileRows (mm 1 1).shapeB ((mm 1 1).group 67), r.2.isSome = true) ∧
    (∀ r ∈ (mm 1 1).tileRows (mm 1 1).shapeA ((mm 1 1).group 33), r.2.isSome = true) ∧
    ((mm 1 1).shapeA.fmt = 1 ∧ (mm 1 1).shapeB.fmt = 1) ∧ ((mm 2 2).shapeA.fmt = 2 ∧ (mm 2 2).shapeB.fmt = 2) ∧
    (mm 2 2).shapeA.valid = true ∧ (isAster (mm 6 7).shapeA.fmt = true ∧ isAster (mm 6 7).shapeB.fmt = true) ∧
    (mm 6 7).shapeA.valid = true ∧ (∀ r ∈ (mm 6 7).tileRows (mm 6 7).shapeA [0], r.2.isSome = true) ∧
    ((mm 1 1).acc 0).mode < 2 ∧ ((mm 2 2).acc 1).mode ≠ 1 ∧ (mm 1 1).bad = [] ∧ (∀ k < 8, (mm 1 1).bankFmt k = 0) ∧
    ((mm 1 1).readE 5).toNat % 2 = 0 ∧
    (∀ o ∈ (mm 1 1).gatherOffs (mm 1 1).shapeA 3, 0 ≤ o ∧ o % 2 = 0 ∧ o + 2 * (mm 1 1).shapeA.vcols ≤ 2 ^ 17) ∧
    ({ st := 0x40000 } : Acc).mode = 1 ∧ (Val.nan true).isNan = true ∧ ({ v := 0, k := 1 } : AccElem).k = 1 :=
  ⟨by decide, by decide, by decide, by decide, by decide, by decide, by decide, fun _ => rfl, by decide, by decide, by decide,
    by decide, by decide, by decide, by decide, by decide, by decide +kernel, by decide +kernel, by decide, by decide, by decide, by decide, by decide, by decide +kernel,
    by decide, by decide, by decide, by decide, by decide, by decide +kernel, by decide, by decide, by decide⟩

theorem witness_AccumulatorClear :
    (one {}).inHandler = false ∧ ((one {}).as { ctx := 1 }).inHandler = true ∧
    ((one {}).cur.rep = true ∨ (one {}).me.regs.repActive = false) := by decide

/-- Both accumulators under an anchor of -8 with a finite element and a NaN. -/
def anchored : State :=
  (tileTask 0 (shp 1 4 3 2 2) (shp 2 4 3 2 2)).modMyCore fun c =>
    { c with acc0 := { st := 0x4FFF8, elems := [(0, { v := 5 }), (33, { k := 1 })] }, acc1 := { st := 0x80000, elems := [(0, { v := 1 })] } }

theorem witness_AccumulatorAnchorAndDrain :
    anchored.inHandler = false ∧ (anchored.cur.rep = true ∨ anchored.me.regs.repActive = false) ∧ ((one {}).acc 0).mode = 0 ∧
    (anchored.acc 1).mode = 2 ∧ (anchored.acc 0).mode = 1 ∧ anchored.myCore.badAccs = [] ∧
    risingFrom none (SMap.keys (anchored.acc 0).elems) = true ∧ ((anchored.acc 0).elem 0).k = 0 ∧
    ((anchored.acc 0).elem 33).k = 1 ∧ e4Reserved (anchored.readE 4) = false ∧ anchored.shapeA.valid = true ∧
    anchored.shapeA.fmt < 3 ∧ anchored.shapeA.rows * (anchored.group 127).length ≤ 32 ∧ anchored.shapeA.cols ≤ 32 ∧
    (anchored.group 127).Nodup := by decide

theorem witness_AccumulatorImages :
    bits (anchored.acc 1).st 63 20 = 0 ∧ bit (anchored.acc 1).st 16 = false ∧ (anchored.acc 1).mode < 3 ∧
    risingFrom none (SMap.keys (anchored.acc 1).elems) = true ∧ (∀ p ∈ (anchored.acc 1).elems, p.1 < 1024 ∧ p.2 ≠ {}) ∧
    (∀ p ∈ (anchored.acc 1).elems, p.2.k = 0 ∧ p.2.v.toNat < 2 ^ 32) ∧ (one {}).inHandler = false ∧
    ((one {}).cur.rep = true ∨ (one {}).me.regs.repActive = false) ∧ Operands ls [10] none [64] ∧ Operands ls [11] none [63] ∧
    Operands (one (sregs [(1, 0x1BEC0)])) [1] none [0x1BEC0] ∧ 0x1BEC0 % 64 = 0 ∧ 2 ^ 17 < 0x1BF00 + 16704 ∧
    0x1BEC0 + 16704 = 2 ^ 17 ∧ Operands (one (sregs [(1, 0x1BF00)])) [1] none [0x1BF00] ∧ ls.bad = [] ∧ ls.soft = [] ∧ ls.Settled 0 ∧
    ls.myCore.badAccs = [] ∧ Memory.wf ls.mem = true :=
  ⟨by decide, by decide, by decide, by decide, by decide, by decide, by decide, by decide,
    ⟨by decide, by decide, by decide, by decide⟩, ⟨by decide, by decide, by decide, by decide⟩,
    ⟨by decide, by decide, by decide, by decide⟩, by decide, by decide, by decide, ⟨by decide, by decide, by decide, by decide⟩,
    by decide, by decide, fun _ => rfl, by decide, by decide⟩

/-- A paddock of the first vault region in slot 0: 32 cores, tenant 3, ASIDs 1 to 4, keys 1 and 2, and a supervisor core. -/
def paddock (supv : Nat) : Paddock :=
  { desc := [1, word (1 * 2 ^ 53 + 4 * 2 ^ 41 + 1 * 2 ^ 29 + 2 * 2 ^ 17 + 3 * 2 ^ 4), word (100 * 2 ^ 51 + 100 * 2 ^ 32 + supv * 2 ^ 10),
      0, 0, 0, 0, 0] }

/-- The paddock live on die 0. -/
def inPad (supv : Nat) (s : State) : State := s.modDie 0 fun d => { d with pads := [(0, paddock supv)] }

/-- A copy of 64 bytes from 0x10040 to 0x20000 by E2, and operands of PUT and ACC.SEND. -/
def cp (e2 : Word) : State :=
  inPad 31 (one ((sregs [(1, 0x10040), (2, 0x20000), (3, 1), (4, 64), (5, 0x1000), (6, 0x800000000), (7, 0x1FFF8)]).setE 2 e2))

/-- A queue that is full. -/
def full : State := (cp 64).modMyStr fun x => { x with queue := (List.range 16).map fun k => (k, {}) }

theorem witness_CommandsEnter :
    Operands (cp 64) [1, 2] (some 28) [0x10040, 0x20000] ∧ (cp 64).readP 0 = true ∧ (cp 64).cur.rep = false ∧
    (cp 64).me.region = none ∧ (cp 64).entryFor = some 0 ∧
    freeSlots ((List.range 15).map fun k => (k, ({} : Cmd))) = [15] ∧ (cp 64).bad = [] ∧ (cp 64).soft = [] ∧ (cp 64).Settled 1 ∧
    (cp 64).cpyTrap .cpy 0x10040 0x20000 = none ∧ (cp 64).cpyTrap .cpyDig 0x10040 0x20000 = none ∧
    (cp 0).cpyTrap .cpyT 0x10040 0x20000 = none ∧ putReserved ((cp 0).readE 2) = false ∧ bits ((cp 0).readE 2) 62 0 = 0 ∧
    (0x10040 : Word).toNat % 64 = 0 ∧
    Operands (cp 0) [6, 7] (some 0) [0x800000000, 0x1FFF8] ∧ Operands (cp 0) [1, 2] (some 28) [0x10040, 0x20000] ∧
    (cp 0).putTrap 0x800000000 0x1FFF8 = none ∧ putGlb 0x800000000 = false ∧ bit ((cp 0).readE 2) 62 = false ∧
    Operands (cp 0) [1, 3] none [0x10040, 1] ∧ Operands (cp 0) [4, 3] none [64, 1] ∧
    (cp 0).inHandler = false ∧ ((cp 0).cur.rep = true ∨ (cp 0).me.regs.repActive = false) ∧ (cp 0).goodCore 1 = true ∧
    (cp 0).myCore.badAccs = [] ∧ (cp 0).me.unacked < 8 ∧ 64 + 16704 ≤ 2 ^ 17 ∧ 2 ^ 17 < 0x20000 + 16704 ∧
    Operands (cp 0) [3, 3] none [1, 1] ∧ (1 % 64 ≠ 0) :=
  ⟨⟨by decide, by decide, by decide, by decide⟩, by decide, by decide, by decide, by decide, by decide, by decide, by decide,
    fun _ => rfl, by decide, by decide, by decide, by decide, by decide, by decide, ⟨by decide, by decide, by decide, by decide⟩,
    ⟨by decide, by decide, by decide, by decide⟩, by decide, by decide, by decide, ⟨by decide, by decide, by decide, by decide⟩, ⟨by decide, by decide, by decide, by decide⟩,
    by decide, by decide, by decide, by decide, by decide, by decide, by decide, ⟨by decide, by decide, by decide, by decide⟩,
    by decide⟩

/-- One entry is free, and the task of core 1 came first. -/
def waited : State :=
  { (cp 64).modMyStr fun x => { x with queue := (List.range 15).map fun k => (k, {}), waiters := [({ core := 1 }, 0, 0)] } with
    ctxs := (cp 64).ctxs ++ [(4, { st := .running })] }

theorem witness_CommandRefusals :
    Operands full [1, 2] (some 6) [0x10040, 0x20000] ∧ full.readP 0 = true ∧ full.me.region = none ∧
    freeSlots full.myStr.queue = [] ∧ (cp 64).waitersAhead = [] ∧ freeSlots (cp 64).myStr.queue ≠ [] ∧
    (freeSlots waited.myStr.queue).length ≤ waited.waitersAhead.length ∧ waited.inHandler = false ∧ Operands waited [1, 2] (some 6) [0x10040, 0x20000] ∧
    waited.readP 0 = true ∧ waited.me.region = none ∧ waited.cpyTrap .cpy 0x10040 0x20000 = none ∧ full.cpyTrap .cpy 0x10040 0x20000 = none ∧ full.inHandler = false ∧
    (full.as { ctx := 1 }).inHandler = true ∧ (full.as { ctx := 1 }).me.region = none ∧
    Operands (full.as { ctx := 1 }) [0, 0] (some 6) [0, 0] ∧ bits ((cp (2 ^ 48)).readE 2) 49 48 ≠ 0 ∧
    bits ((cp 0).readE 2) 31 0 = 0 ∧ (bit ((cp (2 ^ 63 + 1)).readE 2) 63 = true ∧ bit ((cp (2 ^ 63 + 1)).readE 2) 61 = false) ∧
    (cpyReserved ((cp 1).readE 2) = false ∧ bits ((cp 1).readE 2) 31 0 ≠ 0 ∧ bit ((cp 1).readE 2) 61 = false ∧ bit ((cp 1).readE 2) 62 = false) ∧
    Operands (cp 1) [1, 3] (some 6) [0x10040, 1] ∧ Operands (cp 0) [3, 1] (some 6) [1, 0x10040] ∧
    (cp 0).readE 0 = 0 ∧ (cp 0).readE 1 = 0 ∧ bits ((cp 0).readE 3) 31 0 = 0 ∧
    bit ((cp (2 ^ 62 + 1)).readE 2) 62 = true ∧ cpyReserved ((cp (2 ^ 62 + 1)).readE 2) = false ∧
    Operands (cp (2 ^ 62 + 1)) [2, 1] (some 6) [0x20000, 0x10040] ∧ (2 : Int) ^ 17 < (0x20000 : Word).toInt + 1 :=
  ⟨⟨by decide, by decide, by decide, by decide⟩, by decide, by decide, by decide, by decide, by decide, by decide, by decide, ⟨by decide, by decide, by decide, by decide⟩,
    by decide, by decide, by decide, by decide, by decide, by decide, by decide,
    ⟨by decide, by decide, by decide, by decide⟩, by decide, by decide, by decide, by decide,
    ⟨by decide, by decide, by decide, by decide⟩, ⟨by decide, by decide, by decide, by decide⟩, by decide, by decide, by decide,
    by decide, by decide, ⟨by decide, by decide, by decide, by decide⟩, by decide⟩

/-- Tickets: command 7 waits in the queue, command 6 has faulted; S1 = 7, S2 = 6, S3 = 65,535, S4 = 65,536. -/
def tickets : State :=
  (withMe (one (sregs [(1, 7), (2, 6), (3, 65535), (4, 65536)])) fun c =>
      { c with ticket := 8, statuses := [{ ticket := 6, status := 1 <<< 56, va := 0x40, info := 3 }] }).modMyStr fun x =>
    { x with queue := [(0, { ticket := 7 })] }

/-- An ACC.SEND of 100 bytes at its start and at its end, a command that has ended, a deal of one line from a page of HBM that the
port group's TLB holds, and a payload. -/
def engine : State :=
  (((inPad 31 (one {})).modMyStr fun x => { x with queue :=
      [(0, { kind := .accSend, data := List.replicate 100 7 }), (1, { kind := .accSend, data := [7], pos := 1, ticket := 1, dst := 0x1000 }),
        (2, { ticket := 2, fin := some (0, 0, 0) }),
        (15, { kind := .deal, ticket := 3, started := true, src := 0x1040, e0 := word (1 * 2 ^ 12 + 1), e1 := 1 })] }).modPg 0 0 fun p =>
    { p with tlb := [{ page := 1, pa := 0x1000, rd := true }] }).modDie 0 fun d =>
      { d with payloads := [{ core := 3, off := 8, bytes := [1, 2] }, { core := 3, off := 10, bytes := [3] }] }

theorem witness_CommandStatusAndEngine :
    Operands tickets [1] (some 28) [7] ∧ tickets.readP 0 = true ∧ tickets.cmdPending 7 = true ∧ tickets.inHandler = false ∧
    (tickets.as { ctx := 1 }).inHandler = true ∧ Operands (tickets.as { ctx := 1 }) [0] (some 5) [0] ∧
    Operands tickets [2] (some 5) [6] ∧ tickets.cmdPending 6 = false ∧
    tickets.me.statuses.find? (fun y => y.ticket == 6) = some { ticket := 6, status := 1 <<< 56, va := 0x40, info := 3 } ∧
    Operands tickets [3] (some 5) [65535] ∧ tickets.cmdPending 65535 = false ∧ Operands tickets [4] (some 5) [65536] ∧
    Memory.wf engine.mem = true ∧ engine.bad = [] ∧
    (engine.cmdAt 0 0 0).map (fun c => (c.kind, c.fin, engine.mustWait 0 0 c, decide (c.pos < c.data.length))) =
      some (.accSend, none, false, true) ∧
    (engine.cmdAt 0 0 1).map (fun c => (c.kind, c.fin, engine.mustWait 0 0 c, c.pos == c.data.length)) =
      some (.accSend, none, false, true) ∧
    (engine.dieAt 0).payloads[1]?.map (fun p => ((engine.dieAt 0).payloads.take 1).any (·.clash p)) = some false ∧
    (engine.cmdAt 0 0 15).map (fun c => (c.kind, c.fin.isNone, c.started, pgOf (c.src + word c.pos), c.pos + 64 == dealTotal c)) =
      some (.deal, true, true, 0, true) ∧
    (engine.cmdAt 0 0 15).map (fun c => (engine.rideOfDeal 0 c c.cid 0 (engine.dealTarget c c.pos).1, addrFault (c.src + word c.pos) 64,
        engine.mayServe 0 0 c.launch.ten.toNat, (engine.dealTarget c c.pos).2 % 64)) = some (.standing, none, true, 0) ∧
    (match engine.pgTranslate 0 0 0 0x1040 64 0 with
      | (.ok e, u) => e.kind == 0 && (match u.perform 0 .ports (engine.cmdAt 0 0 15 |>.getD {}).who 0x1040 [(0x1040, 64)] (.read 64) with
        | (.data l, v) => l.length == 64 && v.cmdAt 0 0 15 == engine.cmdAt 0 0 15
        | _ => false)
      | _ => false) = true ∧
    (engine.cmdAt 0 0 2).map (fun c => (c.fin, c.out)) = some (some (0, 0, 0), 0) ∧
    (engine.ctxOf (ctxKey 0 0 0)).launch.uid = 0 ∧ engine.cmdAt 0 0 5 = none :=
  ⟨⟨by decide, by decide, by decide, by decide⟩, by decide, by decide, by decide, by decide,
    ⟨by decide, by decide, by decide, by decide⟩, ⟨by decide, by decide, by decide, by decide⟩, by decide, by decide,
    ⟨by decide, by decide, by decide, by decide⟩, by decide, ⟨by decide, by decide, by decide, by decide⟩, by decide, by decide,
    by decide, by decide, by decide, by decide, by decide, by decide +kernel, by decide, by decide, by decide⟩

/-- A yardmaster with an acceptance under way to a waiting context, open circuit 5, pending circuit 4095 whose request has met its
deadline, a part of a grant to take over, and one entry to write. -/
def yard : State :=
  (withMe { one (sregs [(1, 5), (2, 0x100000000)]) with wt := 5 } fun c => { c with wait := .sent }).modYard 0 fun y =>
    { y with
      accepts := [(Agent.mk 0 0 0 false, 9)]
      waiting := [{ cid := 4095, num := 1 }]
      exch := [[{ link := 3 }]]
      cfg := [{ link := 3, slot := 7, entry := 9 }]
      clears := [{ cid := 6, links := [(3, 7)] }]
      circuits := [(5, { cid := 5, st := .open }), (7, { cid := 7, st := .open, path := [3], suspended := true }), (4095, { cid := 4095, latest := 1 })] }

/-- The same with a woken request for a wider circuit 4095, and with one write under way. -/
def yardWoken : State := yard.modYard 0 fun y =>
  { y with waiting := [{ op := .widen, cid := 4095, n := 1, woken := true, deadline := 9 }]
           circuits := y.circuits.set 4095 { cid := 4095, st := .open, path := [3] } }

def yardFlying : State := { yard with yards := [(0, { flying := [{ link := 3, slot := 7, entry := 9 }] })] }

theorem witness_Circuits :
    yard.readP 0 = true ∧ yard.cur.rep = false ∧ Operands yard [1] (some 28) [5] ∧ Operands yard [1, 2] (some 5) [5, 0x100000000] ∧
    yard.waiting = .sent ∧ (one {}).waiting = .idle ∧
    (withMe yard fun c => { c with wait := .answered (.word 1) }).waiting = .answered (.word 1) ∧
    (yard.yardAt 0).accepts[0]? = some (Agent.mk 0 0 0 false, 9) ∧ (yard.ctxOf 0).wait = .sent ∧
    (yard.modYard 0 fun y => { y with reqs := [{ op := .query, b := 5 }] }).circuit? 0 5 = some { cid := 5, st := .open } ∧
    (yard.yardAt 0).waiting.any (·.woken) = false ∧ yard.circuit? 0 4094 = none ∧ bits (0x100000000 : Word) 63 32 ≠ 0 ∧
    bits (5 : Word) 63 12 = 0 ∧ (yard.yardAt 0).waiting[0]? = some { cid := 4095, num := 1 } ∧ (0 : Nat) < yard.wt.toNat ∧
    yard.circuit? 0 4095 = some { cid := 4095, latest := 1 } ∧ (yard.yardAt 0).exch = [{ link := 3 }] :: [] ∧
    (yard.yardAt 0).cfg = [{ link := 3, slot := 7, entry := 9 }] ∧ (yard.linkAt 3).half = false ∧
    (yard.yardAt 0).flying = [] ∧ (yard.yardAt 0).flitRev ≠ yard.rev + 1 ∧
    ((yard.modYard 0 fun y => { y with flitRev := yard.rev + 1 }).yardAt 0).flitRev = yard.rev + 1 ∧
    yardFlying.yards = [(0, yardFlying.yardAt 0)] ∧ (yardFlying.yardAt 0).flying = [{ link := 3, slot := 7, entry := 9 }] ∧
    (({ cid := 6, links := [(3, 7)] } : Clear).due ≤ yard.wt.toNat) ∧ ({ link := 3, slot := 7, entry := 9 } : CfgWrite).kind = 0 ∧
    (yard.yardAt 0).clears[0]? = some { cid := 6, links := [(3, 7)] } ∧ yard.circuit? 0 6 = none ∧
    yardWoken.circuit? 0 4095 = some { cid := 4095, st := .open, path := [3] } ∧ yardWoken.wt.toNat ≤ 9 ∧
    ((yardWoken.yardAt 0).waiting.take 0).any (·.woken) = false ∧
    (yardWoken.modYard 0 fun v => { v with waiting := v.waiting.eraseIdx 0 }).search 0 { cid := 4095, st := .open, path := [3] } none
      (yardWoken.pathsFor { op := .widen, cid := 4095, n := 1, woken := true, deadline := 9 } { cid := 4095, st := .open, path := [3] })
      1 false = .waits :=
  ⟨by decide, by decide, ⟨by decide, by decide, by decide, by decide⟩, ⟨by decide, by decide, by decide, by decide⟩,
    by and_intros <;> decide +kernel⟩

/-- Links: a word at router (1, 2) of die 0 that no entry names; link 5 has failed, link 6 has been waking since 0, a package link of
the link die is out; circuit 9 is suspended with two words to send again. -/
def wheel : State :=
  { (((one {}).modYard 0 fun y => { y with circuits :=
      [(9, { cid := 9, st := .open, suspended := true, chains := [{ live := true, start := 3 }], tx := 5, rx := 3
             words := [{ seq := 2 }, { seq := 3 }, { seq := 4 }] })] }) : State) with
    wt := 25600
    flits := [{ unit := 0, row := 1, col := 2 }]
    links := [(5, { failed := true }), (6, { waking := some 0 }), (7, { waking := some 25000 }), (linkKey 8 2 0 6, { out := true })]
    pkg := { number := 1, coords := 1 } }

/-- The same package as a member, not aligned, and aligned with a peer circuit to package 2. -/
def joined : State := { wheel with pkg := { wheel.pkg with member := true, domain := 7 } }
def alignedPkg : State := { joined with pkg := { joined.pkg with aligned := true, peers := [{ src := peerLd, dst := peerFar 2 }] } }

/-- Every package link out. -/
def allOut : State := { links := packageKeys.map fun k => (k, { out := true }) }

theorem wheel_names_no_link (f : Flit) : wheel.namedLink f = none := by
  have h (k n : Nat) : (bit (wheel.entry k n) 31 && !bit (wheel.entry k n) 30) = false := by
    have : wheel.entry k n = 0xC0000000 ∨ wheel.entry k n = 0 := by
      unfold State.entry
      split
      · exact .inl rfl
      · exact .inr rfl
    rcases this with h | h <;> rw [h] <;> decide
  simp [State.namedLink, h]

/-- A word on the way, and one at its endpoint. -/
def moving : State :=
  { wheel with
    wt := 25800
    slots := [(linkKey 0 1 2 1, [(200, 0xA0000000)])]
    flits := [{ unit := 0, row := 1, col := 2, inp := 4, wt := 25800 }] }

theorem moving_named (f : Flit) (h : f ∈ moving.flits) : (moving.namedLink f).isSome = true := by
  obtain rfl : f = { unit := 0, row := 1, col := 2, inp := 4, wt := 25800 } := by simpa [moving] using h
  have hc : cfSlot (linkKey 0 1 2 1) 200 = false := by
    have hd : ∀ k d, treeDepth k = some d → d ≤ 72 := by
      intro k d h
      simp only [treeDepth, Option.filter_eq_some_iff, Bool.and_eq_true, decide_eq_true_eq] at h
      have := h.2.1.1.1.2
      split at this <;> omega
    have h1 : (treeDepth (linkKey 0 1 2 1) == some 200) = false := by
      cases h : treeDepth (linkKey 0 1 2 1) with
      | none => rfl
      | some d => have := hd _ _ h; simp; omega
    have h2 : (isUcie (linkKey 0 1 2 1) || isPackage (linkKey 0 1 2 1)) = false := by decide
    simp only [cfSlot, h1, h2, Bool.false_and, Bool.or_self, Bool.false_or]
    split
    · simp; omega
    · rfl
  have he : moving.entry (linkKey 0 1 2 1) 200 = 0xA0000000 := by rw [State.entry, hc]; rfl
  simp only [State.namedLink, Option.isSome_or, Bool.or_eq_true, List.find?_isSome]
  exact .inr ⟨linkKey 0 1 2 1, by decide, by
    show (bit (moving.entry (linkKey 0 1 2 1) 200) 31 && !bit (moving.entry (linkKey 0 1 2 1) 200) 30 &&
      bits (moving.entry (linkKey 0 1 2 1) 200) 29 27 == (4 : BitVec 3).toNat) = true
    rw [he]; decide⟩

def landing : State :=
  { (wheel.modYard 0 fun y => { y with circuits := [(9, { cid := 9, st := .open, rx := 3 })] }) with
    flits := [{ cid := 9, seq := 3, inp := 7 }] }

theorem witness_LinkEvents :
    wheel.flits.all (fun f => decide (f.wt ≤ wheel.wt)) = true ∧ (∀ f, wheel.namedLink f = none) ∧
    (wheel.dieAt 0).misroute.toNat < 2 ^ 64 - 1 ∧
    moving.flits.map (fun f => (f.unit, f.row, f.col, f.inp)) = [(0, 1, 2, 4)] ∧
    moving.flits.all (fun f => decide (f.wt ≤ moving.wt)) = true ∧ (∀ f ∈ moving.flits, (moving.namedLink f).isSome = true) ∧
    landing.flits.map (fun f => (f.inp, f.seq, f.cid)) = [(7, 3, 9)] ∧
    (landing.circuit? 0 9).map (fun c => (c.rx, c.words.length, c.cid)) = some (3, 0, 9) ∧
    isUcie (linkKey 0 8 63 1) = true ∧ isPackage (linkKey 8 2 0 6) = true ∧ isMesh (linkKey 0 4 4 1) = true ∧
    (wheel.linkAt (linkKey 8 2 0 6)).failed = false ∧ (wheel.linkAt (linkKey 0 8 63 1)).failed = false ∧
    (wheel.dieAt 0).linkFail.toNat < 2 ^ 64 - 1 ∧
    (∀ y ∈ wheel.yards, ∀ p ∈ y.2.circuits, p.2.crosses [linkKey 0 8 63 1, reverseLink (linkKey 0 8 63 1)] = false) ∧
    (∀ p ∈ wheel.pkg.peers, p.crosses [linkKey 0 8 63 1, reverseLink (linkKey 0 8 63 1)] = false) ∧
    (wheel.linkAt (linkKey 0 4 4 1)).half = false ∧ wheel.linkHolds (linkKey 0 4 4 1) = false ∧ moving.linkHolds (linkKey 0 1 2 1) = true ∧
    (wheel.linkAt (linkKey 0 4 4 1)).idle.toNat + 20000 ≤ wheel.wt.toNat ∧
    (wheel.linkAt 6).waking = some 0 ∧ (wheel.linkAt 7).waking = some 25000 ∧ wheel.wt.toNat < 25000 + 2000 ∧
    (wheel.linkAt 5).failed = true ∧
    (wheel.circuit? 0 9).map (fun c => (c.suspended, c.plan, c.chains.any (·.live), c.cid, c.back.words.isEmpty)) = some (true, [], true, 9, true) ∧
    (2 : BitVec 64).toInt.natAbs ≤ 2 ∧ (0xFFFFFFFFFFFFFFFE : BitVec 64).toInt.natAbs ≤ 2 ∧
    joined.pkg.member = true ∧ joined.pkg.aligned = false ∧ joined.noPaddock = true ∧ joined.wt.toNat % 256 = 0 ∧
    alignedPkg.pkg.aligned = true ∧ allOut.pkg.member = false ∧ allOut.yards = [] ∧ allOut.pkg.peers = [] ∧
    (∀ k ∈ packageKeys, (allOut.linkAt k).out = true) ∧
    alignedPkg.pkg.number ≠ 2 ∧ keyRow (linkKey 8 2 0 6) = 2 ∧ alignedPkg.pkg.member = true ∧
    (∃ xyz, torusStep alignedPkg.pkg.coords (keyCol (linkKey 8 2 0 6) / 6) = xyz) ∧ alignedPkg.pkg.offset.natAbs ≤ 2 ∧
    alignedPkg.pkg.peers.any (fun p => p.dst == peerFar 2) = true := by
  refine ⟨by decide, wheel_names_no_link, by decide, by decide, by decide, moving_named, by decide, by decide, ?_⟩
  refine ⟨by decide, by decide, by decide, by decide, by decide, by decide, by decide, by decide, by decide, by decide, by decide, ?_⟩
  refine ⟨by decide, by decide, by decide, by decide, by decide, by decide, by decide, by decide, by decide, by decide, ?_⟩
  exact ⟨by decide, by decide, by decide, by decide, by decide, by decide, by decide, by decide, by decide, by decide,
    ⟨_, rfl⟩, by decide, by decide⟩

/-- Port group 2: no tokens, requests of tenant 3 held at string 0 of die 0; port group 4 with a token for tenant 3. -/
def tokened : State :=
  (({ (one {}) with wt := 4096 }.modStr 0 0 fun x =>
      { x with
        stops := [0x32, 0x34]
        peerStops := [peerStopKey 0 2 3, peerStopKey 0 4 3]
        held := [{ pg := 4, ten := 3 }] }).modPg 0 2 fun g => { g with stopped := [3] }).modPg 0 4 fun g =>
    { g with stopped := [3], tokens := { period := 4, buckets := [(3, { b := 1 })] } }

theorem witness_TokenEvents :
    (tokened.pgAt 0 2).tokens.period ≤ tokened.wt.toNat / 1024 ∧ (tokened.pgAt 0 4).tokens.period ≤ tokened.wt.toNat / 1024 ∧ (tokened.pgAt 0 2).tokens.debts = [] ∧
    tokened.wt.toNat / 1024 < ((tokened.modPg 0 5 fun g => { g with tokens := { period := 5 } }).pgAt 0 5).tokens.period ∧ (tokened.pgAt 0 2).stopped.contains 3 = true ∧
    (tokened.tokensAt 0 2).canTake (tokened.dieAt 0).tenants 3 = false ∧
    portDie 0 = 0 ∧ portStr 0 = 0 ∧ (tokened.strAt 0 0).stoppedFor 0 4 3 = true ∧
    (tokened.strAt 0 0).held.any (tokened.reqFor 0 4 3) = true ∧
    (tokened.strAt 0 0).beacons.find? (peerStopKey 0 4 3) ≠ some (tokened.rev + 1) ∧
    (tokened.tokensAt 0 4).canTake (tokened.dieAt 0).tenants 3 = true ∧ 0 < tokened.tokensFree 0 4 3 ∧
    (tokened.strAt 0 0).held.map (fun r => (tokened.reqFor 0 4 3 r, r.up, r.peer, r.slot)) = [(true, 0, false, none)] ∧
    portStr 1 = 1 ∧ (tokened.strAt 0 1).stoppedFor 0 2 3 = false := by decide

/-- Port group 4 with a queued read of tenant 3 at address 0x40 of port group 1's page, and port group 5 with one of tenant 3, whose
turn has not come at port group 2; port groups 5 and 6 with a peer access to die 1 and to package 9, and the peer circuits on which
they go; accesses of a handle that is not valid, and of one of a page; a reduction of a vault word, one of page 0 and one at a bad
address; and a response under way. -/
def busy : State :=
  let rd : Req := { ten := 3, pg := 4, va := 0x40, runs := [(0x40, 8)], pieces := [{ unit := 1, va := 0x40, pa := 0x1040, n := 8 }] }
  let red : Posted := { va := 0x748, op := 0, wide := true, opnd := 1 }
  let s := (withMe tokened fun c => { c with wait := .performed (.word 5) }).modPg 0 4 fun g => { g with queue := [rd] }
  let s := s.modPg 0 5 fun g => { g with peerQ := [.access { rd with peer := true, pg := 5, tos := [{ die := 1 }] }] }
  let s := s.modPg 0 6 fun g =>
    { g with
      peerQ := [.access { rd with peer := true, tos := [{ pkg := 9 }] }]
      peerIn := [{ rd with peer := true, tos := [{}] }] }
  let s := s.modPg 0 7 fun g => { g with posted := [red], tlb := [{ page := 0, pa := 0x1000, rd := true, w := true }] }
  let s := s.modPg 0 8 fun g => { g with posted := [{ red with va := 0x1000000000000 }] }
  let s := s.setVault 0 3 { (s.vaultAt 0 3) with posted := [{ red with piece := some { vault := true, unit := 3, va := 0x748, pa := 0x748, n := 8 } }] }
  { s with pkg := { s.pkg with
      peers := [{ src := peerPg 0 5, dst := peerPg 1 5 }, { src := peerPg 0 6, dst := peerLd }, { src := peerLd, dst := peerFar 9 }]
      ldQ := [.access { rd with peer := true, tos := [{ pkg := 9 }] }] } }

/-- Tenants 1 and 3 wait at port group 4 for the one token of the pool; tenant 3, which has a share, goes first. -/
def contended : State :=
  let rd : Req := { ten := 1, pg := 4, va := 0x40, runs := [(0x40, 8)], pieces := [{ unit := 4, va := 0x40, pa := 0x1040, n := 8 }] }
  ((one {}).modDie 0 fun d =>
    { d with pads := [(0, paddock 31), (1, { desc := [1, word (1 * 2 ^ 4), 0, 0, 0, 0, 0, 0] })] }).modPg 0 4 fun g =>
    { g with queue := [rd, { rd with ten := 3 }], tokens := { pool := 1 } }

theorem witness_HomeEvents :
    (busy.pgAt 0 4).queue.map (fun r => (r.ten, busy.mayServeAll 0 3 r.pieces)) = [(3, true)] ∧
    (contended.pgAt 0 4).queue.map (fun r => (r.ten, contended.mayServeAll 0 r.ten.toNat r.pieces)) = [(1, false), (3, true)] ∧
    (busy.pgAt 0 5).peerQ.map (fun r => (busy.goesFar r, busy.peerCircuit (peerPg 0 5) (peerPg (r.tos.headD {}).die 5))) = [(false, true)] ∧
    (busy.pgAt 0 6).peerQ.map (fun r => (busy.goesFar r, busy.peerCircuit (peerPg 0 6) peerLd)) = [(true, true)] ∧
    busy.pkg.ldQ.map (fun r => r.tos) = [[{ pkg := 9 }]] ∧ busy.farCircuit 9 = true ∧
    (busy.pgAt 0 6).peerIn.map (fun r => (r.ipkg, r.runs, r.tos)) = [(busy.pkg.number, [(0x40, 8)], [{}])] ∧
    (busy.dieAt 0).handle 0 = [0, 0, 0, 0] ∧
    (busy.vaultAt 0 3).posted.map (fun p => (p.peer, p.form, addrFault p.va p.size, bit p.va 47, p.piece.isSome)) =
      [(false, 0, none, false, true)] ∧
    busy.bad = [] ∧
    (busy.pgAt 0 7).posted.map (fun p => (p.peer, p.form, addrFault p.va p.size, bit p.va 47, p.piece.isSome, busy.postedReady 0 7 p)) =
      [(false, 0, none, false, false, true)] ∧
    (match (busy.modPg 0 7 fun y => { y with posted := [] }).pieces 0 .ports 0 3 (lineParts 2 0x748 8) with
      | (.ok ps, v) => !ps.isEmpty && v.bad.isEmpty
      | _ => false) = true ∧
    (busy.pgAt 0 8).posted.map (fun p => (p.peer, busy.postedReady 0 8 p, (addrFault p.va p.size).isSome)) = [(false, true, true)] ∧
    (busy.ctxOf (ctxKey 0 0 0)).wait = .performed (.word 5) := by
  refine ⟨by decide, by decide, by decide, by decide, by decide, ?_, by decide, by decide, by decide, by decide, by decide, by decide,
    by decide, by decide⟩
  have h : busy.pkg.peers = [{ src := peerPg 0 5, dst := peerPg 1 5 }, { src := peerPg 0 6, dst := peerLd }, { src := peerLd, dst := peerFar 9 }] := rfl
  simp only [State.farCircuit, h, List.any_cons, Bool.or_eq_true]
  exact .inr (.inr (.inl (by rw [show bits (peerFar 9) 11 0 = (9 : BitVec 12).toNat by decide]; simp; decide)))

theorem witness_GuardFalse :
    wf (.divU 4 0 30 29) = true ∧ guardOf (.divU 4 0 30 29) = some 4 ∧ sc.readP 4 = false ∧ sc.cur.rep = false ∧
    wf (.hret 7) = true ∧ guardOf (.hret 7) = some 7 ∧ sc.readP 7 = false ∧
    wf (.eret 1 1 2) = true ∧ guardOf (.eret 1 1 2) = some 1 ∧ sc.readP 1 = false := by decide

theorem witness_RegisterFrames :
    sc.cur.rep = false ∧ Operands sc [30, 9] (some 28) [5, -1] ∧ sc.readP 3 = true ∧
    registerForm (.mulh 3 9 30 28) = some { guard := 3, srcs := [30, 9], dst := some 28 } ∧
    Operands sc [30, 30] none [5, 7] ∧ registerForm (.cmp 0 1 30 30 7) = some { guard := 0, srcs := [30, 30], pred := some 7 } ∧
    Operands sc [] none [] ∧ registerForm .cNop = some {} :=
  ⟨by decide, ⟨by decide, by decide, by decide, by decide⟩, by decide, by decide, ⟨by decide, by decide, by decide, by decide⟩,
    by decide, ⟨by decide, by decide, by decide, by decide⟩, by decide⟩

/-- The supervisor context of a paddock on core 0; handler 0 of core 1 is parked, and handler 1 of core 1 has halted after a trap of
its repeat stream; S1 = an even address, S2 names handler 0 of logical core 1, S3 an odd address, S4 an address above 2^48, S5 no
agent, S6 = handler 1, S7 = core 1's task, which is dormant. -/
def supv : State :=
  { inPad 0 (one (sregs [(1, 0x2000), (2, 5), (3, 0x2001), (4, 0x1000000000000), (5, 7), (6, 6), (7, 4)])) with
    ctxs := (one (sregs [(1, 0x2000), (2, 5), (3, 0x2001), (4, 0x1000000000000), (5, 7), (6, 6), (7, 4)])).ctxs ++
      [(5, { st := .parked }), (6, { st := .parked, halted := true, regs := { csr := [(Csr.tcause, 2 ^ 41)] } })] }

theorem witness_TrapsAndReturns :
    sc.readP 3 = true ∧ sc.cur.rep = false ∧ sc.meSupv = false ∧ wrongWay false [1, 2] none = false ∧ supv.meSupv = true ∧
    supv.readP 0 = true ∧ supv.cur.rep = false ∧
    Operands supv [1, 2] none [0x2000, 5] ∧ Operands supv [3, 6] none [0x2001, 6] ∧ Operands supv [4, 2] none [0x1000000000000, 5] ∧
    Operands supv [1, 5] none [0x2000, 7] ∧ Operands supv [1, 7] none [0x2000, 4] ∧
    supv.agentNamed 5 = some { core := 1, ctx := 1 } ∧ supv.agentNamed 6 = some { core := 1, ctx := 2 } ∧ supv.agentNamed 7 = none ∧
    supv.agentNamed 4 = some { core := 1 } ∧ (supv.ctxOf (ctxKey 0 1 0)).st ≠ .parked ∧
    (supv.ctxOf (ctxKey 0 1 1)).st = .parked ∧ (supv.ctxOf (ctxKey 0 1 2)).st = .parked ∧
    (Agent.mk 0 1 1 false).same supv.cur = false ∧ ctxKey 0 1 1 ≠ supv.key ∧
    bit (0x2000 : Word) 0 = false ∧ bits (0x2000 : Word) 63 48 = 0 ∧ bit (0x2001 : Word) 0 = true ∧
    bit (0x1000000000000 : Word) 0 = false ∧ bits (0x1000000000000 : Word) 63 48 ≠ 0 := by
  refine ⟨?_, ?_, ?_, ?_, ?_, ?_, ?_, ⟨?_, ?_, ?_, ?_⟩, ⟨?_, ?_, ?_, ?_⟩, ⟨?_, ?_, ?_, ?_⟩, ⟨?_, ?_, ?_, ?_⟩, ⟨?_, ?_, ?_, ?_⟩, ?_, ?_, ?_,
    ?_, ?_, ?_, ?_, ?_, ?_, ?_, ?_, ?_, ?_, ?_⟩ <;> decide

theorem witness_Privilege :
    sc.readP 3 = true ∧ sc.cur.rep = false ∧ sc.inHandler = false ∧ sc.me.regs.repActive = false ∧ sc.meSupv = false ∧
    sc.mePf = false ∧ wrongWay false [1, 2, 3] none = false ∧
    0x100 ≤ (0x100 : BitVec 12).toNat ∧ (0x125 : BitVec 12).toNat ≤ 0x125 ∧
    Operands sc [] (some 1) [] ∧ Operands sc [30] none [5] ∧ bit (sc.coreCsr Csr.tscr) 60 = false := by
  refine ⟨?_, ?_, ?_, ?_, ?_, ?_, ?_, ?_, ?_, ⟨?_, ?_, ?_, ?_⟩, ⟨?_, ?_, ?_, ?_⟩, ?_⟩ <;> decide

/-- A fetched line with C.NOP at its start, an opcode 0x00 in its last word, and a task whose repetition buffer holds one word. -/
def fetched (pc : Word) : State :=
  (withMe (one { pc := pc, repBuf := [0b010_00000_01011_01010_01001_0000001_11] }) fun c => c).modMyStr fun x =>
    { x with icache := [{ va := 0x40, data := 5 + 3 * 2 ^ 480 }] }

/-- Its repeat stream in a repetition. -/
def repeating : State :=
  withMe ((fetched 0x40).as (Agent.mk 0 0 0 true)) fun c => { c with regs := c.regs.setCsr Csr.reppos (1 <<< 63) }

theorem witness_StepRunsDecoded :
    (∀ pc, (fetched pc).agenda = []) ∧ (fetched 0x40).canRun = true ∧ (fetched 0x40).cur.rep = false ∧
    (fetched 0x40).me.pendFp = false ∧ (fetched 0x40).me.pendFpRep = false ∧ (fetched 0x40).me.pendOvf = false ∧
    ((fetched 0x40).cacheLine 0 0x40).isSome = true ∧ ((fetched 0x7C).cacheLine 0 0x40).isSome = true ∧
    (0x7C : Word).toNat % 64 = 60 ∧ (0x7C : Word) &&& ~~~(63 : Word) = 0x40 ∧
    decode [5, 0, 0, 0] = .instr .cNop 2 ∧ (match decode [3, 0, 0, 0] with | .illegal _ _ => true | _ => false) = true ∧
    (match (fetched 0x40).fetchNext with | (.ok (.instr .cNop _), _) => true | _ => false) = true ∧
    (match (fetched 0x1000000000000).fetchNext with | (.error _, _) => true | _ => false) = true ∧
    (one {}).agenda = [] ∧ ({} : State).canRun = false ∧
    (withMe (one {}) fun c => { c with pendFp := true }).canRun = true ∧ (withMe (one {}) fun c => { c with pendFp := true }).me.pendFp = true ∧
    repeating.canRun = true ∧ repeating.cur.rep = true ∧ repeating.me.pendFp = false ∧
    repeating.me.regs.repBuf[bits (repeating.csr Csr.reppos) 51 48]? = some 0b010_00000_01011_01010_01001_0000001_11 ∧
    decode32 0b010_00000_01011_01010_01001_0000001_11 = .ok (.add 2 11 10 9) ∧
    isWord (.tokenRefill 0 0) = false ∧ isWord .cNop = true := by
  refine ⟨fun _ => rfl, ?_, ?_, ?_, ?_, ?_, ?_, ?_, ?_, ?_, ?_, ?_, ?_, ?_, ?_, ?_, ?_, ?_, ?_, ?_, ?_, ?_, rfl, ?_, ?_⟩ <;> decide +kernel

theorem witness_RoundTrip :
    isWord (.divU 4 0 30 29) = true ∧ wf (.divU 4 0 30 29) = true ∧ isWord .cNop = true ∧ wf .cNop = true := by decide

theorem witness_MemoryCanonical :
    Memory.wf (one {}).mem = true ∧ (match step ({} : State) with | .next _ => true | _ => false) = true := by decide

/-- A supervisor; core 1's task is parked, core 2's is saved in its slot with an image, core 3's task context is free and core 4's is not. S1 names
core 1's task, S2 core 2's, S3, S4 and S8 are logical cores 3, 4 and 2, S5 is 2^32 - 1, S6 is 2^32. -/
def saver : State :=
  let t := inPad 0 (one (sregs [(1, 4), (2, 8), (3, 3), (4, 4), (5, 0xFFFFFFFF), (6, 0x100000000), (8, 2)]))
  { t with
    ctxs := t.ctxs ++ [(4, { st := .parked }), (16, { st := .running }),
      (ctxKey (slotDie 0) 2 0, { st := .saved, regs := { csr := [(Csr.tstat, 1)] } })]
    cores := t.cores ++ [(1, { tiles := [(0, { data := 5 }), (31, { data := 6 })] }), (coreKey (slotDie 0) 2, { tiles := [(7, { data := 8 })] })]
    images := [(coreKey (slotDie 0) 2, { form := 2 })] }

theorem witness_RegionsSaveRestore :
    sc.readP 0 = true ∧ sc.cur.rep = false ∧ sc.inHandler = false ∧ (sc.as { ctx := 1 }).inHandler = true ∧ region.me.region.isSome = true ∧
    sc.me.region = none ∧ sc.me.regs.repActive = false ∧ region.me.region = some {} ∧ region.me.flog = [] ∧
    (withMe region fun c => { c with flog := [{}] }).me.flog ≠ [] ∧ (region.task 0 0).region = some {} ∧
    Operands saver [5] none [0xFFFFFFFF] ∧ Operands saver [6] none [0x100000000] ∧
    saver.readP 0 = true ∧ saver.cur.rep = false ∧ saver.meSupv = true ∧ saver.me.regs.repActive = false ∧
    saver.agentNamed 4 = some { core := 1 } ∧ saver.agentNamed 8 = some { core := 2 } ∧ saver.cur.ctx = 0 ∧ saver.cur.core ≠ 1 ∧ saver.cur.core ≠ 2 ∧
    Operands saver [1] none [4] ∧ Operands saver [2] none [8] ∧ (saver.ctxOf (ctxKey 0 1 0)).st = .parked ∧
    (saver.ctxOf (ctxKey 0 1 0)).region = none ∧
    saver.savedOn 0 1 = false ∧ saver.quiet 0 1 = true ∧ (saver.commitFor { core := 1 }).quiet 0 1 = true ∧ saver.imageError 0 1 = false ∧
    saver.savedCtx { core := 2 } = true ∧ saver.savedCtx { core := 1 } = false ∧
    (saver.modStr 0 0 fun x => { x with queue := [(0, { agent := { core := 1 } })] }).quiet 0 1 = false ∧
    Operands saver [3, 2] none [3, 8] ∧ Operands saver [8, 2] none [2, 8] ∧ Operands saver [4, 2] none [4, 8] ∧
    Operands saver [3, 1] none [3, 4] ∧
    saver.images.find? (coreKey (slotDie 0) 2) = some { form := 2 } ∧ (saver.coreOf (coreKey (slotDie 0) 2)).lean = [] ∧
    saver.physOf 0 0 3 = some 3 ∧ saver.physOf 0 0 4 = some 4 ∧ saver.physOf 0 0 2 = some 2 ∧ strOf 3 = strOf 2 ∧ strOf 4 = strOf 2 ∧
    3 ≠ saver.cur.core ∧ bits ((saver.ctxOf (ctxKey (slotDie 0) 2 0)).regs.getCsr Csr.tstat) 1 0 = 1 ∧ Memory.wf saver.mem = true ∧
    saver.freeCore 0 3 = true ∧ saver.freeCore 0 2 = true ∧ saver.freeCore 0 4 = false := by
  refine ⟨?_, ?_, ?_, ?_, ?_, ?_, ?_, ?_, ?_, ?_, ?_, ⟨?_, ?_, ?_, ?_⟩, ⟨?_, ?_, ?_, ?_⟩, ?_, ?_, ?_, ?_, ?_, ?_, ?_, ?_, ?_, ⟨?_, ?_, ?_, ?_⟩,
    ⟨?_, ?_, ?_, ?_⟩, ?_, ?_, ?_, ?_, ?_, ?_, ?_, ?_, ?_, ⟨?_, ?_, ?_, ?_⟩, ⟨?_, ?_, ?_, ?_⟩, ⟨?_, ?_, ?_, ?_⟩, ⟨?_, ?_, ?_, ?_⟩, ?_, ?_, ?_, ?_, ?_, ?_,
    ?_, ?_, ?_, ?_, ?_, ?_, ?_⟩ <;> decide

/-- A supervisor whose paddock owns ASID 1; S1 = 64, S2 = 1, S3 = 0x1000, S4 = 2,048, S5 = 9, S6 = all ones, S7 = 2^48. -/
def invalidator : State :=
  (inPad 0 (one (sregs [(1, 64), (2, 1), (3, 0x1000), (4, 2048), (5, 9), (6, -1), (7, 0x1000000000000)]))).modDie 0 fun d =>
    { d with asids := [(9, (8, 0))] }

theorem witness_Invalidation :
    invalidator.readP 0 = true ∧ invalidator.cur.rep = false ∧ invalidator.inHandler = false ∧ invalidator.meSupv = true ∧
    Operands invalidator [1, 2, 3] none [64, 1, 0x1000] ∧ Operands invalidator [6, 2, 7] none [-1, 1, 0x1000000000000] ∧
    Operands invalidator [0, 2, 7] none [0, 1, 0x1000000000000] ∧ Operands invalidator [0, 2, 3] none [0, 1, 0x1000] ∧
    Operands invalidator [1, 4, 3] none [64, 2048, 0x1000] ∧ Operands invalidator [1, 5, 3] none [64, 9, 0x1000] ∧
    invalidator.tlbiAsidOk 1 = true ∧ invalidator.tlbiAsidOk 9 = false ∧ (0x1000 : Word).toNat + (64 : Word).toNat ≤ 2 ^ 48 ∧
    ¬ ((0x1000000000000 : Word).toNat < 2 ^ 48) ∧ invalidator.waiting = .idle ∧ invalidator.me.region = none ∧
    invalidator.fenceBusy invalidator.cur [0, 4] 11 = false ∧ invalidator.me.flog = [] ∧
    (invalidator.modPg 0 0 fun p => { p with posted := [{ aim := { hbm := true } }] }).fenceBusy invalidator.cur [0, 4] 11 = true ∧
    (withMe invalidator fun c => { c with wait := .sent }).waiting = .sent ∧
    (withMe invalidator fun c => { c with wait := .answered (.word 0) }).waiting = .answered (.word 0) ∧
    (withMe invalidator fun c => { c with flog := [{}] }).me.flog ≠ [] := by
  refine ⟨?_, ?_, ?_, ?_, ⟨?_, ?_, ?_, ?_⟩, ⟨?_, ?_, ?_, ?_⟩, ⟨?_, ?_, ?_, ?_⟩, ⟨?_, ?_, ?_, ?_⟩, ⟨?_, ?_, ?_, ?_⟩, ⟨?_, ?_, ?_, ?_⟩,
    ?_, ?_, ?_, ?_, ?_, ?_, ?_, ?_, ?_, ?_, ?_, ?_⟩ <;> decide

/-- A task of the physical function, with one fault-log entry. -/
def manager : State := withMe sc fun c => { c with launch := { pf := true }, flog := [{ va := 7 }] }

theorem witness_SystemRegisters :
    manager.readP 0 = true ∧ manager.cur.rep = false ∧ Operands manager [] (some 28) [] ∧ Operands manager [11] none [0] ∧
    Operands manager [10] none [1] ∧ Operands manager [9] none [-1] ∧ manager.csrDenied 0x000 = false ∧ manager.csrDenied 0x115 = false ∧
    manager.csrDenied 0x103 = false ∧ manager.csrDenied 0x130 = false ∧ manager.csrDenied 0x027 = false ∧ supv.csrDenied 0x063 = false ∧
    manager.meSupv = false ∧ bit (supv.coreCsr Csr.tscr) 60 = false ∧
    manager.me.flog[(manager.csr 0x054).toNat]? = some { va := 7 } ∧ sc.me.flog[(sc.csr 0x054).toNat]? = none ∧
    manager.waiting = .idle ∧ (withMe manager fun c => { c with wait := .sent }).waiting = .sent ∧
    (withMe manager fun c => { c with wait := .answered (.word 0) }).waiting = .answered (.word 0) := by
  refine ⟨?_, ?_, ⟨?_, ?_, ?_, ?_⟩, ⟨?_, ?_, ?_, ?_⟩, ⟨?_, ?_, ?_, ?_⟩, ⟨?_, ?_, ?_, ?_⟩, ?_, ?_, ?_, ?_, ?_, ?_, ?_, ?_, ?_, ?_, ?_, ?_, ?_⟩ <;> decide

/-- SEND operands: S1 = 0x1FE10, S2 = 496 bytes to logical core 31 on channel 7, S3 = the same with 497 bytes, S4 = an offset not a
multiple of 8, S5 = an offset whose payload ends outside; S6 = a logical core that is none. -/
def sender : State :=
  inPad 31 (one (sregs [(1, 0x1FE10), (2, word (496 * 2 ^ 32 + 7 * 2 ^ 12 + 31)), (3, word (497 * 2 ^ 32 + 7 * 2 ^ 12 + 31)), (4, 0x1FE0C),
    (5, 0x1FE18), (6, 32)]))

/-- A handler run of channel 3 whose queue lies at 0x1000; and CHAN.CFG operands: S1 a handler address, S2 = 7, S3 = the largest queue
that ends at the local store's end, S4 = one entry, S5 a base outside, S6 disabled, S7 = 8. -/
def chan : State :=
  (withMe (one (sregs [(1, 0xFFFFFFFFFFFE), (2, 7), (3, word (2 ^ 63 + 2048 * 2 ^ 31)), (4, word (2 ^ 63 + 2 ^ 31)),
      (5, word (2 ^ 63 + 0x1FFC0 * 2 ^ 43 + 2 * 2 ^ 31)), (7, 8)])) fun c => c).modMyCore fun x =>
    { x with csr := [(0x033, word (2 ^ 63 + 0x1000 * 2 ^ 43 + 2 * 2 ^ 31)), (0x035, word (2 ^ 63 + 0x2000 * 2 ^ 43 + 2 * 2 ^ 31)), (0x045, 1)] }

def handling : State := (chan.as { ctx := 1 }).setMe { st := .running, run := some { chan := 3, off := 64 } }

theorem witness_MessagesAndChannels :
    sender.readP 0 = true ∧ sender.cur.rep = false ∧ sender.me.region = none ∧ sender.me.st = .running ∧
    Operands sender [1, 2] none [0x1FE10, word (496 * 2 ^ 32 + 7 * 2 ^ 12 + 31)] ∧
    Operands sender [1, 3] none [0x1FE10, word (497 * 2 ^ 32 + 7 * 2 ^ 12 + 31)] ∧
    Operands sender [4, 2] none [0x1FE0C, word (496 * 2 ^ 32 + 7 * 2 ^ 12 + 31)] ∧
    Operands sender [5, 2] none [0x1FE18, word (496 * 2 ^ 32 + 7 * 2 ^ 12 + 31)] ∧
    Operands sender [1, 6] none [0x1FE10, 32] ∧ (∀ q, sender.eccHit (lsBase 0 0 + 0x1FE10) q = false) ∧ sender.soft = [] ∧ sender.Settled 0 ∧
    sender.physOf 0 0 31 = some 199 ∧ sender.physOf 0 0 32 = none ∧ sender.me.unacked < 8 ∧
    8 ≤ (withMe sender fun c => { c with unacked := 8 }).me.unacked ∧ sender.inHandler = false ∧
    chan.inHandler = false ∧ handling.inHandler = true ∧ handling.readP 0 = true ∧
    handling.me.run.map (fun r => (r.chan, r.off, r.lean)) = some (3, 64, false) ∧
    handling.myCore.lean = [] ∧ Memory.wf handling.mem = true ∧ wrongWay false [3, 2, 1] none = false ∧
    Operands chan [1, 2, 3] none [0xFFFFFFFFFFFE, 7, word (2 ^ 63 + 2048 * 2 ^ 31)] ∧
    Operands chan [1, 2, 4] none [0xFFFFFFFFFFFE, 7, word (2 ^ 63 + 2 ^ 31)] ∧
    Operands chan [1, 2, 5] none [0xFFFFFFFFFFFE, 7, word (2 ^ 63 + 0x1FFC0 * 2 ^ 43 + 2 * 2 ^ 31)] ∧
    Operands chan [1, 2, 6] none [0xFFFFFFFFFFFE, 7, 0] ∧ Operands chan [1, 7, 6] none [0xFFFFFFFFFFFE, 8, 0] ∧
    bit (chan.myCore.chCfg 5) 63 = true ∧ bits (chan.myCore.chPtr 5) 16 0 ≠ 0 ∧ bit (chan.myCore.chCfg 7) 63 = false := by
  refine ⟨?_, ?_, ?_, ?_, ⟨?_, ?_, ?_, ?_⟩, ⟨?_, ?_, ?_, ?_⟩, ⟨?_, ?_, ?_, ?_⟩, ⟨?_, ?_, ?_, ?_⟩, ⟨?_, ?_, ?_, ?_⟩, fun _ => rfl, ?_, fun _ => rfl, ?_, ?_,
    ?_, ?_, ?_, ?_, ?_, ?_, ?_, ?_, ?_, ?_, ⟨?_, ?_, ?_, ?_⟩, ⟨?_, ?_, ?_, ?_⟩, ⟨?_, ?_, ?_, ?_⟩, ⟨?_, ?_, ?_, ?_⟩, ⟨?_, ?_, ?_, ?_⟩,
    ?_, ?_, ?_⟩ <;> decide

/-- Messages to core 1: 0 on its way from string 0's relay, 1 there on channel 3, 2 there on channel 5, whose lean-to holds one, 3
refused at 0, and 4 to core 2, whose lean-to is full; an acceptance, a waiting record of channel 3, and parked records of an ordered
launch. -/
def mail : State :=
  let t := { (one {}) with wt := 25600 }
  let m : Msg := { core := 1, chan := 3, payload := [1, 2, 3], sender := 9, seq := 4 }
  let q (w : Nat) (n : BitVec 13) : QRec := { chan := 1, off := 64 * w, msg := { m with chan := 1, win := w, sender := n, launch := { ordered := true } } }
  let t := t.modDie 0 fun d => { d with
    msgs := [{ m with core := 9 }, m, { m with chan := 5 }, { m with refused := some 0, src := { core := 8 } }, { m with core := 2, chan := 5 }]
    acks := [{}] }
  let t := t.modCore 1 fun c => { c with
    csr := [(0x033, word (2 ^ 63 + 0x1000 * 2 ^ 43 + 2 * 2 ^ 31)), (0x045, 1)]
    lean := [{ m with chan := 5 }], last := some {}, recs := [q 1 7, q 0 8, q 0 7] }
  let t := t.modCore 2 fun c => { c with
    csr := [(0x045, 1)], lean := List.replicate 352 { m with chan := 5, payload := List.replicate 496 0 } }
  t.modCore 3 fun c => { c with recs := [{ chan := 3, off := 64, msg := m }] }

theorem witness_MessageEvents :
    (mail.dieAt 0).msgs.map (fun m => (m.refused, m.relay == strOf m.core, m.kind)) =
      [(none, false, 0), (none, true, 0), (none, true, 0), (some 0, true, 0), (none, true, 0)] ∧
    bit ((mail.coreOf 1).chCfg 3) 63 = true ∧ (mail.coreOf 1).chPtr 3 = 0 ∧ mail.coreHeld 0 1 = false ∧
    mail.savedOn 0 1 = false ∧ mail.savedOn 0 2 = false ∧
    ((mail.dieAt 0).msgs[1]?.map fun m => decide (m.need + 16 ≤ 64 * bits ((mail.coreOf 1).chCfg 3) 42 31)) = some true ∧
    Memory.wf mail.mem = true ∧ bits ((mail.coreOf 1).chPtr 5) 16 0 ≠ 0 ∧ bits ((mail.coreOf 2).chPtr 5) 16 0 ≠ 0 ∧
    ((mail.dieAt 0).msgs[2]?.map fun m => decide ((mail.coreOf 1).leanBytes + m.need ≤ 180224)) = some true ∧
    ((mail.dieAt 0).msgs[4]?.map fun m => decide (180224 < (mail.coreOf 2).leanBytes + m.need)) = some true ∧
    0 + 256 ≤ mail.wt.toNat ∧ (mail.dieAt 0).acks.length = 1 ∧
    (mail.waitingRec 0 3).map (·.off) = some 64 ∧ (mail.coreOf 3).batch = [] ∧ (mail.ctxOf (ctxKey 0 3 1)).st = .dormant ∧
    (mail.ctxOf (ctxKey 0 3 2)).st = .dormant ∧ mail.coreHeld 0 3 = false ∧ mail.pkg.tripped = false ∧
    (mail.coreOf (coreKey 0 1)).last = some {} ∧ (mail.coreOf 1).batch = [] ∧ (mail.coreOf 1).batchWin < mail.window 0 0 ∧
    ((mail.coreOf 1).parked (mail.window 0 0)).length = 3 := by
  and_intros <;> decide +kernel

/-- A task with a join area at 0x1000 of two children, the first joined: TASKJ; S1 an even entry, S2 an odd one. -/
def parent (n jf base : Nat) : State :=
  withMe (inPad 31 (one (sregs [(1, 0x2000), (2, 0x2001), (3, 77)]))) fun c =>
    { c with id := { jv := true, pagent := 4 }, regs := c.regs.setCsr Csr.taskj (word (base * 2 ^ 47 + jf * 2 ^ 17 + n)) }

/-- The same with the second child's join word full. -/
def joined1 : State := (parent 2 1 0x1000).setTag (lsWord 0 0 0x1008) true

/-- In an ordered launch, with room and without; a full deque; and as deep as forks may be. -/
def orderly (n : Nat) : State := withMe (parent 2 1 0x1000) fun c => { c with launch := { ordered := true }, unacked := n }
def dequeFull : State := (parent 2 1 0x1000).modMyCore fun c => { c with deque := List.replicate 64 {}, spill := List.replicate 1000 {} }
def deep : State := withMe (parent 2 1 0x1000) fun c => { c with id := { path := 15 } }

theorem witness_SpawnJoinDone :
    Operands (parent 2 1 0x1000) [1] (some 28) [0x2000] ∧ Operands (parent 2 1 0x1000) [2] (some 5) [0x2001] ∧
    (parent 2 1 0x1000).readP 0 = true ∧ (parent 2 1 0x1000).cur.rep = false ∧ (parent 2 1 0x1000).inHandler = false ∧
    (parent 2 1 0x1000).me.region = none ∧ bits deep.me.id.path 7 0 = 15 ∧ Operands deep [1] (some 5) [0x2000] ∧
    bits ((parent 256 1 0x1000).csr Csr.taskj) 8 0 = 256 ∧ Operands (parent 256 1 0x1000) [1] (some 5) [0x2000] ∧
    2 ^ 17 < bits ((parent 1 1 0x1FFF8).csr Csr.taskj) 63 47 + 8 * 1 + 8 ∧ Operands (parent 1 1 0x1FFF8) [1] (some 5) [0x2000] ∧
    bits ((parent 0 0 0x1FFF8).csr Csr.taskj) 63 47 + 8 * 0 + 8 ≤ 2 ^ 17 ∧
    (parent 2 1 0x1000).spawnRoom = true ∧ dequeFull.spawnRoom = false ∧ Operands dequeFull [1] (some 28) [0x2000] ∧
    (orderly 7).spawnRoom = true ∧ (orderly 8).spawnRoom = false ∧ (orderly 7).lcores 0 0 ≠ [] ∧ (parent 2 1 0x1000).myCore.deque.length < 64 ∧
    Operands (parent 2 1 0x1000) [] (some 28) [] ∧ ((parent 2 1 0x1000).as { ctx := 2 }).inHandler = true ∧
    Operands ((parent 2 1 0x1000).as { ctx := 2 }) [] (some 5) [] ∧
    (parent 2 1 0x1000).tag (lsWord 0 0 0x1008) = false ∧ joined1.tag (lsWord 0 0 0x1008) = true ∧ joined1.bad = [] ∧ joined1.soft = [] ∧ joined1.Settled 0 ∧ joined1.cur.die < 4 ∧
    bits (joined1.csr Csr.taskj) 25 17 = 1 ∧ bits (joined1.csr Csr.taskj) 8 0 = 2 ∧ joined1.me.regs.repActive = false ∧
    joined1.me.id.jv = true ∧ joined1.agentOf 0 0 joined1.me.id.pagent = some { core := 1 } := by
  refine ⟨⟨?_, ?_, ?_, ?_⟩, ⟨?_, ?_, ?_, ?_⟩, ?_, ?_, ?_, ?_, ?_, ⟨?_, ?_, ?_, ?_⟩, ?_, ⟨?_, ?_, ?_, ?_⟩, ?_, ⟨?_, ?_, ?_, ?_⟩, ?_, ?_, ?_,
    ⟨?_, ?_, ?_, ?_⟩, ?_, ?_, ?_, ?_, ⟨?_, ?_, ?_, ?_⟩, ?_, ⟨?_, ?_, ?_, ?_⟩, ?_, ?_, ?_, ?_, fun _ => rfl, ?_, ?_, ?_, ?_, ?_, ?_⟩ <;> decide +kernel

/-- Barriers: S1 names barrier 511 of logical core 1, S2 = 4,095, S3 = 0, S4 = 511, S5 = 512, S6 = 4,096, S7 names no core; on core 1
barrier 511 has a count of 2, and barrier 510 one of 1 with its phase 5; messages of each kind, and replies. -/
def fenced : State :=
  let t := inPad 31 (one (sregs [(1, 0x101FF), (2, 4095), (3, 0), (4, 511), (5, 512), (6, 4096), (7, 0x4000000)]))
  (t.modCore 1 fun c => { c with bars := [(510, { count := 1, phase := 5 }), (511, { count := 2 })] }).modDie 0 fun d =>
    { d with bmsgs := [{ core := 1, num := 511 }, { core := 1, num := 510 }, { core := 1, num := 7 },
      { core := 1, num := 510, kind := 1, phase := 4 }, { core := 1, num := 510, kind := 1, phase := 5 },
      { core := 1, num := 510, kind := 2 }, { core := 1, num := 510, kind := 3 }, { core := 1, num := 510, reply := some 5 }] }

/-- The same with a context that waits for its reply, or has it. -/
def fencedWait (w : Wait) : State := withMe fenced fun c => { c with wait := w }

/-- The host's task has been saved with its barriers. -/
def fencedSaved : State :=
  { fenced.modCore 1 fun _ => {} with images := [(coreKey (slotDie 0) 1, {})] }

theorem witness_Barriers :
    fenced.readP 0 = true ∧ fenced.cur.rep = false ∧ Operands fenced [2, 4] none [4095, 511] ∧ Operands fenced [3, 5] none [0, 512] ∧
    Operands fenced [6, 4] none [4096, 511] ∧ Operands fenced [1] (some 28) [0x101FF] ∧ fenced.me.region = none ∧
    fenced.barHost 0x101FF = some 1 ∧ fenced.barHost 0x4000000 = none ∧ Operands fenced [7] (some 5) [0x4000000] ∧
    fenced.waiting = .idle ∧ (fencedWait .sent).waiting = .sent ∧ (fencedWait (.answered (.word 5))).waiting = .answered (.word 5) ∧
    (fencedWait (.answered (.word 0x8000000000000000))).waiting = .answered (.word 0x8000000000000000) ∧
    Operands fenced [2, 1] none [4095, 0x101FF] ∧ fenced.inHandler = false ∧ (fenced.as { ctx := 1 }).inHandler = true ∧
    Operands (fenced.as { ctx := 1 }) [0, 0] none [0, 0] ∧ Operands fenced [1, 3] none [0x101FF, 0] ∧
    (fenced.dieAt 0).bmsgs.map (fun m => (m.kind, m.reply, m.refused, m.agent.ctx, fenced.barWaits 0 m)) =
      [(0, none, none, 0, none), (0, none, none, 0, none), (0, none, none, 0, none), (1, none, none, 0, none), (1, none, none, 0, none),
        (2, none, none, 0, none), (3, none, none, 0, none), (0, some 5, none, 0, none)] ∧
    fencedSaved.barWaits 0 { core := 1, num := 511 } = some (slotDie 0) ∧ (fencedSaved.coreOf (coreKey (slotDie 0) 1)).leanBytes + 16 ≤ 180224 ∧
    (fenced.bar 0 1 511).count ≠ 0 ∧ (fenced.bar 0 1 511).arrived + 1 ≠ (fenced.bar 0 1 511).count ∧
    (fenced.bar 0 1 510).arrived + 1 = (fenced.bar 0 1 510).count ∧ (fenced.bar 0 1 7).count = 0 ∧
    ((fenced.bar 0 1 510).phase - 4).toNat = 1 ∧ ((fenced.bar 0 1 510).phase - 5).toNat = 0 ∧
    ((fencedWait .sent).ctxOf (ctxKey 0 0 0)).wait = .sent := by
  refine ⟨?_, ?_, ⟨?_, ?_, ?_, ?_⟩, ⟨?_, ?_, ?_, ?_⟩, ⟨?_, ?_, ?_, ?_⟩, ⟨?_, ?_, ?_, ?_⟩, ?_, ?_, ?_, ⟨?_, ?_, ?_, ?_⟩, ?_, ?_, ?_, ?_,
    ⟨?_, ?_, ?_, ?_⟩, ?_, ?_, ⟨?_, ?_, ?_, ?_⟩, ⟨?_, ?_, ?_, ?_⟩, ?_, ?_, ?_, ?_, ?_, ?_, ?_, ?_, ?_, ?_⟩ <;> decide

/-- A granted core 1 with two records; core 2 without any, in a paddock, and core 3 with one; steal requests answered by a record and
by none; records of ordered spawns on their way to core 3 and to core 5, whose deque and spill area are full; and a join word's value. -/
def herd : State :=
  let t := { inPad 31 (one {}) with wt := 25600 }
  let t := t.modCore 1 fun c => { c with granted := true, deque := [{ entry := 0x2000, args := [1, 2, 3, 4] }, {}], tiles := [(0, {})] }
  let t := t.modCore 2 fun c => { c with on := true, div := 1 }
  let t := t.modCore 3 fun c => { c with deque := [{}, { entry := 0x4000 }] }
  let t := t.modCore 5 fun c => { c with deque := List.replicate 64 {}, spill := List.replicate 1000 {} }
  t.modDie 0 fun d => { d with
    steals := [(6, 3), (6, 7)], msgs := [{ kind := 3, core := 3 }, { kind := 3, core := 5 }]
    joins := [{ core := 1, off := 0x1FFF8, bytes := [1, 2, 3, 4, 5, 6, 7, 8] }] }

theorem witness_TaskEvents :
    (herd.coreOf (coreKey 0 1)).granted = true ∧ (herd.task 0 1).st = .dormant ∧ herd.coreHeld 0 1 = false ∧
    (herd.coreOf (coreKey 0 1)).deque = { entry := 0x2000, args := [1, 2, 3, 4] } :: [(default : TaskRec)] ∧
    (herd.coreOf (coreKey 0 1)).last.map (·.uid) ≠ some 0 ∧
    (herd.coreOf (coreKey 0 2)).hasRecord = false ∧ (herd.coreOf (coreKey 0 2)).granted = false ∧
    bit (herd.coreOf (coreKey 0 2)).stealctl 4 = false ∧ (herd.task 0 2).st = .dormant ∧ herd.coreHeld 0 2 = false ∧
    (herd.coreOf (coreKey 0 2)).stealRev < herd.rev ∧ (herd.coreOf (coreKey 0 2)).on = true ∧ (∀ x ∈ (herd.dieAt 0).steals, x.1 ≠ 2) ∧
    (herd.victims 0 2)[(herd.coreOf (coreKey 0 2)).stealPos % (herd.victims 0 2).length]? = some 0 ∧ herd.victims 1 2 = [] ∧
    (herd.dieAt 0).steals[0]? = some (6, 3) ∧ (herd.dieAt 0).steals[1]? = some (6, 7) ∧ (herd.coreOf (coreKey 0 3)).spill = [] ∧
    (herd.coreOf (coreKey 0 3)).deque = [(default : TaskRec)] ++ [{ entry := 0x4000 }] ∧ (herd.coreOf (coreKey 0 7)).deque = [] ∧
    (herd.dieAt 0).msgs.map (fun m => (m.kind, m.refused, m.relay == strOf m.core)) = [(3, none, true), (3, none, true)] ∧
    (herd.coreOf (coreKey 0 3)).deque.length < 64 ∧ (herd.coreOf (coreKey 0 5)).dequeFull = true ∧
    (herd.dieAt 0).joins.map (fun p => (p.off, herd.joinDie 0 p)) = [(0x1FFF8, 0)] ∧ Memory.wf herd.mem = true := by
  and_intros <;> decide +kernel

/-- LAUNCH operands in a paddock without a launch rate; in one whose rate of 1 a millisecond is used up, there is no room. -/
def launcher (rate used : Nat) : State :=
  (one (sregs [(1, 0x1000), (2, 77)])).modDie 0 fun d => { d with pads := [(0,
    { desc := [1, word (1 * 2 ^ 53 + 4 * 2 ^ 41 + 1 * 2 ^ 29 + 2 * 2 ^ 17 + 3 * 2 ^ 4), word (31 * 2 ^ 10), word (rate * 2 ^ 16), 0, 0, 0, 0],
      admitted := used })] }

theorem witness_Launching :
    (launcher 0 0).readP 0 = true ∧ (launcher 0 0).cur.rep = false ∧ Operands (launcher 0 0) [1, 2] none [0x1000, 77] ∧
    (launcher 0 0).inHandler = false ∧ (launcher 0 0).me.region = none ∧ (launcher 0 0).launchRoom = some 0 ∧
    (launcher 1 1).launchRoom = none ∧ Operands (launcher 1 1) [1, 2] none [0x1000, 77] ∧
    ((launcher 0 0).as { ctx := 1 }).inHandler = true ∧ Operands ((launcher 0 0).as { ctx := 1 }) [0, 0] none [0, 0] := by
  refine ⟨?_, ?_, ⟨?_, ?_, ?_, ?_⟩, ?_, ?_, ?_, ?_, ⟨?_, ?_, ?_, ?_⟩, ?_, ⟨?_, ?_, ?_, ?_⟩⟩ <;> decide +kernel

/-- Die 0 with virtual function 1 open, its queue 0 of 8 entries enabled under ASID 1 with a record at HEAD, queue 1 whose record cannot
be read; port group 0 holds page 0. Die 1 has one launch with a bad record; on die 2 launches 1 and 2 are complete (one whose header
was never read), launch 4,095 is not. -/
def office (head : Nat) : State :=
  let t := { inPad 31 (one {}) with wt := 256000 }
  let t := { t with pkg := { t.pkg with boot := 6 } }
  let t := t.modDie 0 fun d => { d with funcs := [(1, { enabled := true, lqs := [(0, { cfg := word (2 ^ 63 + 32 + 3), head := BitVec.ofNat 16 head, tail := 7 }),
      (1, { cfg := word (2 ^ 63 + 32 + 3), base := 0x800000000000 })] })] }
  let t := t.modDie 1 fun d => { d with launches := [(0, { bad := true })] }
  let t := t.modDie 2 fun d => { d with launches := [(1, { failed := some 0x10 }), (2, { checked := true, info := { nw := 0 } }), (4095, {})] }
  let pg (t : State) (d : Nat) : State := t.modPg d 0 fun p => { p with tlb := [{ page := 0, pa := 0x1000, rd := true, w := true, asid := 1 },
    { page := 0, pa := 0x1000, rd := true, w := true }] }
  pg (pg t 0) 2

/-- The same with nothing in queue 0, so that intake turns to queue 1. -/
def office1 : State := (office 7).modDie 0 fun d => { d with funcs := [(1, { enabled := true, lqs := [(1, { cfg := word (2 ^ 63 + 32 + 3), base := 0x800000000000, tail := 1 })] })] }

theorem witness_MangerEvents :
    (office 0).fnOpen 0 1 = true ∧ (office 0).fnOpen 0 2 = false ∧ (office 0).fnOpen 0 0 = true ∧ ((office 0).dieAt 0).operator.isSome = false ∧
    bits (7 : Word) 15 0 < 2 ^ bits ((office 0).lq 0 1 0).cfg 3 0 ∧ 2 ^ bits ((office 0).lq 0 1 0).cfg 3 0 ≤ bits (8 : Word) 15 0 ∧
    ((office 0).lq 0 1 0).head.toNat < 2 ^ bits ((office 0).lq 0 1 0).cfg 3 0 ∧
    2 ^ bits ((office 8).lq 0 1 0).cfg 3 0 ≤ ((office 8).lq 0 1 0).head.toNat ∧ bits ({ bad := true, hdr := 1 } : Launch).hdr 5 0 ≠ 0 ∧
    bit (word (2 ^ 63 + 32 + 3)) 63 = true ∧ 3 ≤ bits (word (2 ^ 63 + 32 + 3)) 3 0 ∧
    ((office 0).dieAt 0).queueAsidOk 1 1 = true ∧ ((office 0).dieAt 0).queueAsidOk 1 5 = false ∧
    ((office 0).dieAt 0).freeLid = some 0 ∧ (office 0).intakeQueue 0 = some 8 ∧ office1.intakeQueue 0 = some 9 ∧
    ((office 0).dieAt 0).fnPad 1 = some 0 ∧
    (match ((office 0).modDie 0 fun k => { k with intake := 9 }).mangerRead 0 { asid := 1, pad := 0, ten := 3 } 0 32 with
      | (some bs, _) => bs.length == 32
      | _ => false) = true ∧
    (match (office1.modDie 0 fun k => { k with intake := 10 }).mangerRead 0 { asid := 1, pad := 0, ten := 3 } 0x800000000000 32 with
      | (none, _) => true
      | _ => false) = true ∧
    ((office 0).dieAt 1).round < (office 0).rev ∧ ({} : State).rev ≤ (({} : State).dieAt 0).round ∧ ((office 0).dieAt 1).pads = [] ∧
    ((office 0).dieAt 1).launches = [(0, { bad := true })] ∧
    ((office 0).dieAt 0).coreTime.period < (office 0).wt.toNat / 128000 ∧ ((office 0).dieAt 0).coreTime.debts = [] ∧
    ((office 0).dieAt 0).tenants = [3] ∧ ({} : State).wt.toNat / 128000 ≤ (({} : State).dieAt 0).coreTime.period ∧
    ((office 0).dieAt 2).launches.find? 4095 = some {} ∧ (office 0).launchDone 2 {} = false ∧
    (office 0).launchDone 2 { failed := some 0x10 } = true ∧ (office 0).launchDone 2 { checked := true, info := { nw := 0 } } = true ∧
    ((office 0).dieAt 2).lostCompl.toNat < 2 ^ 64 - 1 ∧
    (match ((office 0).orderLaunch 2 0 6 0).mangerWrite 2 {} 8 ((({ checked := true, info := { nw := 0 } } : Launch).record 256000).flatMap fun k => natBytes 8 k.toNat) with
      | (true, u) => (u.mangerWrite 2 {} 0 (natBytes 8 1)).1
      | _ => false) = true := by
  and_intros <;> decide +kernel

/-- A supervisor whose ring of four entries lies at 0x1000 of core 0 with `t` and `h` as TAIL and HEAD, one record to be offered by
string 0, one held by string 1; core 1's task is parked, its launch in the store. -/
def sheriff (t h : Nat) : State :=
  let r : TrapRec := { words := [1, 2, 3, 4, 5, 6, 7, 8] }
  let s := { supv with wt := 25600 }
  let s := s.modCore 0 fun c => { c with csr := c.csr.set Csr.tscr (word (h * 2 ^ 32 + t * 2 ^ 24 + 2 * 2 ^ 20 + 0x1000 + 1)) }
  let s := (s.modStr 0 0 fun x => { x with traps := [r] }).modStr 0 1 fun x => { x with traps := [{ r with held := true }] }
  let s := s.modCtx (ctxKey 0 1 0) fun c => { c with st := .parked, launch := { uid := 5, lid := 4 } }
  s.modDie 0 fun d => { d with launches := [(4, { info := { uid := 5, lid := 4 }, live := 2 })] }

/-- The supervisor context parked. -/
def fallen : State := withMe (sheriff 3 3) fun c => { c with st := .parked }

/-- The task of core 2 has been saved. -/
def sheriffSaved : State :=
  { (sheriff 255 255).modCtx (ctxKey (slotDie 0) 2 0) fun c => { c with st := .saved } with images := [(coreKey (slotDie 0) 2, { form := 2 })] }

theorem witness_SupervisorEvents :
    ((sheriff 255 255).strAt 0 0).traps = [{ words := [1, 2, 3, 4, 5, 6, 7, 8] }] ∧ (sheriff 255 255).supvCore 0 0 = some 0 ∧
    (sheriff 255 255).supvAt 0 0 = true ∧ (sheriff 255 255).supvAt 0 1 = false ∧ fallen.supvAt 0 0 = false ∧
    ((sheriff 255 255).strAt 0 1).traps.map (fun r => (r.held, r.rev)) = [(true, 0)] ∧ 0 < (sheriff 255 255).rev ∧
    (let w := ((sheriff 255 255).coreOf (coreKey 0 0)).csr.getD Csr.tscr 0
     bit w 0 = true ∧ (bits w 31 24 + 256 - bits w 39 32) % 256 ≠ 2 ^ bits w 23 20) ∧
    (let w := ((sheriff 1 253).coreOf (coreKey 0 0)).csr.getD Csr.tscr 0
     bit w 0 = true ∧ (bits w 31 24 + 256 - bits w 39 32) % 256 = 2 ^ bits w 23 20) ∧
    Memory.wf (sheriff 255 255).mem = true ∧
    (word (255 * 2 ^ 32 + 7 * 2 ^ 20 + 0x1E000 + 1) &&& 0x00007F00000E003E = 0) ∧ bits (word (255 * 2 ^ 32 + 7 * 2 ^ 20 + 0x1E000 + 1)) 63 62 = 0 ∧
    (sheriff 255 255).agentOf 0 0 4 = some { core := 1 } ∧ ((sheriff 255 255).ctxOf (ctxKey 0 1 0)).st = .parked ∧
    ((sheriff 255 255).ctxOf (ctxKey 0 1 0)).halted = false ∧ (sheriff 255 255).agentOf 0 0 8 = some { core := 2 } ∧
    ((sheriff 255 255).ctxOf (ctxKey 0 2 0)).st = .dormant ∧
    sheriffSaved.supvAt 0 0 = true ∧ sheriffSaved.agentOf 0 0 8 = some { core := 2 } ∧ sheriffSaved.savedCtx { core := 2 } = true ∧
    (sheriffSaved.ctxOf (ctxKey 0 2 0)).st = .dormant ∧ (sheriff 255 255).mayEnd { core := 2 } = false ∧
    (((sheriff 255 255).dieAt 0).launches.find? 4).map (fun x => (x.info.uid, x.live)) = some (5, 2) ∧
    fallen.supvCore 0 0 = some 0 ∧ (fallen.task 0 0).st = .parked ∧ (fallen.task 0 0).halted = false ∧
    bit ((fallen.task 0 0).regs.getCsr Csr.tcause) 41 = false ∧ (0xFFFFFFFFFFFE : Word).toNat < 2 ^ 48 ∧
    ((sheriff 255 255).task 0 0).st ≠ .parked := by
  and_intros <;>
    decide +kernel

/-- A die of a paddock that owns ASIDs 1 to 4, with one command of a context that waits for its answer; handle 5 is live, exported by
ASID 1 to ASID 9 of this die, and region 3 is live with no line. -/
def tables (c : TableCmd) : State :=
  (withMe (inPad 31 (one {})) fun x => { x with wait := .sent }).modDie 0 fun d => { d with
    cmds := [{ c with agent := some {} }]
    handles := [(5, [0x87 * 2 ^ 56 + 1, 0x1000, 0x1000, word (9 * 2 ^ 39)])]
    regions := [(3, [0x8000000000000000, 0x2000, word (1 * 2 ^ 21)])] }

/-- The words of an ASID entry with V = 1, key 1 and paddock 0, of a handle of ASID 1, and of a region of one line of ASID 1. -/
def asidWords : List Word := [word (1 * 2 ^ 52 + 0x1000 + 1), 0]
def handleWords : List Word := [word (7 * 2 ^ 56 + 1), 0x1000, 0x1000, word (9 * 2 ^ 39)]
def regionWords : List Word := [0x10000, 0x20000, word (1 * 2 ^ 21 + 1), 0]

/-- A notice that has come to die 0 and one that is marked, and the exporter's handle 5 in revocation, acknowledged or not. -/
def notified (marked acked : Bool) : State :=
  ({ (one {}) with wt := 2000000 } : State).modDie 0 fun d => { d with
    handles := [(5, [0xC7 * 2 ^ 56 + 1, 0x1000, 0x1000, word (9 * 2 ^ 39)])]
    notices := [{ hnd := 5, iasid := 9, marked := marked, acked := acked }] }

/-- A running task whose micro-TLB lacks page 1 that port group 0 holds; an invalidation of page 1 of ASID 0 that core 3's micro-TLB
and port group 0 hold; one that nothing holds; and one that cores 3 and 4 have yet to acknowledge. -/
def shoot (t : Tlbi) : State :=
  ((((withMe (one {}) fun c => { c with wait := .sent }).modPg 0 0 fun p =>
      { p with tlb := [{ page := 1, pa := 0x1000, rd := true, w := true }] }).modCore 3 fun c =>
    { c with utlb := [{ page := 1, dead := t.active }, { page := 2 }] }).modCore 4 fun c => { c with utlb := [{ page := 1 }] }).modDie 0 fun d =>
    { d with tlbis := [t] }

theorem witness_TableEvents :
    ((tables { cmd := 1, sel := 1, words := asidWords }).dieAt 0).asidRefused { cmd := 1, sel := 1, words := asidWords } = false ∧
    ((tables {}).dieAt 0).asidRefused { cmd := 1, sel := 5, words := asidWords } = true ∧ ((tables {}).dieAt 0).ownsAsid 0 4 = true ∧
    ((tables {}).dieAt 0).cmds.map (·.agent) = [some {}] ∧ (({} : Agent).ctx ≠ 3) ∧ ((tables {}).ctxOf 0).wait = .sent ∧
    ((tables {}).dieAt 0).exportRefused { table := 1, cmd := 1, sel := 6, words := handleWords } = false ∧
    ((tables {}).dieAt 0).exportRefused { table := 1, cmd := 1, sel := 5, words := handleWords } = true ∧
    handleV (((tables {}).dieAt 0).handle 5) = true ∧ handleRv (((tables {}).dieAt 0).handle 5) = false ∧
    ((tables {}).dieAt 0).ownsAsid 0 (handleAsid (((tables {}).dieAt 0).handle 5)) = true ∧
    bits ((((tables {}).dieAt 0).handle 5).getD 3 0) 63 52 = (tables {}).pkg.number.toNat ∧ (((tables {}).dieAt 0).handle 5).length = 4 ∧
    handleV (((tables {}).dieAt 0).handle 6) = false ∧
    ((tables {}).dieAt 0).installRefused { table := 2, cmd := 1, sel := 4, words := regionWords } = false ∧
    ((tables {}).dieAt 0).installRefused { table := 2, cmd := 1, sel := 3, words := regionWords } = true ∧
    (let r := ((tables {}).dieAt 0).regions.getD 3 [0, 0, 0]
     ((tables {}).dieAt 0).ownsAsid 0 (regionAsid r) = true ∧ regionV r = true ∧ regionLines r = 0 ∧ r.length = 3) ∧
    regionV (((tables {}).dieAt 0).regions.getD 4 [0, 0, 0]) = false ∧ (({} : State).dieAt 0).cmds = [] ∧
    ((notified false false).dieAt 0).notices.map (fun n => (n.ipkg, n.idie)) = [((notified false false).pkg.number, 0)] ∧
    bit (((notified false false).dieAt 0).asidWords 9).1 0 = false ∧ ((notified true false).dieAt 0).tlbis = [] ∧
    ((notified true false).dieAt 0).notices.all (notified true false).awaits = true ∧
    (notified true false).noticeOf 0 5 = some (0, 0) ∧ (notified true true).noticeOf 0 5 = some (0, 0) ∧
    (((notified true true).dieAt 0).handle 5).length = 4 ∧ 0 + 2000000 ≤ (notified true false).wt.toNat ∧
    ({ (notified true false) with wt := 1999999 } : State).wt.toNat < 0 + 2000000 ∧
    ((shoot {}).task 0 0).st = .running ∧ tlbFind ((shoot {}).coreOf (coreKey 0 0)).utlb 0 0x1008 = none ∧
    tlbFind ((shoot {}).pgAt 0 (pgOf 0x1008)).tlb 0 0x1008 = some { page := 1, pa := 0x1000, rd := true, w := true } ∧
    permOk 0 false true true = true ∧
    (shoot { start := 0x1FFF, stop := 0x2000 }).holdersOf 0 { start := 0x1FFF, stop := 0x2000 } = [3, 4, 2304] ∧
    (shoot { start := 0x3000, stop := 0x4000 }).holdersOf 0 { start := 0x3000, stop := 0x4000 } = [] ∧
    ((shoot {}).ctxOf 0).wait = .sent ∧ ({} : Tlbi).agent.ctx ≠ 3 ∧ ({} : Tlbi).hw = false ∧
    (shoot { active := true, start := 0x1FFF, stop := 0x2000, holders := [3, 4] }).holderBusy 0 3
      { active := true, start := 0x1FFF, stop := 0x2000, holders := [3, 4] } = false ∧
    ((shoot { active := true, all := true, holders := [0, 4] }).modCtx 0 fun c => { c with wait := .performed (.data []) }).holderBusy 0 0
      { active := true, all := true, holders := [0, 4] } = true := by
  and_intros <;> decide +kernel

/-- A request for string 0, or for another, with a deadline of `ms` wt; REASON 0 and ID 7. -/
def order (str ms rel : Nat) : List Word :=
  [word (7 * 2 ^ 32 + ms), word (if str < 64 then 2 ^ str else 0), 0, 0, word (if 192 ≤ str then 2 ^ (str - 192) else 0), word rel]

/-- String 0 of die 0 with one context live on core 0 whose remaining wheel time is 2,000 wt less what C0 says, and a state of its
pre-emption. -/
def halting (p : PreState) (cur : Option (List Word)) : State :=
  let s := withMe (one {}) fun c => { c with launch := { ctbud := 1, nw := 1 }, cnt := c.cnt.set 0 500 }
  ({ s with wt := 1000 }.modDie 0 fun d => { d with pre := { cur := cur, acceptedAt := 400 } }).modStr 0 0 fun x => { x with pre := p }

/-- The same without a live context. -/
def quiet (p : PreState) : State := ({ (one {}) with ctxs := [] } : State).modStr 0 0 fun x => { x with pre := p }

theorem witness_PreemptionEvents :
    (({ } : State).dieAt 0).pre.cur = none ∧ (({} : State).dieAt 0).pre.queue = [] ∧ (order 255 1 0).length = 6 ∧
    bits ((order 255 1 0).getD 0 0) 59 48 = 0 ∧ bits ((order 255 1 0).getD 0 0) 63 60 = 0 ∧ bits ((order 255 1 1).getD 5 0) 63 1 = 0 ∧
    bit ((order 255 1 0).getD 5 0) 0 = false ∧ bit ((order 255 1 1).getD 5 0) 0 = true ∧
    ((halting { named := true } (some (order 0 1 0))).strAt 0 0).pre = { named := true } ∧
    ((halting { named := true } (some (order 0 1 0))).dieAt 0).pre.cur = some (order 0 1 0) ∧
    ((halting {} (some (order 0 1 0))).dieAt 0).pre.acceptedAt.toNat ≤ (halting {} (some (order 0 1 0))).wt.toNat ∧
    (halting {} none).liveCtxs 0 0 = [{}] ∧ (quiet {}).liveCtxs 0 0 = [] ∧ (halting {} none).remaining {} = some 1500 ∧
    ((halting { choice := some .drain, arrival := 1000, d := 18000 } none).strAt 0 0).pre.arrival.toNat + 18000 ≤ 1000 + 18000 ∧
    ((halting { choice := some .drain, arrival := 1000, d := 18001 } none).strAt 0 0).pre.arrival.toNat + 18001 > 1000 + 18000 ∧
    ((quiet { choice := some .drain }).strAt 0 0).pre.choice = some .drain ∧
    ((halting { choice := some .save } none).strAt 0 0).pre.choice = some .save ∧ (halting {} none).accessOpen {} = false ∧
    (∀ a ∈ (halting {} none).strCtxs 0 0, (halting {} none).notStopped a = false) ∧ ((halting {} none).ctxAt {}).region = none ∧
    (halting {} none).bad = [] ∧ (∀ c ∈ ((halting {} none).dieAt 0).goodCores 0, ((halting {} none).coreOf (coreKey 0 c)).badTiles = [] ∧
      ((halting {} none).coreOf (coreKey 0 c)).badAccs = []) ∧
    ((halting { choice := some .save, held := true } (some (order 0 1 0))).strAt 0 0).pre.named = false ∧
    ((halting { choice := some .save, held := true, releasing := true } none).strAt 0 0).pre.releasing = true ∧
    (∀ c ∈ ((halting {} none).dieAt 0).goodCores 0, ((halting {} none).coreOf (coreKey 0 c)).lean = []) ∧ (halting {} none).images = [] ∧
    ((withMe (halting {} none) fun c => { c with st := .saved }).ctxAt {}).st = .saved ∧
    bits (((halting {} none).ctxAt {}).regs.getCsr Csr.tstat) 1 0 = 0 ∧
    bits (((withMe (halting {} none) fun c => { c with st := .saved, regs := c.regs.setCsr Csr.tstat 1 }).ctxAt {}).regs.getCsr Csr.tstat)
      1 0 = 1 := by
  and_intros <;>
    decide +kernel

/-- Words of a descriptor: vault regions, first ASID, HSH of the paddock and its SUPV. -/
def descWords (vreg : Word) (asidB hsh supv : Nat) : List Word :=
  [vreg, word (asidB * 2 ^ 53 + 4 * 2 ^ 41 + 4094 * 2 ^ 29 + 2 * 2 ^ 17 + 3 * 2 ^ 4), word (hsh * 2 ^ 51 + 2 ^ 32 + supv * 2 ^ 10),
    word (255 * 2 ^ 56), 0, 0, 0, 0]

/-- A die whose PDCMD holds a command for slot 15, its table words as given, and the paddocks that live. -/
def warden (cmd : Nat) (ws : List Word) (pads : SMap Paddock) (fails : List Nat) : State :=
  let s := ({} : State).modDie 0 fun d => { d with pdcmd := word (2 ^ 63 + 15 * 16 + cmd), pdTable := [(15, ws)], pads := pads }
  { s with wt := 120000000000, pkg := { s.pkg with boot := 5, mt := true, bootFail := fails } }

/-- Another paddock of the die, whose HSH leaves room for 100. -/
def older : SMap Paddock := [(0, { desc := [2, word (1 * 2 ^ 53 + 4 * 2 ^ 41 + 16 * 2 ^ 29 + 2 * 2 ^ 17), word (5020 * 2 ^ 51 + 2 ^ 32), 0, 0, 0, 0, 0] })]

theorem witness_PaddockEvents :
    (let y := warden 1 (descWords 1 5 100 31) older []
     (y.dieAt 0).pdBusy 1 15 = true ∧ 5 ≤ y.pkg.boot ∧ y.pkg.member = false ∧ y.pad? 0 15 = none ∧
     (y.dieAt 0).tableWords 15 = descWords 1 5 100 31 ∧ badDesc (descWords 1 5 100 31) = false ∧
     (∀ q ∈ (y.dieAt 0).pads.values, ({ desc := descWords 1 5 100 31 } : Paddock).overlaps q = false) ∧
     ((y.dieAt 0).pads.values.map (·.hsh)).sum = 5020 ∧ 100 + ((y.dieAt 0).pads.values.map (·.hsh)).sum ≤ 5120 ∧
     1 + ((y.dieAt 0).pads.values.map (·.cts)).sum ≤ 131072 ∧ 31 < ((y.dieAt 0).logical 1).length ∧
     (y.dieAt 0).funcs.find? 16 = none ∧ ∀ f ∈ standingPaths 0 (descWords 1 5 100 31), y.asleep f.path = false) ∧
    ((warden 1 [] [(15, paddock 0)] []).pad? 0 15).isSome = true ∧ badDesc (descWords 0 5 100 31) = true ∧
    ({ desc := descWords 2 5 100 31 } : Paddock).overlaps ((older.getD 0 {})) = true ∧
    ({ desc := descWords 1 4 100 31 } : Paddock).overlaps ((older.getD 0 {})) = true ∧
    5120 < ({ desc := descWords 1 5 101 31 } : Paddock).hsh + 5020 ∧
    (((warden 1 [] older []).dieAt 0).logical 1).length ≤ ({ desc := descWords 1 5 100 32 } : Paddock).supv ∧
    9 ∈ (warden 1 [] older [9]).pkg.bootFail ∧ convex (regionStrs 1) = true ∧ convex (regionStrs (word (2 ^ 63 + 1))) = false ∧
    badDesc (descWords (word (2 ^ 63 + 1)) 5 100 31) = false ∧
    ((warden 3 [] [(15, paddock 0)] []).dieAt 0).pdBusy 3 15 = true ∧ (paddock 0).desc.length = 8 ∧ (paddock 0).dw < 2048 ∧
    (warden 3 [] [] []).pad? 0 15 = none ∧ ((warden 2 [] [(15, paddock 0)] []).dieAt 0).pdBusy 2 15 = true ∧
    ((warden 2 [] [(15, { (paddock 0) with phase := 1 })] []).modStr 0 0 fun x =>
      { x with held := [{ launch := { pad := 15 } }] }).padBusy 0 15 = true ∧
    (warden 2 [] [(15, { (paddock 0) with phase := 2 })] []).padBusy 0 15 = false ∧
    ((warden 2 [] [(15, { (paddock 0) with phase := 2 })] []).dieAt 0).padHandles (paddock 0) = [] ∧
    (warden 2 [] [(15, { (paddock 0) with phase := 2 })] []).padCircuits 0 15 = [] ∧
    ((warden 2 [] [] []).dieAt 0).launches = [] ∧
    (paddock 0).usage.period < (warden 0 [] [] []).wt.toNat / ((paddock 0).studp * 2000000000) ∧
    ({ (warden 0 [] [] []) with wt := 119999999999 } : State).wt.toNat / ((paddock 0).studp * 2000000000) ≤ (paddock 0).usage.period ∧
    (warden 0 [] [] []).fnOpen 0 16 = false ∧ (warden 0 [] [] []).fnOpen 0 0 = true := by
  refine ⟨⟨?_, ?_, ?_, ?_, ?_, ?_, ?_, ?_, ?_, ?_, ?_, ?_, fun f _ => by unfold State.asleep; rw [List.any_eq_false]; exact fun k _ => Bool.false_ne_true⟩, ?_, ?_, ?_, ?_, ?_, ?_, ?_, ?_, ?_, ?_, ?_, ?_, ?_, ?_, ?_, ?_, ?_, ?_, ?_, ?_, ?_, ?_,
    ?_, ?_⟩ <;> decide +kernel

/-- A connection at a stage with session 1 finished and session 2 open, in a package whose PCIe trains; `n` IDE streams are keyed, the
paddock of die 1 has `m` streams and floor 9. -/
def bond (stage n m : Nat) : State :=
  let t := ({} : State).modDie 1 fun d => { d with
    pads := [(0, { (paddock 0) with floor := 9 })], streams := (List.range m).map fun i => { id := BitVec.ofNat 32 (1000 + i), session := 1 } }
  { t with pkg := { t.pkg with
    boot := 3, spdm := [(0, { stage := stage, sessions := [(1, (true, 5)), (2, (false, 6))], nextSession := 3 })]
    ide := (List.range n).map fun i => (i, 0) } }

theorem witness_TrustEvents :
    ({} : State).pkg.boot < 3 ∧ 3 ≤ (bond 0 0 0).pkg.boot ∧ ((bond 0 0 0).spdmAt 0).stage = 0 ∧ ((bond 1 0 0).spdmAt 0).stage = 1 ∧
    ((bond 2 0 0).spdmAt 0).stage = 2 ∧ ((bond 3 0 0).spdmAt 0).stage = 3 ∧ (1 : BitVec 4).toNat < 2 ∧ 2 ≤ (2 : BitVec 4).toNat ∧
    1 ≤ (4 : BitVec 8).toNat ∧ (4 : BitVec 8).toNat ≤ 4 ∧ ((bond 3 0 0).spdmAt 0).sessions.find? 2 = some (false, 6) ∧
    (bond 3 0 0).sessionKey 0 1 = some 5 ∧ (bond 3 0 0).sessionKey 0 2 = none ∧ (bond 3 0 0).sessionKey 0 3 = none ∧
    ((bond 3 0 255).dieAt 1).pads.find? 0 = some { (paddock 0) with floor := 9 } ∧ 256 ≤ ((bond 3 0 256).dieAt 1).streams.length ∧
    ((bond 3 0 255).dieAt 1).streams.length < 256 ∧ ((bond 3 0 255).dieAt 1).ownsAsid 0 4 = true ∧
    ((bond 3 0 255).dieAt 1).ownsAsid 0 5 = false ∧ (∀ y ∈ ((bond 3 0 255).dieAt 1).streams, y.id ≠ 10) ∧
    (9 : BitVec 32).toNat < (10 : BitVec 32).toNat ∧
    ((bond 3 0 1).dieAt 1).streams.any (fun y => y.id == 1000 && y.conn == 0 && y.session == 1) = true ∧
    (bond 3 71 0).pkg.ide.length < 72 ∧ 72 ≤ (bond 3 72 0).pkg.ide.length ∧ (bond 3 72 0).pkg.ide.find? 255 = none ∧
    (16 : BitVec 5).toNat ≤ 16 := by
  and_intros <;> decide +kernel

/-- A package at WTIME 3,000,000 with core 0 of row 0 of die 0 on, its context idle or running, and what the arbiter and the sensors
have been given. -/
def plant (live : Bool) (f : Pkg → Pkg) : State :=
  let s := one {}
  { s with wt := 3000000, ctxs := if live then s.ctxs else [], pkg := f { s.pkg with boot := 7 } }

/-- Two tenants on die 0. -/
def pair (s : State) : State := s.modDie 0 fun d => { d with pads := [(0, paddock 0), (1, { desc := [] })] }

theorem witness_PowerEvents :
    (plant true id).pkg.boot ≠ 0 ∧ ({} : State).pkg.boot = 0 ∧ 1 ∈ (plant true fun p => { p with boot := 0, bootFail := [1] }).pkg.bootFail ∧
    1 ∉ ({} : State).pkg.bootFail ∧
    (plant true id).coreLive 0 0 = true ∧ (plant false id).coreLive 0 0 = false ∧ ((plant false id).coreOf (coreKey 0 0)).on = true ∧
    ((plant false id).coreOf (coreKey 0 0)).div ≠ 0 ∧
    ((plant false id).coreOf (coreKey 0 0)).idleSince.toNat + 2000 ≤ ({ (plant false id) with wt := 2000 } : State).wt.toNat ∧
    (((plant false id).modCore 0 fun c => { c with div := 0 }).coreOf (coreKey 0 0)).div = 0 ∧ (plant false id).pkg.tripped = false ∧
    (plant true id).pkg.period < (plant true id).wt.toNat / 128000 ∧
    (plant true fun p => { p with period := 23 }).wt.toNat / 128000 ≤ 23 ∧
    (pair (plant true id)).tenantsLive = [0, 3] ∧ (plant true id).tenantsLive = [] ∧ (plant true id).rowsOn = [0] ∧
    (plant true id).rowLive 0 = 1 ∧ max 2000 (1800 * 1000 * 1 / max 1 (((plant true id).rowsOn.map (plant true id).rowLive).sum)) = 1800000 ∧
    (1800000 : Nat) < ((plant true fun p => { p with rows := [(0, { power := 1800001, point := 6 })] }).pkg.rows.getD 0 {}).power ∧
    (plant true id).rowAtDiv 0 < 4 ∧ 4 ≤ ((plant true id).modCore 0 fun c => { c with div := 4 }).rowAtDiv 0 ∧
    ((1619999 : Nat) * 10 < 1800000 * 9) ∧ ((plant true fun p => { p with rows := [(0, { power := 1619999 })] }).pkg.rows.getD 0 {}).point = 4 ∧
    (plant true fun p => { p with change := some { goal := 1, due := 3000000 } }).pkg.change = some { goal := 1, due := (plant true id).wt.toNat } ∧
    ({} : State).pkg.change = none ∧
    (plant true fun p => { p with rows := [(0, { raise := some (0, 3000000), point := 1 })] }).pkg.rows.find? 0 =
      some { raise := some (0, (plant true id).wt.toNat), point := 1 } ∧
    (let c1 := word (600 * 2 ^ 48 + 60000)
     bits c1 63 48 = 600 ∧ bits c1 47 32 = 0 ∧ bits c1 31 0 = 60000 ∧ bit (1 : Word) 0 = true ∧ bits (1 : Word) 63 58 = 0 ∧
     bits (1 : Word) 55 1 = 0 ∧ (0 : Word).toNat < (1 : Word).toNat) ∧
    bits (word (3401 * 2 ^ 48)) 63 48 > 3400 ∧ (70 : Word).toNat = 70 ∧ (105 : Word).toNat = 105 ∧ (106 : Word).toNat > 105 ∧
    (plant true fun p => { p with lease := some 3000000 }).pkg.lease = some (plant true id).wt.toNat ∧ ({} : State).pkg.lease = none ∧
    (plant true id).pkg.thermTick < (plant true id).wt.toNat / 64 ∧ ({} : State).wt.toNat / 64 ≤ ({} : State).pkg.thermTick ∧
    (0 : Word).toNat + 2000000 ≤ (plant true id).wt.toNat ∧ (plant true id).pkg.threshold = 95 := by
  refine ⟨?_, ?_, ?_, ?_, ?_, ?_, ?_, ?_, ?_, ?_, ?_, ?_, ?_, ?_, ?_, ?_, ?_, ?_, ?_, ?_, ?_, ?_, ?_, ?_, ?_, ?_, ⟨?_, ?_, ?_, ?_, ?_, ?_, ?_⟩,
    ?_, ?_, ?_, ?_, ?_, ?_, ?_, ?_, ?_, ?_⟩ <;> decide +kernel

/-- `office` with virtual function 1's interface locked. -/
def desk : State := (office 0).modDie 0 fun d => { d with funcs := d.funcs.modify 1 {} fun f => { f with tdisp := .locked } }

theorem witness_HostEvents :
    ({} : State).fnOpen 0 0 = false ∧ (office 0).fnOpen 0 1 = true ∧ (office 0).fnOpen 0 0 = true ∧ 3 ≤ (office 0).pkg.boot ∧
    bits (0x20 : Word) 4 0 = 0 ∧ bits (8191 : Word) 63 13 = 0 ∧ bits (8192 : Word) 63 13 ≠ 0 ∧
    ((office 0).dieAt 0).tableWords 15 = List.replicate 8 0 ∧ ((desk.dieAt 0).funcs.getD (0 + 1) {}).tdisp = .locked ∧
    bit (word (2 ^ 63)) 63 = true ∧ bit ((office 0).dieAt 0).pdcmd 63 = false ∧ 1 ≤ bits (3 : Word) 3 0 ∧ bits (3 : Word) 3 0 ≤ 3 ∧
    ¬ bits (4 : Word) 3 0 ≤ 3 ∧ bits (2047 : Word) 63 11 = 0 ∧ bits (2048 : Word) 63 11 ≠ 0 ∧ (0x4828 : Word).toNat % 8 = 0 ∧
    (0x4829 : Word).toNat % 8 ≠ 0 ∧ (0xE0 : Word).toNat = 32 * (7 : BitVec 3).toNat ∧ (natBytes 8 1).length = 8 ∧
    (natBytes 48 1).length = 48 ∧ (0x2000 : Word).toNat % 2 ^ 16 = 0x2000 ∧
    (let w := word (1000 * 2 ^ 32 + 1800)
     bit w 63 = (office 0).pkg.mt ∧ bit w 62 = (office 0).pkg.lease.isSome ∧ bits w 61 60 = (office 0).pkg.step ∧ bits w 59 42 = 0 ∧
     bits w 41 32 = (office 0).pkg.allow ∧ bits w 31 16 = 0 ∧ bits w 15 0 = (office 0).pkg.budget) ∧
    ((office 0).dieAt 0).queueAsidOk 1 5 = false ∧ ((office 0).dieAt 0).queueAsidOk 1 1 = true ∧
    (let pad := (((office 0).dieAt 0).fnPad 1).getD 0
     let l : LaunchInfo :=
       { asid := 1, pad := BitVec.ofNat 4 pad, pf := 1 == 0, ten := BitVec.ofNat 8 ((((office 0).pad? 0 pad).map (·.ten)).getD 0) }
     ((office 0).mangerRead 0 l 8 4).1.isSome = true ∧ ((office 0).mangerWrite 0 l 0 (natBytes 8 1)).1 = true) := by
  refine ⟨?_, ?_, ?_, ?_, ?_, ?_, ?_, ?_, ?_, ?_, ?_, ?_, ?_, ?_, ?_, ?_, ?_, ?_, ?_, ?_, ?_, ?_, ⟨?_, ?_, ?_, ?_, ?_, ?_, ?_⟩, ?_, ?_, ⟨?_, ?_⟩⟩ <;>
    decide +kernel

/-! ## Witnesses for the clauses on values, and for further forms of the statements above -/

theorem witness_ExactThenRounded :
    (∃ p, Fmt.f32.value 0x3F800000 = .fin p ∧ p.mag ≠ 0 ∧ p.neg = false) ∧ (∃ p, Fmt.f32.value 0xBF800000 = .fin p ∧ p.mag ≠ 0 ∧ p.neg = true) ∧
    (∃ p, Fmt.f32.value 0x80000000 = .fin p ∧ p.mag = 0) ∧ Fmt.f32.value 0x7F800000 = .inf false ∧ Fmt.f32.value 0xFF800000 = .inf (!false) :=
  ⟨⟨_, rfl, by decide, by decide⟩, ⟨_, rfl, by decide, by decide⟩, ⟨_, rfl, by decide⟩, rfl, rfl⟩

/-- The gang of two with branch targets in S1, S9 and S10; the second member comes before the leader, or after it. -/
def gang2 (w : Nat) : State :=
  { ctxs := [(0, { st := .running, member := true, att := true, wpos := w, regs := { sregs [(1, 0x2000), (10, 0x3000)] with pc := 0x1000 } }),
      (4, { st := .running, member := true, att := true, gangPos := 1, regs := { sregs [(1, 0x2000), (10, 0x3000)] with pc := 0x1000 } })]
    cores := [(0, { on := true, div := 1 }), (1, { on := true, div := 1 })] }

theorem witness_AttachedBranch :
    (gang2 0).cur.rep = false ∧ (gang2 0).me.att = true ∧ (gang2 0).leads = true ∧ (gang2 0).readP 0 = true ∧ (gang2 0).readP 1 = false ∧
    Operands (gang2 0) [10] none [0x3000] ∧ (0x3000 : Word).getLsbD 0 = false ∧ wrongWay false [10] none = false ∧
    ((gang2 0).readS 1).getLsbD 0 = false ∧ (gang2 0).myStr.brLog.find? (gang2 0).me.wpos = none ∧
    ((gang2 0).modMyStr fun x => { x with brLog := [(0, 0x3000)] }).myStr.brLog.find? (gang2 0).me.wpos = some 0x3000 ∧
    ((gang2 0).as { core := 1 }).leads = false ∧ ((gang2 0).as { core := 1 }).leaderPast = false ∧
    ((gang2 1).as { core := 1 }).leaderPast = true ∧ ((gang2 1).as { core := 1 }).me.att = true ∧ (1 : BitVec 15) ≠ 0 :=
  ⟨by decide, by decide, by decide, by decide, by decide, ⟨by decide, by decide, by decide, by decide⟩, by and_intros <;> decide⟩

/-- T2 holds 1, -1, 2, 0.5, 10, the zeros, the infinities and a NaN of BF16. -/
def special : State :=
  (tileTask 0 (shp 1 16 11 1 1) 0).modMyCore fun c =>
    { c with tiles := [(2, { data := BitVec.ofNat 16384 (bytesNat ([0x3F80, 0xBF80, 0x4000, 0x3F00, 0x4120, 0, 0x8000, 0x7F80, 0xFF80, 0x7FC0, 0xC000].flatMap (natBytes 2))) })] }

theorem witness_TileFunctions :
    TileReady special ∧ special.shapeA.plain ∧ special.shapeA.fmt = 1 ∧ special.tileRm = .rne ∧ width 9 = width 17 ∧ (special.group 17).Nodup ∧
    (List.range 11).map (fun j => special.source special.shapeA ((special.group 9).getD 0 0) j) =
      [0x3F80, 0xBF80, 0x4000, 0x3F00, 0x4120, 0, 0x8000, 0x7F80, 0xFF80, 0x7FC0, 0xC000] ∧
    (Fmt.bf16.value 0x7FC0).isNan = true ∧ (∃ q, Fmt.bf16.value 0xC000 = .fin q ∧ q.mag ≠ 0 ∧ q.neg = true) ∧
    ∃ q, Fmt.bf16.value 0x4000 = .fin q ∧ q.mag ≠ 0 ∧ q.neg = false :=
  ⟨⟨by decide, by decide, by decide, by decide, by decide, by decide, by decide⟩, ⟨by decide, by decide⟩, by decide, by decide, by decide,
    by decide, by decide +kernel, by decide, ⟨_, rfl, by decide, by decide⟩, _, rfl, by decide, by decide⟩

/-- Two shapes of FP32 with as many rows and columns, and a rounding mode. -/
def floats (rm : Nat) : State := tileTask rm (shp 2 4 3 2 2) (shp 2 4 3 2 2)

theorem witness_FloatReductions :
    TileReady (floats 0) ∧ TileReady (floats 4) ∧ (floats 4).tileRm = .sr ∧ (floats 0).tileRm ≠ .sr ∧ (floats 0).shapeA.plain ∧
    (floats 0).shapeB.plain ∧ (floats 0).shapeA.fmt < 3 ∧ (floats 0).shapeB.fmt = (floats 0).shapeA.fmt ∧
    (floats 0).shapeA.rows = (floats 0).shapeB.rows ∧ (floats 0).shapeA.vrows = (floats 0).shapeB.vrows ∧
    (floats 0).shapeA.cols = (floats 0).shapeB.cols ∧ (floats 0).shapeA.vcols = (floats 0).shapeB.vcols ∧
    (0 < (floats 0).shapeB.size ∧ (floats 0).shapeB.inside 0 = true ∧ (floats 0).shapeB.inside 1 = true) ∧ (0 : BitVec 2) ≠ 3 :=
  ⟨⟨by decide, by decide, by decide, by decide, by decide, by decide, by decide⟩,
    ⟨by decide, by decide, by decide, by decide, by decide, by decide, by decide⟩, by decide, by decide, ⟨by decide, by decide⟩,
    ⟨by decide, by decide⟩, by and_intros <;> decide⟩

/-- One row of numbers for each operand: 1 and 2 for row 31 of A, 1 and -1 for row 0 of B. -/
def rowsA : Rows := [(31, [.fin { mag := 1 }, .fin { mag := 2 }], [])]
def rowsB : Rows := [(0, [.fin { mag := 1 }, .fin { mag := 1, neg := true }], [])]

theorem witness_ProductElements :
    rowsA ≠ [] ∧ rowsB ≠ [] ∧ (∀ r ∈ rowsA ++ rowsB, r.1 < 32) ∧ (rowsA.map (·.1)).Nodup ∧ (rowsB.map (·.1)).Nodup ∧
    ({} : Acc).mode = 0 ∧ ({} : Acc).anch = 0 ∧ ({ st := 0x40000 } : Acc).mode = 1 ∧ ({ st := 0x80000 } : Acc).mode = 2 ∧
    anchorScale 1 rowsA = some (257, 0) ∧ anchorScale 1 rowsB = some (256, 0) ∧ (257 + 256 - 512 + 0 + 0 - 100 : Int) < 2 ^ 15 ∧
    -2 ^ 15 ≤ (257 + 256 - 512 + 0 + 0 - 100 : Int) ∧ anchorScale 1 [(0, [.fin {}], [])] = none ∧
    rowsA.find? (fun x => x.1 == 992 / 32) = some (31, [.fin { mag := 1 }, .fin { mag := 2 }], []) ∧
    rowsB.find? (fun x => x.1 == 992 % 32) = some (0, [.fin { mag := 1 }, .fin { mag := 1, neg := true }], []) ∧
    rowsA.find? (fun x => x.1 == 991 / 32) = none := by
  refine ⟨List.cons_ne_nil _ _, List.cons_ne_nil _ _, ?_⟩
  refine ⟨by decide, by decide, by decide, by decide, by decide, by decide, by decide, by rfl, by rfl, by decide, by decide, by rfl, by rfl, by rfl, by rfl⟩

/-- A header of tag 00 with exponent fields 510 and 0, and one of tag 01 with 510. -/
def headers : Rows := [(0, [], [510 * 2 ^ 21, 2 ^ 30 + 510 * 2 ^ 12])]

theorem witness_AnchorScales :
    isAster 1 = false ∧ isAster 6 = true ∧ (anchorScale 6 headers).isSome = true ∧ anchorScale 6 [(0, [], [2 ^ 31])] = none ∧
    hdrTag (510 * 2 ^ 21) = 0 ∧ hdrE (510 * 2 ^ 21) 0 = 510 ∧ hdrTag (2 ^ 30 + 510 * 2 ^ 12) = 1 ∧ hdrE (2 ^ 30 + 510 * 2 ^ 12) 1 = 510 := by decide

theorem witness_FloatSteps :
    (∃ r, Fmt.f32.value 0x3F800001 = .fin r) ∧ ({ mag := 3, exp := -1 } : Dy).sticky = false ∧
    (∃ h l, slices (.fin { mag := 0x800001, exp := -23 }) = (.fin h, .fin l)) :=
  ⟨⟨_, rfl⟩, rfl, ⟨_, _, rfl⟩⟩

/-- Both accumulators: the first as cleared, the second of floats, with an infinity of each sign under an anchor in the third state. -/
def drains (k : BitVec 2) : State :=
  (tileTask 0 (shp 2 4 3 2 2) 0).modMyCore fun c => { c with acc0 := { st := 0x40000, elems := [(0, { k := k })] }, acc1 := { st := 0x80000, elems := [(0, { v := 0x3F800000 })] } }

theorem witness_AccumulatorDrains :
    ((one {}).acc 0).mode = 0 ∧ (((one {}).acc 0).elem 5).v = 0 ∧ (((one {}).acc 0).elem 5).k = 0 ∧ ((drains 2).acc 0).mode = 1 ∧
    (((drains 2).acc 0).elem 0).k = 2 ∧ (((drains 3).acc 0).elem 0).k = 3 ∧ ((drains 2).acc 1).mode = 2 ∧ (((drains 2).acc 1).elem 0).k = 0 ∧
    (drains 2).inHandler = false ∧ ((drains 2).cur.rep = true ∨ (drains 2).me.regs.repActive = false) ∧ e4Reserved ((drains 2).readE 4) = false ∧
    (drains 2).myCore.badAccs = [] ∧ (drains 2).shapeA.valid = true ∧ (drains 2).shapeA.fmt = 2 ∧ anchored.shapeA.fmt = 1 ∧
    (drains 2).shapeA.rows * ((drains 2).group 9).length ≤ 32 ∧ (drains 2).shapeA.cols ≤ 32 ∧ ((drains 2).group 9).Nodup ∧
    (drains 2).shapeA.inside 0 = true ∧ (drains 2).shapeA.inside 3 = false ∧ 3 < (drains 2).shapeA.size := by decide

/-- A queue of string 0 whose place 0 holds one command of a task of tenant 3. -/
def copying (c : Cmd) : State := (inPad 31 (one {})).modMyStr fun x => { x with queue := [(0, { c with launch := { ten := 3 } })] }

/-- The command there. -/
def copied (c : Cmd) : Cmd := { c with launch := { ten := 3 } }

/-- 32 bytes from local store to local store; the same from global memory; a digest; and, with its last read answered, each again. -/
def cpLocal : Cmd := { e2 := word (2 ^ 62 + 2 ^ 61 + 32), src := 8, dst := 0x1000 }
def cpGlobal : Cmd := { e2 := word (2 ^ 61 + 32), src := 0x1040, dst := 0x1000, srcPart := some { va := 0x1040, n := 32, pieces := [{ unit := 0, va := 0x1040, pa := 0x1040, n := 32 }] } }
def cpDigest : Cmd := { kind := .cpyDig, e2 := word (2 ^ 62 + 2 ^ 61 + 32), src := 8, dst := 0x1000 }
def lastRead (p : Nat) : List EngRead := [{ pos := p, va := 8, n := 32, wait := .answered (.data (List.replicate 32 5)) }]
/-- 32 bytes staged for a page of global memory. -/
def cpStaged : Cmd :=
  { e2 := word (2 ^ 62 + 32), src := 8, dst := 0x1000, data := List.replicate 32 5
    dstPart := some { va := 0x1000, n := 32, pieces := [{ unit := 0, va := 0x1000, pa := 0x1000, n := 32 }] } }
/-- A chunk of one byte of stream 7 with counter 1: header, ciphertext and a tag. -/
def hdrBytes : List Byte := natBytes 8 1 ++ natBytes 4 1 ++ natBytes 4 0
def cpChunk (tag : List Byte) : Cmd :=
  { kind := .cpyT, e2 := word (2 ^ 61), e3 := word (7 * 2 ^ 32), dst := 0x1000, pos := 33, data := hdrBytes ++ 0xAE :: tag }
/-- Stream 7 bound to ASID 0, its last counter, and its key. -/
def bound (last : Word) (key : BitVec 256) (s : State) : State :=
  s.modDie 0 fun d => { d with streams := [{ id := 7, asid := 0, last := last, key := key }] }

theorem witness_CopySteps_reads :
    (∀ c ∈ [cpLocal, cpGlobal, cpDigest], let s := copying c
      s.bad = [] ∧ s.soft = [] ∧ s.cmdAt 0 0 0 = some (copied c) ∧ c.fin = none ∧ s.mustWait 0 0 (copied c) = false ∧ c.cid = 0 ∧ c.short = 0 ∧
        c.converts = false ∧ c.pos ≠ c.total ∧ c.data = [] ∧ c.reads = [] ∧ c.asked < c.goal) ∧
    cpLocal.localSrc = true ∧ cpDigest.localSrc = true ∧ cpDigest.started = false ∧ cpGlobal.localSrc = false ∧
    (∀ w, olderVals cpLocal.agent 1 ((copying cpLocal).older.getD w []) = []) ∧
    ((cpGlobal.srcPart.getD {}).has cpGlobal.asked = true ∧
      let r := (copying cpGlobal).partReq 0 0 0 (copied cpGlobal) (cpGlobal.srcPart.getD {}) 0 32 (.read 32)
      r.peer = false ∧ r.pieces.map (fun y => (y.vault, ((copying cpGlobal).strAt 0 0).stops.contains (3 * 16 + y.unit))) = [(false, false)]) ∧
    (copying cpGlobal).mayAsk 0 0 3 (pgOf 0x1040) = true ∧
    (let c := { cpDigest with reads := lastRead 0 }
     (lastRead 0).map (fun r => (r.reply, r.n)) = [(some (.data (List.replicate 32 5)), 32)] ∧ c.goal ≤ c.asked) ∧
    (let c := { cpLocal with reads := lastRead 0 }
     c.goal ≤ c.asked ∧ c.localDst = true ∧ 32 = c.writeRoom) := by
  refine ⟨?_, ?_, ?_, ?_, ?_, fun _ => rfl, ?_⟩ <;> decide +kernel

theorem witness_CopySteps_writes :
    (let c := { cpLocal with data := List.replicate 32 5 }
     c.reads = [] ∧ c.goal ≤ c.asked ∧ c.writeRoom ≤ c.data.length ∧ c.localDst = true) ∧
    (cpStaged.goal ≤ cpStaged.asked ∧ cpStaged.writeRoom = 32 ∧ cpStaged.localDst = false ∧ cpStaged.wait = .idle ∧
      (cpStaged.dstPart.getD {}).has 0 = true ∧
      let r := (copying cpStaged).partReq 0 0 0 (copied cpStaged) (cpStaged.dstPart.getD {}) 0 32 (.write cpStaged.data)
      r.peer = false ∧ r.pieces.map (fun y => (y.vault, ((copying cpStaged).strAt 0 0).stops.contains (3 * 16 + y.unit))) = [(false, false)]) ∧
    { cpStaged with wait := .performed (.data []) }.wait = .performed (.data []) ∧
    { cpLocal with pos := 32 }.pos = { cpLocal with pos := 32 }.total ∧
    (let c : Cmd := { kind := .put, data := [1, 2], src := 0, dst := 0x1000 }
     c.pos < c.data.length ∧ c.localDst = true ∧ { c with pos := 2 }.pos = c.data.length) ∧
    { cpDigest with pos := 32 }.pos = { cpDigest with pos := 32 }.total ∧ cpDigest.localDst = true ∧
    chunkBad { kind := .cpyT, pos := 16 } (List.replicate 16 0) = true ∧
    chunkBad { cpChunk [] with pos := 16 } hdrBytes = false := by decide +kernel

/-- A tag that AES-256-GCM accepts, and one that it refuses. -/
theorem gcm_tags (key : BitVec 256) (iv aad ct : List Byte) : (∃ tag m, gcmOpen key iv aad ct tag = some m) ∧
    ((gcmTag (roundKeys (natBytes 32 key.toNat)) iv aad ct) ≠ [] → gcmOpen key iv aad ct [] = none) := by
  refine ⟨⟨gcmTag (roundKeys (natBytes 32 key.toNat)) iv aad ct, aesCtr (roundKeys (natBytes 32 key.toNat)) iv (ct.length / 16 + 1) 2 ct, ?_⟩,
    fun h => ?_⟩ <;> unfold gcmOpen
  · exact if_pos rfl
  · exact if_neg h

theorem witness_CopySteps_chunks :
    let c := cpChunk (List.replicate 16 0)
    16 < c.pos ∧ c.pos = c.goal ∧ c.started = false ∧ ((copying c).dieAt 0).streamOf (BitVec.ofNat 32 (bits c.e3 63 32)) 0 = none ∧
    ((bound 0 0 (copying c)).dieAt 0).streamOf 7 0 = some { id := 7, asid := 0, last := 0, key := 0 } ∧
    word (bytesNat ((c.data.take 16).take 8)) = 1 ∧ c.localDst = true ∧ c.data.take 16 = hdrBytes ∧
    c.data.drop (16 + chunkLen hdrBytes) = List.replicate 16 0 ∧ (c.data.drop 16).take (chunkLen hdrBytes) = [0xAE] := by decide +kernel

theorem witness_CommandsOfHandlers :
    (let s := ((cp 64).as { ctx := 1 }).setMe (cp 64).me
     s.inHandler = true ∧ (freeSlots s.myStr.queue).head? = some 0 ∧ freeSlots s.myStr.queue ≠ [] ∧ s.readP 0 = true ∧ s.cur.rep = false ∧
      s.me.region = none ∧ s.cpyTrap .cpy 0x10040 0x20000 = none ∧ s.bad = [] ∧ s.soft = []) ∧
    Operands (((cp 64).as { ctx := 1 }).setMe (cp 64).me) [1, 2] (some 5) [0x10040, 0x20000] ∧
    (((cp 64).as { ctx := 1 }).setMe (cp 64).me).Settled 1 :=
  ⟨by decide, ⟨by decide, by decide, by decide, by decide⟩, fun _ => rfl⟩

/-- Die 0 with a paddock of the first vault region that may hold four chains. -/
def circ (v : Yard → Yard) : State :=
  ((one {}).modDie 0 fun d => { d with pads := [(0, { desc := [1, 0, word (31 * 2 ^ 10), word (4 * 2 ^ 32), 0, 0, 0, 0] })] }).modYard 0 v

/-- A request for one chain from core 0 to core 1, one to widen circuit 5 between them, and that circuit. -/
def openReq : CircReq := { op := .openC, e0 := 0x8000, e1 := 0x100000009 }
def widenReq : CircReq := { op := .widen, b := 5, e1 := 0x100000009 }
def between : Circuit := { cid := 5, dst := 0x8000, path := [1, 12], st := .open, chains := [{ live := true }] }

/-- The circuit that the request opens, and the state in which its search begins. -/
def opened : Circuit := { cid := 1, dst := 0x8000, status := circStatus 10 1 0 0, latest := 1 }
def opening : State := (circ fun y => { y with accepts := [({}, circStatus 10 1 0 0)] }).setCircuit 0 opened

/-- Slots from 128 on belong to no configuration tree. -/
theorem high_slot (k n : Nat) (hu : isUcie k = false) (hp : isPackage k = false) (hn : 128 ≤ n) : cfSlot k n = false := by
  have hd : ∀ k d, treeDepth k = some d → 1 ≤ d ∧ d ≤ 72 := by
    intro k d h
    simp only [treeDepth, Option.filter_eq_some_iff, Bool.and_eq_true, decide_eq_true_eq] at h
    have := h.2.1.1.1.2
    have := h.2.1.1.1.1
    split at * <;> omega
  unfold cfSlot
  have h1 : (treeDepth k == some n) = false := by
    cases h : treeDepth k with
    | none => rfl
    | some d => have := hd _ _ h; simp; omega
  rw [hu, hp, h1]
  cases h : treeDepth (reverseLink k) with
  | none => rfl
  | some d => have := hd _ _ h; simp; omega

/-- A search between the two cores finds a start slot where slot 200 is free all along the path. -/
theorem grant_found (s : State) (c : Circuit) (opening : Bool) (hl : s.tooLong [1, 12] = false)
    (hb : (12, 256, 0) ∉ c.farBad) (hr : s.rerouting [1, 12] = false) (hq : s.overQuota 0 c.pad 1 = false)
    (hs : c.seg = none) (hk : epKind c.dst ≠ 5)
    (hf : ∀ p ∈ [1, 12].zip (s.offsetsFrom 0 [1, 12]), p.2 ≤ 55 ∧ (s.linkAt p.1).failed = false ∧ (s.linkAt p.1).out = false ∧
      ((s.slots.getD p.1 []).getD ((200 + p.2) % 256) 0) = 0 ∧ s.slotHeld p.1 ((200 + p.2) % 256) = false) :
    ∃ starts, s.search 0 c none [[1, 12]] 1 opening = .grant [1, 12] starts none := by
  have hm : 200 ∈ s.startsFor c [1, 12] := by
    have hn : s.farStop c [1, 12] 200 = none := rfl
    simp only [State.startsFor, State.starts, List.mem_filter, List.mem_range, hn, Option.isNone_none, and_true]
    refine ⟨by omega, ?_⟩
    simp only [State.blockedAt, Option.isNone_map, Option.isNone_iff_eq_none, List.find?_eq_none]
    intro p hp
    obtain ⟨h1, h2, h3, h4, h5⟩ := hf p hp
    have hk : p.1 = 1 ∨ p.1 = 12 := by simpa using (List.of_mem_zip hp).1
    have hc (n : Nat) (hn : 128 ≤ n) : cfSlot p.1 n = false := by
      rcases hk with h | h <;> rw [h] <;> exact high_slot _ _ (by decide) (by decide) hn
    have h6 := hc ((200 + p.2) % 256) (by omega)
    have h7 : notCarried p.1 ((200 + p.2) % 256) = false := by rcases hk with h | h <;> rw [h] <;> rfl
    have h9 : s.entry p.1 ((200 + p.2) % 256) = 0 := by rw [State.entry, h6]; exact h4
    have h10 : bit (0 : BitVec 32) 31 = false := by decide
    have h8 : s.slotFree p.1 ((200 + p.2) % 256) = true := by unfold State.slotFree; simp only [h9, h6, h7, h2, h3, h5, h10]; rfl
    simp [h8]
    omega
  have hlen : 1 ≤ (s.startsFor c [1, 12]).length := List.length_pos_of_mem hm
  refine ⟨(s.startsFor c [1, 12]).take 1, ?_⟩
  unfold State.search
  simp [hl, hb, hr, hq, hs, State.placeOn, State.firstPath, hlen, State.response, hk, yardOf, keyUnit]

/-- A waiting request for circuit 1, woken; and circuit 5 as its widening begins. -/
def wokenReq : CircReq := { openReq with cid := 1, n := 1, num := 1, deadline := 9, woken := true }
def researching : State := (circ fun y => { y with waiting := [wokenReq] }).setCircuit 0 opened
def widened : Circuit := { between with latest := 1, status := circStatus 10 5 1 0 }
def widening : State := (circ fun y => { y with accepts := [({}, circStatus 10 5 1 0)] }).setCircuit 0 widened

theorem witness_CircuitGrants :
    ((circ fun y => { y with reqs := [openReq] }).yardAt 0).reqs = [openReq] ∧ openReq.agent.ctx ≠ 3 ∧ openReq.seg = none ∧
    bits openReq.b 63 32 = 0 ∧ bits openReq.e0 63 32 = 0 ∧ bits openReq.e1 63 39 = 0 ∧ bits openReq.e1 38 32 = 1 ∧
    (circ fun y => { y with reqs := [openReq] }).epsOk 0 openReq 0 0x8000 = true ∧
    (circ fun y => { y with reqs := [openReq] }).overQuota 0 0 1 = false ∧ (circ fun y => { y with reqs := [openReq] }).freeCid 0 = some 1 ∧
    (circ id).wt.toNat ≤ 9 ∧ opening.pathsFor { openReq with cid := 1, n := 1, num := 1, deadline := 9 } opened = [[1, 12]] ∧
    (∃ starts, opening.search 0 opened none [[1, 12]] 1 true = .grant [1, 12] starts none) ∧
    bits widenReq.b 63 12 = 0 ∧ bits widenReq.b 11 0 = between.cid ∧ between.st = .open ∧ between.width + 1 ≤ 64 ∧
    ((circ id).setCircuit 0 between).circuit? 0 5 = some between ∧ ((circ id).setCircuit 0 between).overQuota 0 0 1 = false ∧
    (∃ starts, widening.search 0 widened none [[1, 12]] 1 false = .grant [1, 12] starts none) ∧
    (researching.yardAt 0).waiting = [wokenReq] ∧ researching.circuit? 0 1 = some opened ∧
    ∃ starts, (researching.modYard 0 fun v => { v with waiting := [] }).search 0 opened none [[1, 12]] 1 true = .grant [1, 12] starts none := by
  refine ⟨?_, ?_, ?_, ?_, ?_, ?_, ?_, ?_, ?_, ?_, ?_, ?_, grant_found _ _ _ ?_ ?_ ?_ ?_ ?_ ?_ ?_, ?_, ?_, ?_, ?_, ?_, ?_,
    grant_found _ _ _ ?_ ?_ ?_ ?_ ?_ ?_ ?_, ?_, ?_, grant_found _ _ _ ?_ ?_ ?_ ?_ ?_ ?_ ?_⟩ <;> decide +kernel

/-- A grant whose last write is under way, a removed chain to clear, and one whose last entry has been sent. -/
def lastWrite : State :=
  { (circ fun y => { y with
      circuits := [(5, { between with st := .pending, chains := [{ start := 3 }], plan := [(0, [])], latest := 1 })]
      flying := [{ link := 1, slot := 3, entry := word (2 ^ 31 + 5 * 2 ^ 12) |>.setWidth 32, cid := 5, kind := 3, num := 1 }] }) with wt := 512 }
def clearing : State := circ fun y => { y with clears := [{ cid := 6, links := [(1, 7), (12, 7)] }] }
def lastClear : State := circ fun y => { y with clears := [{ cid := 6, links := [(1, 7)], left := some 1 }],
                                                flying := [{ link := 1, slot := 7, cid := 6, kind := 4 }] }

theorem witness_CircuitWrites :
    lastWrite.yards = [(0, lastWrite.yardAt 0)] ∧ (lastWrite.yardAt 0).flying.map (fun w => (w.kind, w.die, w.cid, w.num, w.link, w.slot)) = [(3, 0, 5, 1, 1, 3)] ∧
    (lastWrite.yardAt 0).flying.map (fun w => (bit w.entry 31, bits w.entry 23 12, bits w.entry 11 4)) = [(true, 5, 0)] ∧
    (lastWrite.circuit? 0 5).map (fun c => (c.cid, c.plan == [(0, [])], c.latest, c.ends.isEmpty)) = some (5, true, 1, true) ∧
    (lastWrite.circuit? 0 5).map (fun c => (c.st == .pending, c.suspended, c.path.headD 0)) = some (true, false, 1) ∧
    (lastWrite.circuit? 0 5).map (fun c => (c.seg, c.status.toNat / 2 ^ 56 == 8, c.chains.map fun h => (h.start, h.num))) = some (none, false, [(3, 0)]) ∧
    yardOf 1 = 0 ∧ (clearing.yardAt 0).clears.map (fun x => (x.due, x.left, x.links)) = [(0, none, [(1, 7), (12, 7)])] ∧ yardOf 12 = 0 ∧
    lastClear.yards = [(0, lastClear.yardAt 0)] ∧ (lastClear.yardAt 0).flying = [{ link := 1, slot := 7, cid := 6, kind := 4 }] ∧
    (lastClear.yardAt 0).clears = [{ cid := 6, links := [(1, 7)], left := some 1 }] ∧ lastClear.circuit? 0 6 = none ∧
    (let s := (circ fun y => { y with cfg := [{ link := 1, slot := 7, entry := 0x80000000 }] }).modLink 1 fun l => { l with half := true }
     (s.yardAt 0).cfg = [{ link := 1, slot := 7, entry := 0x80000000 }] ∧ (s.yardAt 0).flying = [] ∧ (s.yardAt 0).flitRev ≠ s.rev + 1 ∧
       (s.linkAt 1).half = true ∧ bit (0x80000000 : BitVec 32) 31 = true) := by
  and_intros <;> decide +kernel

/-- Die 0 exports page 1 of ASID 1 by handle 0; at port group 0 a peer read of it waits, at port group 5 a reduction for die 1, and at
the link die a read for die 0. -/
def exporting : State :=
  let rd : Req := { peer := true, ten := 3, va := 0x800000000040, runs := [(0x800000000040, 8)], tos := [{}], op := .read 8 }
  let s := (inPad 31 (one {})).modDie 0 fun d => { d with handles := [(0, [word (0x87 * 2 ^ 56 + 1), 0x1000, 0x1000, 0])] }
  let s := s.modPg 0 0 fun g => { g with peerIn := [rd], tlb := [{ page := 1, asid := 1, pa := 0x1000, rd := true, w := true }] }
  let s := s.modPg 0 5 fun g => { g with peerQ := [.reduction { va := 0x800001000740, peer := true, exporter := { die := 1 } }] }
  { s with pkg := { s.pkg with
      peers := [{ src := peerPg 0 5, dst := peerPg 1 5 }, { src := peerLd, dst := peerPg 0 0 }]
      ldQ := [.access rd] } }

theorem witness_PeerWords :
    (exporting.pgAt 0 5).peerQ.length = 1 ∧
    ((exporting.pgAt 0 5).peerQ.filterMap (·.posted?)).map (fun p => (p.exporter.pkg == exporting.pkg.number, p.exporter.die)) = [(true, 1)] ∧
    exporting.peerCircuit (peerPg 0 5) (peerPg 1 5) = true ∧
    exporting.pkg.ldQ.map (fun w => (exporting.goesFar w, exporting.peerCircuit peerLd (peerPg (w.tos.headD {}).die w.pg))) = [(false, true)] ∧
    busy.pkg.ldQ.map (fun w => (w.ipkg == busy.pkg.number, w.tos.find? (fun x => x.pkg != busy.pkg.number))) = [(true, some { pkg := 9 })] ∧
    (exporting.pgAt 0 0).peerIn.map (fun r => (r.ipkg == exporting.pkg.number, exporting.mayServe 0 0 ((exporting.dieAt 0).exporterTen r))) = [(true, true)] ∧
    (exporting.pgAt 0 0).peerIn.map (fun r => match (exporting.modPg 0 0 fun y => { y with peerIn := [] }).peerParts r (r.runs.zip r.tos) with
      | (some l, v) => (v.performParts r 0 [] l).2.pkg.number == v.pkg.number
      | _ => false) = [true] := by
  and_intros <;> decide +kernel

/-- A posted reduction at port group 0, in a region of two contributors, of BF16 or of FP32, whose line is page 1's first of ASID 1 and
whose slots begin page 2. -/
def home (op : BitVec 4) (form : BitVec 2) (contrib va : Word) (bf : Bool) : State :=
  let s := (inPad 31 (one {})).modPg 0 0 fun g => { g with
    posted := [{ va := va, form := form, op := op, contrib := contrib, opnd := 0x3F80, launch := { asid := 1, ten := 3 } }]
    tlb := [{ page := 1, asid := 1, pa := 0x1000, rd := true, w := true }, { page := 2, asid := 1, pa := 0x2000, rd := true, w := true }] }
  s.modDie 0 fun d => { d with regions :=
    [(3, [word (2 ^ 63 + (if bf then 2 ^ 61 else 0) + 2 ^ 48 + 0x1000), 0x2000, word (1 * 2 ^ 21 + 1)])] }

/-- That state without the reduction, as its application goes on from it. -/
def homeNext (op : BitVec 4) (form : BitVec 2) (contrib va : Word) (bf : Bool) : State :=
  (home op form contrib va bf).modPg 0 0 fun y => { y with posted := [] }

theorem witness_ReductionsAtHome :
    (∀ q ∈ [(1, 1, 0, 0x1000), (1, 1, 1, 0x103E), (1, 1, 2, 0x1000), (0, 1, 0, 0x1000), (1, 2, 0, 0x1000), (1, 1, 0, 0x1040)],
      let s := home q.1 q.2.1 q.2.2.1 q.2.2.2 true
      ((s.pgAt 0 0).posted.map fun p => (p.peer, s.postedReady 0 0 p, addrFault p.va p.size, bit p.va 47)) = [(false, true, none, false)] ∧
        (match (homeNext q.1 q.2.1 q.2.2.1 q.2.2.2 true).pieces 0 .ports 1 3 (lineParts 2 q.2.2.2.toNat 2) with
          | (.ok ps, v) => !ps.any (·.vault) && (v.badPiece? 0 ps).isNone
          | _ => false) = true) ∧
    ((home 1 1 0 0x1000 true).dieAt 0).regionAt 1 0x1040 = none ∧
    (((home 1 1 0 0x1000 true).dieAt 0).regionAt 1 0x1000).map (fun r => (regionBf r, regionC r, regionSlots r, regionSpan r, regionEsize r)) =
      some (true, 2, 0x2000, 128, 2) ∧
    (match (homeNext 1 1 1 0x103E true).foldPieces 0 1 (0x2000 + 128 + 31 * 4) 4 with
      | (.ok _, _) => true
      | _ => false) = true ∧
    (match (homeNext 1 2 0 0x1000 true).pieces 0 .ports 1 3 (lineParts 2 0x1000 2) with
      | (.ok ps, v) => (match v.foldFor 0 1 3 0 ps with
        | (.ok z, _) => (z.badPiece? 0 ps).isNone
        | _ => false)
      | _ => false) = true := by
  and_intros <;> decide +kernel

theorem witness_Folds :
    let s := home 1 1 0 0x1000 true
    let r := ((s.dieAt 0).regions.find? 3).getD []
    regionAsid r = 1 ∧ regionBase r + 0 = 0x1000 ∧
    (match s.foldPieces 0 1 0x1000 64 with
      | (.ok [p], v) => p.n == 64 && p.at 0 % 64 == 0 && (match v.slotPieces 0 r 0 (regionC r) with
        | (.ok slots, u) => slots.all (fun q => q.length == 4 / regionEsize r && q.all fun y => y.n == 64 && y.at 0 % 64 == 0) &&
            decide (((p :: slots.flatten).map (·.at 0)).Nodup) && slots.length == 2 && Memory.wf u.mem
        | _ => false)
      | _ => false) = true := by
  and_intros <;> decide +kernel

/-- The gang with an instruction in its decoded window; and a context of which one stream's trap, or the other's, waits with an event. -/
def inWindow : State := gang.modMyStr fun x => { x with window := [(0, (0x1000, 5))] }
def tripped (main rep fp : Bool) : State :=
  withMe (fetched 0x40) fun c => { c with
    wait := if main then .answered (.mem 0 0) else .idle, waitRep := if rep then .answered (.mem 0 0) else .idle, pendFp := fp }

theorem witness_BoundaryOrder :
    (fetched 0x40).yields = false ∧ (fetched 0x40).eventWaits = false ∧ (fetched 0x40).waiting.faulted = false ∧
    (fetched 0x40).windowed = none ∧ (fetched 0x40).me.att = false ∧
    inWindow.canRun = true ∧ inWindow.cur.rep = false ∧ inWindow.yields = false ∧ inWindow.eventWaits = false ∧ inWindow.windowed = some 5 ∧
    decodeRaw 5 = .instr .cNop 2 ∧ repeating.yields = false ∧ repeating.eventWaits = false ∧
    ((tripped true true false).as (Agent.mk 0 0 0 true)).me.wait.faulted = true ∧
    ((tripped true true false).as (Agent.mk 0 0 0 true)).me.waitRep.faulted = true ∧
    ((tripped true false true).as (Agent.mk 0 0 0 true)).eventWaits = true ∧
    (tripped false true true).me.wait.faulted = false ∧ (tripped false true true).me.waitRep.faulted = true ∧
    (tripped false true true).eventWaits = true ∧ (tripped true false true).waiting.faulted = true ∧ (tripped true false true).yields = false ∧
    (withMe (one {}) fun c => { c with pendOvf := true }).me.pendOvf = true ∧
    (withMe (one {}) fun c => { c with pendOvf := true }).canRun = true ∧ (withMe (one {}) fun c => { c with pendOvf := true }).waiting = .idle ∧
    ({ one {} with agenda := [.event (.tokenRefill 0 0), .event .cNop, .run {}, .pass 3] } : State).agenda.length = 4 := by
  and_intros <;> decide +kernel

/-- A region whose buffer holds one store at 64: to a vault page of the micro-TLB, and to a page of HBM. -/
def buffering (kind : Nat) (w : Wait) : State :=
  ((withMe ls fun c => { c with wait := w, region := some { buf := [{ va := 64, mask := 255, data := 0x0807060504030201 }] } }).modMyCore fun c =>
    { c with utlb := [{ size := 12, kind := kind, rd := true, w := true }] }).modPg 0 0 fun p =>
      { p with tlb := [{ size := 12, rd := true, w := true }] }

theorem witness_RegionCommit :
    (buffering 1 .idle).readP 0 = true ∧ (buffering 1 .idle).cur.rep = false ∧
    (buffering 1 .idle).me.region.map (fun r => r.buf.map fun b => (b.runs, b.bytes)) = some [([(64, 8)], [1, 2, 3, 4, 5, 6, 7, 8])] ∧
    (buffering 1 .sent).waiting = .sent ∧ (buffering 1 (.answered (.data []))).waiting = .answered (.data []) ∧
    (buffering 1 (.answered (.xlat 64 0))).waiting = .answered (.xlat 64 0) ∧ (match (Reply.xlat 64 0) with | .data _ => False | _ => True) ∧
    (buffering 1 .idle).waiting = .idle ∧ (buffering 1 .idle).me.flog = [] ∧ rangesFault [(64, 8)] = none ∧
    (∀ kind ∈ [0, 1], let s := buffering kind .idle
      let t := s.modMe fun c => { c with region := c.region.map fun r => { r with disc := false, broken := true } }
      (match t.pieces 0 (.core 0) s.me.launch.asid.toNat 1 (lineParts 1026 64 8) with
        | (.ok ps, u) => ps.any (fun p => !p.vault) == (kind == 0) &&
            (kind == 0 || match u.performPieces 0 (u.who 0 true 0 []) 64 (.write [1, 2, 3, 4, 5, 6, 7, 8]) ps with
              | (.data _, v) => v.buffer.length == 1 && v.me.flog.isEmpty
              | _ => false)
        | _ => false) = true) ∧
    (match (ls.modMe fun c => { c with region := some { buf := [{ va := 0x800000000000, mask := 255 }] } }).pieces 0 (.core 0) 0 1
        (lineParts 1026 0x800000000000 8) with
      | (.error _, _) => true
      | _ => false) = true := by
  refine ⟨?_, ?_, ?_, ?_, ?_, ?_, trivial, ?_, ?_, ?_, ?_, ?_⟩ <;> decide +kernel

theorem witness_SaveRestore :
    saver.cur.die < 4 ∧ saver.cur.core < 2048 ∧ saver.imageLost (slotDie 0) 2 = false ∧ Memory.wf saver.mem = true ∧ 3 < 2048 ∧
    bit (saver.ctxOf (ctxKey 0 1 0)).regs.live 31 = true := by decide +kernel

/-- A task of the physical function on a die with a revocation under way, one queued, or a revoked entry not yet free. -/
theorem witness_HandleBusy :
    manager.csrDenied 0x115 = false ∧ manager.meSupv = false ∧
    (manager.modMyDie fun d => { d with revoking := [{}] }).myDie.revoking.isEmpty = false ∧
    (manager.modMyDie fun d => { d with cmds := [{ table := 1, cmd := 2 }] }).myDie.cmds.any (fun c => c.table == 1 && c.cmd == 2) = true ∧
    (manager.modMyDie fun d => { d with handles := [(5, [2 ^ 62, 0, 0, 0])] }).myDie.handles.values.any (fun h => bit (h.getD 0 0) 62) = true := by
  decide +kernel

/-- The parent's handler, on the same operands. -/
def childHandler (s : State) : State := (s.as { ctx := 1 }).setMe s.me

theorem witness_HandlerSpawns :
    Operands (childHandler (parent 2 1 0x1000)) [1] (some 5) [0x2000] ∧ Operands (childHandler (parent 2 1 0x1000)) [2] (some 5) [0x2001] ∧
    (childHandler (parent 2 1 0x1000)).inHandler = true ∧ (childHandler (parent 2 1 0x1000)).readP 0 = true ∧
    (childHandler (parent 2 1 0x1000)).cur.rep = false ∧ (childHandler (parent 2 1 0x1000)).me.region = none ∧
    (childHandler (parent 2 1 0x1000)).spawnRoom = true ∧ (childHandler dequeFull).spawnRoom = false ∧
    bits (childHandler deep).me.id.path 7 0 = 15 ∧ (childHandler (orderly 7)).me.launch.ordered = true ∧
    (childHandler (orderly 7)).spawnRoom = true := by
  refine ⟨⟨?_, ?_, ?_, ?_⟩, ⟨?_, ?_, ?_, ?_⟩, ?_, ?_, ?_, ?_, ?_, ?_, ?_, ?_, ?_⟩ <;> decide +kernel

/-- BAR.TEST of the race barrier 511 of core 1 at phase 5, which answers 6 or 5. -/
def tested (v : Word) : State :=
  withMe (fencedWait (.answered (.word v))) fun c => { c with regs := c.regs.setS 8 5, launch := { c.launch with rbv := true, rbcore := 1, rbnum := 511 } }

theorem witness_BarrierTests :
    Operands (tested 6) [1, 8] none [0x101FF, 5] ∧ (tested 6).barHost 0x101FF = some 1 ∧ (tested 6).waiting = .answered (.word 6) ∧
    ((6 : Word).setWidth 16 - (5 : Word).setWidth 16 : BitVec 16).toNat = 1 ∧ ((5 : Word).setWidth 16 - (5 : Word).setWidth 16 : BitVec 16).toNat = 0 ∧
    (tested 6).me.launch.rbv = true ∧ (tested 6).me.launch.rbcore.toNat = bits (0x101FF : Word) 26 16 ∧
    (tested 6).me.launch.rbnum.toNat = bits (0x101FF : Word) 8 0 ∧ fenced.me.launch.rbv = false ∧ (tested 6).me.region = none ∧
    herd.pkg.tripped = false := by
  refine ⟨⟨?_, ?_, ?_, ?_⟩, ?_, ?_, ?_, ?_, ?_, ?_, ?_, ?_, ?_, ?_⟩ <;> decide +kernel

/-- A round that finds a formed gang of two for string 8, which alone of its paddock's strings may take work. -/
def gather : State :=
  let t := inPad 31 (one {})
  let t := { t with wt := 25600, ctxs := [], pkg := { t.pkg with rows := [0, 8, 12].map fun k => (k, { excess := true }) } }
  let t := (List.range 8).foldl (fun t n => t.modCore (64 + n) fun x => { x with on := true, div := 1 }) t
  t.modDie 0 fun d => { d with
    coreTime := { period := 1, buckets := [(3, { b := 5 })] }
    launches := [(7, { checked := true, entry := 0x4000, info := { uid := 4, lid := 7, ten := 3 }, formed := [(8, [2, 5])] })] }

theorem witness_Dispatch :
    (gather.dieAt 0).round < gather.rev ∧ (gather.dieAt 0).pads = [(0, paddock 31)] ∧ 8 ∈ regionStrs (paddock 31).vreg ∧
    gather.withheld 0 8 0 = false ∧ gather.strReady 0 8 = true ∧ (∀ j ∈ regionStrs (paddock 31).vreg, j ≠ 8 → gather.withheld 0 j 0 = true) ∧
    (∀ c ∈ (gather.dieAt 0).goodCores 8, gather.logLeft 0 c { uid := 4, lid := 7, ten := 3 } = false ∧ (gather.coreOf (coreKey 0 c)).hasRecord = false) ∧
    0 < ((gather.dieAt 0).coreTime.bucket 3).b ∧ [2, 5].length ≤ ((gather.dieAt 0).goodCores 8).length ∧
    ((gather.dieAt 0).goodCores 8)[1]? = some 65 ∧
    ((gather.dieAt 0).launches.map fun p => (p.1, p.2.checked, p.2.failed.isNone, p.2.aborted)) = [(7, true, true, false)] ∧
    ((gather.dieAt 0).launches.map fun p => p.2.formed) = [[(8, [2, 5])]] := by
  and_intros <;> decide +kernel

theorem witness_MangerAndHeldDies :
    ((office 0).dieAt 0).held = false ∧ ((office 0).modDie 0 fun d => { d with fstep := 4 }).fnOpen 0 1 = true ∧
    (((office 0).modDie 0 fun d => { d with fstep := 4 }).dieAt 0).held = true ∧ bit (word (32 * 5)) 63 = false ∧
    ((office 0).dieAt 0).queueAsidOk 1 (bits (word (32 * 5)) 15 5) = false ∧ ((office 0).dieAt 0).queueAsidOk 1 (bits (32 : Word) 15 5) = true ∧
    ((office 0).dieAt 0).coreTime.period ≤ (office 0).wt.toNat / 128000 ∧
    ({ office 0 with pkg := { (office 0).pkg with period := 2 } } : State).wt.toNat / 128000 ≤ 2 ∧
    (office 0).pkg.period < (office 0).wt.toNat / 128000 ∧
    ((tables {}).dieAt 0).held = false ∧ (((tables {}).modDie 0 fun d => { d with fstep := 5 }).dieAt 0).held = true ∧
    ((halting {} none).dieAt 0).held = false ∧ (halting {} none).imageLost 0 0 = false := by
  and_intros <;> decide +kernel

/-- Core 2 has saved its task and a handler; and a paddock whose supervisor context is dormant, with one other context parked, or none. -/
def sheriffSaved2 : State := sheriffSaved.modCtx (ctxKey (slotDie 0) 2 1) fun c => { c with st := .saved }
def lawless (parked : Bool) : State :=
  let s := withMe (inPad 0 (one {})) fun c => { c with st := .dormant }
  if parked then { s with ctxs := s.ctxs ++ [(4, { st := .parked, launch := { uid := 5, lid := 4 } })] } else s

theorem witness_Terminations :
    (sheriffSaved2.ctxOf (ctxKey 0 2 0)).st = .dormant ∧ sheriffSaved2.savedCtx { core := 2 } = true ∧
    (sheriffSaved2.ctxOf (ctxKey (slotDie 0) 2 1)).st = .saved ∧ (sheriffSaved.ctxOf (ctxKey (slotDie 0) 2 1)).st = .dormant ∧
    (sheriffSaved.ctxOf (ctxKey (slotDie 0) 2 2)).st = .dormant ∧ sheriffSaved2.supvAt 0 0 = true ∧
    sheriffSaved2.agentOf 0 (sheriffSaved2.task 0 0).launch.pad.toNat 8 = some { core := 2 } ∧
    (lawless true).supvCore 0 0 = some 0 ∧ ((lawless true).task 0 0).st ≠ .running ∧ (lawless true).parkedOf 0 0 = [{ core := 1 }] ∧
    ((lawless true).task 0 1).halted = false ∧ (lawless false).parkedOf 0 0 = [] ∧
    ((sheriff 3 3).task 0 0).st = .running ∧ bit (((sheriff 3 3).coreOf (coreKey 0 0)).csr.getD Csr.tscr 0) 0 = true := by
  and_intros <;> decide +kernel

/-- Two tenants where one was; the rows at the guard step of an entry under way, or not yet. -/
def joining (p : Nat) : State :=
  let s := warden 1 (descWords 1 5 100 31) older []
  { s with pkg := { s.pkg with mt := false, entering := some 0, rows := [(0, { point := p })] } }

theorem witness_MultiTenantEntry :
    (joining 4).joinsMulti ({ desc := descWords 1 5 100 31 } : Paddock).ten = true ∧ (joining 4).entered = true ∧ (joining 5).entered = false ∧
    (warden 1 (descWords 1 5 100 31) older []).joinsMulti ({ desc := descWords 1 5 100 31 } : Paddock).ten = false ∧
    ((joining 4).dieAt 0).pdBusy 1 15 = true ∧ (joining 4).pad? 0 15 = none ∧ ((joining 4).dieAt 0).funcs.find? 16 = none ∧ 6 < 256 := by
  and_intros <;> decide +kernel

/-- `plant` at the start of a revolution. -/
def boundary (f : Pkg → Pkg) : State := { plant true f with wt := 3000064 }

theorem witness_PowerSteps :
    2 ∈ (plant true fun p => { p with boot := 0, bootFail := [2] }).pkg.bootFail ∧ 4 ∈ (plant true fun p => { p with boot := 0, bootFail := [4] }).pkg.bootFail ∧
    (boundary id).wt.toNat % 256 = 0 ∧ (plant true id).wt.toNat % 256 ≠ 0 ∧ (plant true id).pkg.entering = none ∧
    (boundary fun p => { p with change := some { goal := 1, up := true, due := 3000064 } }).pkg.change = some { goal := 1, up := true, due := (boundary id).wt.toNat } ∧
    (boundary fun p => { p with change := some { goal := 1, volt := true, due := 3000064 } }).pkg.change = some { goal := 1, volt := true, due := (boundary id).wt.toNat } ∧
    (boundary fun p => { p with change := some { goal := 1, due := 3000065 } }).wt.toNat < 3000065 ∧
    (boundary fun p => { p with rows := [(0, { raise := some (0, 3000064), point := 1 }), (1, { raise := some (0, 3000065), point := 1 }), (2, {})] }).pkg.rows.find? 0 =
      some { raise := some (0, (boundary id).wt.toNat), point := 1 } ∧
    ((plant true fun p => { p with rows := [(0, { power := 1800001, point := 7 })] }).pkg.rows.getD 0 {}).point = 7 ∧
    (plant true fun p => { p with power := 1800001 }).pkg.power = 1800001 ∧
    (boundary fun p => { p with tripped := true, rows := [(0, { therm := .trip, temp := 99 })] }).pkg.rows.values.all (fun q => decide (q.temp < 100)) = true ∧
    ((desk.dieAt 0).held = false ∧ ((desk.modDie 0 fun d => { d with fstep := 5 }).dieAt 0).held = true ∧
      (desk.modDie 0 fun d => { d with fstep := 5 }).fnOpen 0 0 = true) := by
  and_intros <;> decide +kernel

/-! ## Steps of single instructions, worked out by hand from the rules named -/

/-- The value left in a scalar register. -/
def leaves (o : Host.Outcome State Fault Refusal) (r : Nat) (w : Word) : Bool := after o fun t => t.readS r == w

-- R247: the sum wraps; the high half of (-1) * 2^63 is 0 signed (the product is 2^63) and 2^63 - 1 unsigned
theorem test_add_wraps : leaves (exec (.add 0 9 10 5) sc) 5 0 := by decide +kernel
theorem test_mulh : leaves (exec (.mulh 0 12 9 5) sc) 5 0 ∧ leaves (exec (.mulhU 0 12 9 5) sc) 5 0x7FFFFFFFFFFFFFFF := by decide +kernel
-- R248: the table of edge cases
theorem test_div : leaves (exec (.div 0 9 12 5) sc) 5 0x8000000000000000 ∧ leaves (exec (.rem 0 11 9 5) sc) 5 (-1) := by decide +kernel
-- R247: shift amounts mod 64; SRA keeps the sign
theorem test_shift : leaves (exec (.shl 0 13 9 5) sc) 5 (-1) ∧ leaves (exec (.srai 0 63 12 5) sc) 5 (-1) := by decide +kernel
-- R250: MOVI extends before it shifts; LUI keeps the other bits
theorem test_movi : leaves (exec (.movi 1 0x8000 5) sc) 5 0xFFFFFFFF80000000 ∧
    leaves (exec (.lui 2 0x1234 9) sc) 9 0xFFFF1234FFFFFFFF := by decide +kernel
-- R251: -1 is less than 1 signed and not unsigned
theorem test_cmp : after (exec (.cmp 0 2 10 9 5) sc) (fun t => t.readP 5) ∧ after (exec (.cmp 0 6 10 9 5) sc) (fun t => !t.readP 5) := by
  decide +kernel
-- R178: two sources on one queue take its values in order and remove both
theorem test_queue : after (exec (.sub 0 30 30 5) sc) fun t => t.readS 5 == -2 && t.me.regs.getQ 2 == [] := by decide +kernel
-- R260, R261: the offset counts halfwords from the branch itself; BL leaves the address after it in S1
theorem test_branch : after (exec (.bl (-4)) br) fun t => t.me.regs.pc == 0xFF8 && t.readS 1 == 0x1004 := by decide +kernel
-- R217: an odd target traps with cause ILLEGAL at the instruction
theorem test_jr_odd : after (exec (.jr 0 9) br) fun t => t.me.st == .parked && t.me.regs.pc == 0x1000 := by decide +kernel
-- R276: little-endian; LDS extends the sign
theorem test_store : after (exec (.st 0 1 0 3 9 12) ls) fun t => t.byte (lsBase 0 0 + 0x1FFF8) == 0x88 && t.byte (lsBase 0 0 + 0x1FFFF) == 0x11 := by
  decide +kernel
theorem test_lds : after (exec (.st 0 1 0 3 9 12) ls) fun t => leaves (exec (.lds 0 1 0 0 9 5) t) 5 0xFFFFFFFFFFFFFF88 := by decide +kernel
-- R280: LDF takes a full word and leaves it empty; an empty one makes it wait, with nothing changed
theorem test_ldf : after (exec (.ldf 0 9 5) tags) (fun t => !t.tag (lsWord 0 0 0x1FFF8)) ∧
    after (exec (.ldf 0 10 5) tags) (fun t => t.me.regs == tags.me.regs) := by decide +kernel
-- R283: AMO returns the old value
theorem test_amo : leaves (exec (.amo 0 1 1 12 10 5) answered) 5 0x0807060504030201 := by decide +kernel
-- R113, R254: 1 + the least subnormal rounds to 1 (RNE) and upwards to 0x3F800001 (RUP, code 010)
theorem test_fadd : leaves (exec (.fadd 0 0 0 9 10 5) fp) 5 0x3F800000 ∧ leaves (exec (.fadd 0 2 0 9 10 5) fp) 5 0x3F800001 := by
  decide +kernel
-- R256: a comparison with a NaN is unordered; R257: -0.0 converts to integer 0
theorem test_fcmp : after (exec (.fcmp 0 3 0 9 11 5) fp) fun t => t.readP 5 := by decide +kernel
theorem test_fcvt : leaves (exec (.fcvt 0 1 0 2 9 5) fp) 5 1 := by decide +kernel
-- R225, R237: a false guard changes nothing but the address
theorem test_guard : after (exec (.add 7 9 10 5) sc) fun t => t.readS 5 == 0 && t.me.regs.pc == 4 := by decide +kernel
-- R223: S0 discards a write
theorem test_s0 : leaves (exec (.addi 0 5 9 0) sc) 0 0 := by decide +kernel

end Sys2Proof.Tests
end

section
/-!
PROOFS. The execution model: how an instruction is fetched through the string's instruction cache, and what one step runs
(R168, R216, R217, R371).
-/

namespace Sys2Proof.Proofs.ExecutionModel

open Sys2Proof Sys2Proof.Machine

/-! ## Fetching through the instruction cache -/

/-- The line of an instruction address holds the 64 bytes around it. -/
theorem toNat_lineOf (pc : Word) : (pc &&& ~~~(63 : Word)).toNat = pc.toNat / 64 * 64 := by
  have h : pc &&& ~~~(63 : Word) = pc >>> 6 <<< 6 := by
    ext i hi
    have h63 : (63 : Word)[i] = decide (i < 6) := Nat.testBit_two_pow_sub_one 6 i
    rw [BitVec.getElem_and, BitVec.getElem_not, h63, BitVec.getElem_shiftLeft]
    by_cases hi6 : i < 6
    · simp [hi6]
    · simp [hi6, hi, Nat.add_sub_cancel' (Nat.le_of_not_lt hi6), BitVec.getLsbD_eq_getElem]
  rw [h]
  simp [Nat.shiftLeft_eq, Nat.shiftRight_eq_div_pow]
  omega

theorem toNat_offsetOf (pc : Word) : (pc &&& 63).toNat = pc.toNat % 64 := by
  rw [BitVec.toNat_and]
  exact Nat.and_two_pow_sub_one_eq_mod pc.toNat 6

/-- The second halfword of an instruction lies in the line of the first, where four bytes from the first on do. -/
theorem lineOf_add_two {pc : Word} (h : pc.toNat % 64 ≤ 60) : (pc + 2) &&& ~~~(63 : Word) = pc &&& ~~~(63 : Word) := by
  apply BitVec.eq_of_toNat_eq
  rw [toNat_lineOf, toNat_lineOf]
  have : (2 : Word).toNat = 2 := rfl
  rw [BitVec.toNat_add]
  omega

theorem offsetOf_add_two {pc : Word} (h : pc.toNat % 64 ≤ 60) : ((pc + 2) &&& 63).toNat = pc.toNat % 64 + 2 := by
  have : (2 : Word).toNat = 2 := rfl
  rw [toNat_offsetOf, BitVec.toNat_add]
  omega

/-- The halfword of a line that the cache holds is read from it, and nothing changes (R25, R216). -/
theorem fetchHalf_held {s : State} {pc : Word} {l : ILine} (h : s.cacheLine s.me.launch.asid (pc &&& ~~~(63 : Word)) = some l) :
    s.fetchHalf pc = (.ok (l.data.toNat / 2 ^ (8 * (pc &&& 63).toNat) % 65536), s) := by
  simp only [State.fetchHalf, h]

/-- The halfwords of an instruction that its line holds whole, as one number: the second is fetched where bits 1:0 of the first are
11 (R216). -/
def lineRaw (l : ILine) (off : Nat) : Nat :=
  if l.data.toNat / 2 ^ (8 * off) % 65536 % 4 = 3 then l.data.toNat / 2 ^ (8 * off) % 2 ^ 32
  else l.data.toNat / 2 ^ (8 * off) % 65536

theorem fetchRaw_held {s : State} {pc : Word} {l : ILine} (h : s.cacheLine s.me.launch.asid (pc &&& ~~~(63 : Word)) = some l)
    (hoff : pc.toNat % 64 ≤ 60) : s.fetchRaw pc = (.ok (lineRaw l (pc.toNat % 64)), s) := by
  have h2 : s.cacheLine s.me.launch.asid ((pc + 2) &&& ~~~(63 : Word)) = some l := by rw [lineOf_add_two hoff]; exact h
  have hsplit : l.data.toNat / 2 ^ (8 * (pc.toNat % 64 + 2)) = l.data.toNat / 2 ^ (8 * (pc.toNat % 64)) / 65536 := by
    rw [Nat.mul_add, Nat.pow_add, ← Nat.div_div_eq_div_mul]
  simp only [State.fetchRaw, fetchHalf_held h, fetchHalf_held h2, toNat_offsetOf pc, offsetOf_add_two hoff, hsplit, lineRaw]
  split
  · congr 2
    omega
  · rfl

/-- Four bytes decode as the halfwords that they make up do (R216). -/
theorem decode_four_bytes (d : Nat) :
    decode ((List.range 4).map fun k => BitVec.ofNat 8 (d / 2 ^ (8 * k))) =
      decodeRaw (if d % 65536 % 4 = 3 then d % 2 ^ 32 else d % 65536) := by
  have h0 : half (BitVec.ofNat 8 (d / 2 ^ 0)) (BitVec.ofNat 8 (d / 2 ^ 8)) = d % 65536 := by
    simp only [half, BitVec.toNat_ofNat]; omega
  have h1 : word32 (BitVec.ofNat 8 (d / 2 ^ 0)) (BitVec.ofNat 8 (d / 2 ^ 8)) (BitVec.ofNat 8 (d / 2 ^ 16))
      (BitVec.ofNat 8 (d / 2 ^ 24)) = d % 2 ^ 32 := by
    simp only [word32, half, BitVec.toNat_ofNat]; omega
  simp only [List.range, List.range.loop, List.map, decode, Nat.mul_zero, Nat.mul_one, Nat.reduceMul, h0, h1, decodeRaw]
  split
  · rw [if_pos (by omega)]
  · rfl

theorem decode_line (l : ILine) (off : Nat) :
    decode ((List.range 4).map fun k => BitVec.ofNat 8 (l.data.toNat / 2 ^ (8 * (off + k)))) = decodeRaw (lineRaw l off) := by
  rw [lineRaw, ← decode_four_bytes]
  simp only [Nat.mul_add, Nat.pow_add, Nat.div_div_eq_div_mul]

theorem fetchNext_held {s : State} {l : ILine} (hw : s.windowed = none)
    (h : s.cacheLine s.me.launch.asid (s.me.regs.pc &&& ~~~(63 : Word)) = some l) (hoff : s.me.regs.pc.toNat % 64 ≤ 60) :
    s.fetchNext = (.ok (decodeRaw (lineRaw l (s.me.regs.pc.toNat % 64))), s.noteDecoded (lineRaw l (s.me.regs.pc.toNat % 64))) := by
  simp only [State.fetchNext, hw, fetchRaw_held h hoff]

theorem fetchNext_windowed {s : State} {w : Nat} (h : s.windowed = some w) : s.fetchNext = (.ok (decodeRaw w), s) := by
  simp only [State.fetchNext, h]

/-- Only an attached member's instruction enters the decoded window (R168). -/
theorem noteDecoded_alone {s : State} (h : s.me.att = false) (w : Nat) : s.noteDecoded w = s := by
  simp [State.noteDecoded, h]

/-! ## What a step is (R168, R371) -/

theorem step_agenda_nil {s : State} (h : s.agenda = []) : step s = runAgent s := by
  simp only [step, h]

theorem runAgent_done {s t : State} (h : s.issue = .done t) : runAgent s = .next t := by
  simp only [runAgent, h]

theorem runAgent_exec {s t : State} {i : Instr} (h : s.issue = .exec i t) : runAgent s = exec i t := by
  simp only [runAgent, h]

theorem issue_cannotRun {s : State} (h : s.canRun = false) : s.issue = .done s := by
  simp [State.issue, h]

theorem issue_yields {s : State} (h : s.yields = true) : s.issue = .done s := by
  simp [State.issue, h]

/-- Where no event comes first, the step is the instruction's: none waits, or the instruction is about to trap (R371). -/
theorem issue_clear {s : State} (hr : s.canRun = true) (hy : s.yields = false)
    (hc : s.waiting.faulted = true ∨ s.eventWaits = false) : s.issue = s.instrNext := by
  rcases hc with hc | hc
  · simp [State.issue, hr, hy, hc]
  · obtain ⟨⟨hf, hfr⟩, ho⟩ : (s.me.pendFp = false ∧ s.me.pendFpRep = false) ∧ s.me.pendOvf = false := by
      simpa [State.eventWaits] using hc
    simp [State.issue, hr, hy, hf, hfr, ho]

/-- Neither stream's trap waits, so neither stream lets the other go first. -/
theorem yields_noTrap {s : State} (hm : s.me.wait.faulted = false) (hr : s.me.waitRep.faulted = false) : s.yields = false := by
  simp [State.yields, State.trapFirst, hm, hr]

theorem waiting_noTrap {s : State} (hm : s.me.wait.faulted = false) (hr : s.me.waitRep.faulted = false) :
    s.waiting.faulted = false := by
  unfold State.waiting
  split
  · exact hr
  · exact hm

/-- The main stream's trap goes before the repeat stream's trap and before any event (R371). -/
theorem yields_toMain {s : State} (h : s.cur.rep = true) (hm : s.me.wait.faulted = true)
    (he : s.me.waitRep.faulted = true ∨ s.eventWaits = true) : s.yields = true := by
  rcases he with he | he <;> simp [State.yields, State.trapFirst, State.waiting, h, hm, he]

/-- The repeat stream's trap goes before the events of a boundary (R371). -/
theorem yields_toRepeat {s : State} (h : s.cur.rep = false) (hm : s.me.wait.faulted = false) (hr : s.me.waitRep.faulted = true)
    (he : s.eventWaits = true) : s.yields = true := by
  simp [State.yields, State.trapFirst, h, hm, hr, he]

theorem instrNext_fetched {s t : State} {i : Instr} {n : Nat} (h : s.cur.rep = false) (hf : s.fetchNext = (.ok (.instr i n), t)) :
    s.instrNext = .exec i t := by
  simp [State.instrNext, h, hf]

theorem instrNext_illegal {s t : State} {e : Illegal} {n : Nat} (h : s.cur.rep = false)
    (hf : s.fetchNext = (.ok (.illegal e n), t)) : s.instrNext = .done (t.trap causeIllegal) := by
  simp [State.instrNext, h, hf]

theorem instrNext_fault {s t : State} {r : Reply} (h : s.cur.rep = false) (hf : s.fetchNext = (.error r, t)) :
    s.instrNext = .done (t.trapReply r) := by
  simp [State.instrNext, h, hf]

/-- The repeat stream executes the captured word at its place (R175). -/
theorem instrNext_captured {s : State} {w : Word32} {i : Instr} (h : s.cur.rep = true)
    (hw : s.me.regs.repBuf[bits (s.csr Csr.reppos) 51 48]? = some w) (hd : decode32 w.toNat = .ok i) :
    s.instrNext = .exec i s := by
  simp [State.instrNext, State.captured, asDecoded, h, hw, hd]

/-- Taking a trap parks the context and keeps its pending events as they are. -/
theorem enterTrap_me (s : State) (c n : Nat) (a : Word) :
    (s.enterTrap c n a).me.st = .parked ∧ (s.enterTrap c n a).me.pendFp = s.me.pendFp := by
  have h : (s.enterTrap c n a).me = (s.enterTrap c n a).ctxs.getD s.key {} := by
    simp only [State.me, State.ctxOf, State.key, enterTrap_cur]
  rw [h, enterTrap_ctxs, SMap.getD_set_self]
  exact ⟨rfl, rfl⟩

/-- A floating-point event is taken at the boundary: its context parks, and the event is over (R126, R371). -/
theorem issue_pendFp {s : State} (hr : s.canRun = true) (hy : s.yields = false) (hw : s.waiting.faulted = false)
    (hp : s.me.pendFp = true) : ∃ t, s.issue = .done t ∧ t.me.pendFp = false ∧ t.me.st = .parked := by
  let u := (s.modMe fun c => { c with pendFp := false }).as { s.cur with rep := false }
  have hu : u.me.pendFp = false := congrArg Ctx.pendFp (me_modMe s fun c => { c with pendFp := false })
  obtain ⟨hst, hpend⟩ := enterTrap_me u causeFp 0 u.me.regs.pc
  exact ⟨_, by simp [State.issue, hr, hy, hw, hp, u], hpend.trans hu, hst⟩

theorem issue_pendOvf {s : State} (hr : s.canRun = true) (hy : s.yields = false) (hf : s.me.pendFp = false)
    (hfr : s.me.pendFpRep = false) (ho : s.me.pendOvf = true) (hw : s.waiting = .idle) :
    s.issue = .done ((s.modMe fun c => { c with pendOvf := false }).trap causeAsync) := by
  simp [State.issue, hr, hy, hf, hfr, ho, hw, Wait.faulted]

/-- Settles O38: with nothing on the agenda a step is what `issue` gives, by who goes first at the boundary; otherwise it is the
agenda's first entry. -/
theorem stepRunsDecoded : Obligations.StepRunsDecoded := by
  unfold Obligations.StepRunsDecoded
  intro s clear
  refine ⟨?_, ?_, ?_, ?_, ?_, ?_, ?_, ?_⟩
  · intro ha hr hm ⟨hy, hc⟩ hw l hl off bs h raw hoff
    have hfetch : s.fetchNext = (.ok (decode bs), s.noteDecoded raw) :=
      (fetchNext_held hw hl hoff).trans (by rw [← decode_line]; rfl)
    have hrun := issue_clear hr hy hc
    refine ⟨fun i n hd => ?_, fun e n hd => ?_, fun hatt => noteDecoded_alone hatt raw⟩
    · rw [step_agenda_nil ha, runAgent_exec (hrun.trans (instrNext_fetched hm (hd ▸ hfetch)))]
    · rw [step_agenda_nil ha, runAgent_done (hrun.trans (instrNext_illegal hm (hd ▸ hfetch)))]
      rfl
  · intro ha hr hm ⟨hy, hc⟩
    have hrun := issue_clear hr hy hc
    refine ⟨fun w i n hw hd => ?_, fun i n t hf => ?_, fun r t hf => ?_⟩
    · rw [step_agenda_nil ha, runAgent_exec (hrun.trans (instrNext_fetched hm (hd ▸ fetchNext_windowed hw)))]
    · rw [step_agenda_nil ha, runAgent_exec (hrun.trans (instrNext_fetched hm hf))]
    · rw [step_agenda_nil ha, runAgent_done (hrun.trans (instrNext_fault hm hf))]
  · intro ha hr
    rw [step_agenda_nil ha, runAgent_done (issue_cannotRun hr)]
  · intro ha hm hw he
    rw [step_agenda_nil ha, runAgent_done (issue_yields (yields_toMain hm hw he))]
  · intro ha hm hw hr he
    rw [step_agenda_nil ha, runAgent_done (issue_yields (yields_toRepeat hm hw hr he))]
  · intro ha hr hw hwr
    have hy := yields_noTrap hw hwr
    refine ⟨fun hp => ?_, fun hf hfr ho hi => ?_⟩
    · obtain ⟨t, ht, hpend, hst⟩ := issue_pendFp hr hy (waiting_noTrap hw hwr) hp
      exact ⟨t, by rw [step_agenda_nil ha, runAgent_done ht], hpend, hst⟩
    · rw [step_agenda_nil ha, runAgent_done (issue_pendOvf hr hy hf hfr ho hi)]
      rfl
  · intro ha hr hm ⟨hy, hc⟩ w i hw hd
    rw [step_agenda_nil ha, runAgent_exec ((issue_clear hr hy hc).trans (instrNext_captured hm hw hd))]
  · intro p rest ha
    refine ⟨?_, ?_, ?_, ?_, ?_⟩
    · rintro a rfl; simp only [step, ha]
    · rintro e rfl he; simp [step, ha, he]
    · rintro e rfl he; simp [step, ha, he]
    · rintro n rfl; simp only [step, ha]
    · rintro x rfl; simp only [step, ha]

end Sys2Proof.Proofs.ExecutionModel
end

section
/-!
PROOFS. The execution model: REP and the words it captures (R175, R176, R269).
-/

namespace Sys2Proof.Proofs.ExecutionModel

open Sys2Proof Sys2Proof.Machine

/-- A halfword of a word that the cache holds is fetched as it stands in the word. -/
theorem fetchHalf_holdsWord {s : State} {pc : Word} {w : Word32} (h : s.HoldsWord pc w) {k : Nat} (hk : k < 2) :
    s.fetchHalf (pc + BitVec.ofNat 64 (2 * k)) = (.ok (w.toNat / 2 ^ (16 * k) % 65536), s) := by
  obtain ⟨l, hl, hv⟩ := h k hk
  rw [fetchHalf_held hl, hv]

/-- Behind the first word, the cache holds the rest. -/
theorem cached_tail {s : State} {pc : Word} {w : Word32} {ws : List Word32} (h : s.Cached pc (w :: ws)) :
    s.Cached (pc + 4) ws := by
  intro k hk
  have hnext := h (k + 1) (by simpa using hk)
  rwa [List.getElem_cons_succ, show pc + BitVec.ofNat 64 (4 * (k + 1)) = pc + 4 + BitVec.ofNat 64 (4 * k) by
    rw [Nat.mul_add, BitVec.ofNat_add, BitVec.add_comm (BitVec.ofNat 64 (4 * k)), ← BitVec.add_assoc]; rfl] at hnext

/-- Words that the cache holds are fetched from it, and nothing changes (R25). -/
theorem fetchWords_cached {s : State} {pc : Word} {ws : List Word32} (h : s.Cached pc ws) :
    s.fetchWords pc ws.length = (.ok ws, s) := by
  induction ws generalizing pc with
  | nil => rfl
  | cons w ws ih =>
    have hw : s.HoldsWord pc w := by
      have h0 := h 0 (Nat.succ_pos _)
      rw [Nat.mul_zero, BitVec.add_zero] at h0
      exact h0
    have hlo : s.fetchHalf pc = (.ok (w.toNat % 65536), s) := by simpa using fetchHalf_holdsWord hw (k := 0) (by decide)
    have hhi : s.fetchHalf (pc + 2) = (.ok (w.toNat / 65536), s) := by
      have hlt : w.toNat / 65536 < 65536 := by have := w.isLt; omega
      simpa [Nat.mod_eq_of_lt hlt] using fetchHalf_holdsWord hw (k := 1) (by decide)
    have hword : BitVec.ofNat 32 (w.toNat % 65536 + 65536 * (w.toNat / 65536)) = w := by
      rw [Nat.mod_add_div, BitVec.ofNat_toNat, BitVec.setWidth_eq]
    simp only [List.length_cons, State.fetchWords, hlo, hhi, ih (cached_tail h), hword]

/-- What REPPOS and the repetition buffer hold when a repetition of `count` rounds starts (R269). -/
def startRep (ws : List Word32) (base : Word) (l st : BitVec 4) (count : Nat) (r : Regs) : Regs :=
  ({ r with repBuf := ws, repBase := base }).setCsr Csr.reppos
    (word (2 ^ 63 + st.toNat * 2 ^ 56 + l.toNat * 2 ^ 52 + count * 2 ^ 16))

/-- Words that are fetched and may be captured start the repetition. -/
theorem capture_fetched {s t : State} {srcs : List (BitVec 5)} {count : Nat} {l st : BitVec 4} {ws : List Word32}
    (hm : s.cur.rep = false) (h1 : 1 ≤ count) (h2 : count ≤ 65535)
    (hf : s.fetchWords (s.me.regs.pc + 4) (l.toNat + 1) = (.ok ws, t)) (hok : ws.all wordOk = true) :
    s.capture srcs count l st = (t.modRegs (startRep ws (s.me.regs.pc + 4) l st count)).finish srcs (4 + 4 * (l.toNat + 1)) := by
  have hcount : (count = 0 || decide (65535 < count)) = false := by simp; omega
  have hhere : s.here = s.me.regs.pc := by simp [State.here, hm]
  simp only [State.capture, hcount, hhere, hf, hok, if_true, Bool.false_eq_true, if_false, field, Nat.one_mul]
  rfl

theorem capture_badCount {s : State} {srcs : List (BitVec 5)} {count : Nat} {l st : BitVec 4} (h : count = 0 ∨ 65535 < count) :
    s.capture srcs count l st = s.trap causeOperand := by
  simp [State.capture, h]

/-- REP of a task context whose repeat stream is idle captures with its count (R175, R269). -/
theorem repeat_ready {s : State} {srcs : List (BitVec 5)} {vs : List Word} {count : List Word → Nat} {l st : BitVec 4}
    (hh : s.inHandler = false) (hi : s.me.regs.repActive = false) (ho : Operands s srcs none vs) :
    s.repeat srcs count l st = s.capture srcs (count vs) l st := by
  simp [State.repeat, ho.way, hh, needIdle_quiet (.inr hi), withOps_ready ho]

/-- Settles O10: both forms come to one capture, and words that the cache holds are fetched with nothing changed. -/
theorem repeatCaptures : Obligations.RepeatCaptures := by
  unfold Obligations.RepeatCaptures
  intro s n l st a x ws hm hh hi hlen hok go runs
  have hreg (ho : Operands s [a] none [x]) : exec (.repReg a l st) s = .next (s.capture [a] x.toNat l st) :=
    congrArg Host.Outcome.next (repeat_ready hh hi ho)
  have hrun (t : State) (hf : s.fetchWords (s.me.regs.pc + 4) (l.toNat + 1) = (.ok ws, t)) : runs t := by
    refine ⟨fun hn => ?_, fun ho h1 h2 => ?_⟩
    · have hpos : 1 ≤ n.toNat := Nat.one_le_iff_ne_zero.mpr fun h => hn (BitVec.eq_of_toNat_eq h)
      have hlt : n.toNat ≤ 65535 := by have := n.isLt; omega
      exact congrArg Host.Outcome.next
        ((repeat_ready hh hi (operands_nil s)).trans (capture_fetched hm hpos hlt hf hok))
    · exact (hreg ho).trans (congrArg Host.Outcome.next (capture_fetched hm h1 h2 hf hok))
  refine ⟨fun hc => hrun s (hlen ▸ fetchWords_cached hc), hrun, fun ho hx => ?_⟩
  have hcount : x.toNat = 0 ∨ 65535 < x.toNat := hx.imp_left fun h => by simp [h]
  rw [hreg ho, capture_badCount hcount]
  rfl

end Sys2Proof.Proofs.ExecutionModel
end

section
/-!
PROOFS. The execution model: branches of an attached stream, STRAY, and the completion of a muster (R169, R172, R262, R264, R265).
-/

namespace Sys2Proof.Proofs.ExecutionModel

open Sys2Proof Sys2Proof.Machine

/-! ## Branches of an attached stream (R169, R262) -/

@[simp] theorem myStr_modRegs (s : State) (f : Regs → Regs) : (s.modRegs f).myStr = s.myStr := rfl
@[simp] theorem myStr_modMyStr (s : State) (f : Str → Str) : (s.modMyStr f).myStr = f s.myStr :=
  strAt_modStr_self s s.cur.die s.strNo f
@[simp] theorem me_modMyStr (s : State) (f : Str → Str) : (s.modMyStr f).me = s.me := rfl
@[simp] theorem myStr_retire (s : State) (n : Nat) : (s.retire n).myStr = s.myStr := by
  simp [State.myStr, State.strAt, State.strNo]
@[simp] theorem myStr_finish (s : State) (srcs : List (BitVec 5)) (n : Nat) : (s.finish srcs n).myStr = s.myStr := by
  simp [State.finish]
@[simp] theorem att_finish (s : State) (srcs : List (BitVec 5)) (n : Nat) : (s.finish srcs n).me.att = s.me.att := by
  simp [State.finish, retire_me]

@[simp] theorem pc_goto (s : State) (a : Word) : (s.goto a).me.regs.pc = a := by simp [State.goto]
@[simp] theorem att_goto (s : State) (a : Word) : (s.goto a).me.att = s.me.att := by simp [State.goto]
@[simp] theorem myStr_goto (s : State) (a : Word) : (s.goto a).myStr = s.myStr := rfl
@[simp] theorem pc_detach (s : State) : s.detach.me.regs.pc = s.me.regs.pc := by simp [State.detach]
@[simp] theorem att_detach (s : State) : s.detach.me.att = false := by simp [State.detach]

section Branch

variable {s : State} (srcs : List (BitVec 5)) (len : Nat) (go : Word) (hatt : s.me.att = true)
include hatt

/-- Where the leader's outcome is recorded, a member stays attached exactly when its own outcome is the same. -/
theorem branch_recorded {w : Word} (h : s.myStr.brLog.find? s.me.wpos = some w) :
    (s.branch srcs len go).me.regs.pc = go ∧ (s.branch srcs len go).me.att = decide (w = go) := by
  simp only [State.branch, hatt, h, if_true]
  split <;> rename_i hw <;> simp [hatt, hw]

/-- The leader goes its own way, and its outcome is recorded. -/
theorem branch_leader (h : s.myStr.brLog.find? s.me.wpos = none) (hl : s.leads = true) :
    (s.branch srcs len go).me.regs.pc = go ∧ (s.branch srcs len go).me.att = true ∧
      (s.branch srcs len go).myStr.brLog.find? s.me.wpos = some go := by
  simp [State.branch, hatt, h, hl]

/-- Where the leader has passed the place without a branch, a member leaves the stream with its own outcome. -/
theorem branch_leaderPast (h : s.myStr.brLog.find? s.me.wpos = none) (hl : s.leads = false) (hp : s.leaderPast = true) :
    (s.branch srcs len go).me.regs.pc = go ∧ (s.branch srcs len go).me.att = false := by
  simp [State.branch, hatt, h, hl, hp]

/-- A member that comes before the leader waits. -/
theorem branch_waits (h : s.myStr.brLog.find? s.me.wpos = none) (hl : s.leads = false) (hp : s.leaderPast = false) :
    s.branch srcs len go = s := by
  simp [State.branch, hatt, h, hl, hp]

end Branch

/-! ## The outcome of each branch (R217, R260, R261) -/

/-- A direct branch of the main stream counts signed halfwords from its own address. -/
theorem target_main {s : State} (hm : s.cur.rep = false) {n : Nat} (o : BitVec n) :
    s.target o = s.me.regs.pc + BitVec.ofInt 64 (2 * o.toInt) := by
  have h : o.signExtend 64 <<< 1 = BitVec.ofInt 64 (2 * o.toInt) := by
    rw [BitVec.ofInt_mul, BitVec.shiftLeft_eq_mul_twoPow, BitVec.mul_comm]
    rfl
  simp [State.target, State.here, hm, h]

theorem branchIf_main {s : State} (hm : s.cur.rep = false) (p : BitVec 3) (n : BitVec 1) (len : Nat) (t : Word) :
    s.branchIf p n len t = s.branch [] len (if s.readP p = (n == 0) then t else s.me.regs.pc + word len) := by
  have hn : (n == 0) = !(n == 1) := by revert n; decide
  have hc : (s.readP p != (n == 1)) = true ↔ s.readP p = (n == 0) := by
    rw [hn]
    cases s.readP p <;> cases n == 1 <;> decide
  simp only [State.branchIf, State.here, hm, Bool.false_eq_true, if_false, hc]

theorem branchTo_even {s : State} {t : Word} (ht : t.getLsbD 0 = false) (srcs : List (BitVec 5)) (len : Nat) :
    s.branchTo srcs len t = s.branch srcs len t := by
  simp only [State.branchTo, bit, ht, Bool.false_eq_true, if_false]

section Outcomes

variable {s : State} (hm : s.cur.rep = false)
include hm

theorem exec_bp (p : BitVec 3) (n : BitVec 1) (o : BitVec 19) : exec (.bp p n o) s = .next (s.branch [] 4
    (if s.readP p = (n == 0) then s.me.regs.pc + BitVec.ofInt 64 (2 * o.toInt) else s.me.regs.pc + 4)) := by
  change Host.Outcome.next (s.branchIf p n 4 (s.target o)) = _
  rw [branchIf_main hm, target_main hm]
  rfl

theorem exec_cBp (p : BitVec 3) (n : BitVec 1) (o : BitVec 7) : exec (.cBp p n o) s = .next (s.branch [] 2
    (if s.readP p = (n == 0) then s.me.regs.pc + BitVec.ofInt 64 (2 * o.toInt) else s.me.regs.pc + 2)) := by
  change Host.Outcome.next (s.branchIf p n 2 (s.target o)) = _
  rw [branchIf_main hm, target_main hm]
  rfl

theorem exec_jr_through {g : BitVec 3} {b : BitVec 5} (hg : s.readP g = false) (hway : wrongWay false [b] none = false) :
    exec (.jr g b) s = .next (s.branch [] 4 (s.me.regs.pc + 4)) := by
  change execJr g b s = _
  simp [execJr, hm, hway, hg, State.here]

theorem exec_ret_through {g : BitVec 3} (hg : s.readP g = false) :
    exec (.ret g) s = .next (s.branch [] 4 (s.me.regs.pc + 4)) := by
  change execRet g s = _
  simp [execRet, hm, hg, State.here]

omit hm

theorem exec_jr_taken {g : BitVec 3} {b : BitVec 5} {go : Word} (hg : s.readP g = true) (ho : Operands s [b] none [go])
    (heven : go.getLsbD 0 = false) : exec (.jr g b) s = .next (s.branch [b] 4 go) := by
  have hgo : arg [go] 0 = go := rfl
  change execJr g b s = _
  simp [execJr, ho.way, hg, withOps_ready ho, hgo, branchTo_even heven]

theorem exec_ret_taken {g : BitVec 3} (hg : s.readP g = true) (heven : (s.readS 1).getLsbD 0 = false) :
    exec (.ret g) s = .next (s.branch [] 4 (s.readS 1)) := by
  change execRet g s = _
  simp only [execRet, hg, if_true, branchTo_even heven]

theorem exec_cRet (heven : (s.readS 1).getLsbD 0 = false) : exec .cRet s = .next (s.branch [] 2 (s.readS 1)) :=
  congrArg Host.Outcome.next (branchTo_even heven [] 2)

end Outcomes

/-- A branch whose outcome may differ between members, with the address after it: by the member's own predicate, guard and
register. -/
def Branches (s : State) (i : Instr) (go : Word) : Prop :=
  let pc := s.me.regs.pc
  (∃ p n o, i = .bp p n o ∧ go = if s.readP p = (n == 0) then pc + BitVec.ofInt 64 (2 * o.toInt) else pc + 4) ∨
  (∃ p n o, i = .cBp p n o ∧ go = if s.readP p = (n == 0) then pc + BitVec.ofInt 64 (2 * o.toInt) else pc + 2) ∨
  (∃ g b, i = .jr g b ∧ s.readP g = true ∧ Operands s [b] none [go] ∧ go.getLsbD 0 = false) ∨
  (∃ g b, i = .jr g b ∧ s.readP g = false ∧ wrongWay false [b] none = false ∧ go = pc + 4) ∨
  (∃ g, i = .ret g ∧ s.readP g = true ∧ go = s.readS 1 ∧ go.getLsbD 0 = false) ∨
  (∃ g, i = .ret g ∧ s.readP g = false ∧ go = pc + 4) ∨
  (i = .cRet ∧ go = s.readS 1 ∧ go.getLsbD 0 = false)

/-- Each of them goes through the one rule for branches with its outcome. -/
theorem exec_branches {s : State} {i : Instr} {go : Word} (hm : s.cur.rep = false) (h : Branches s i go) :
    ∃ srcs len, exec i s = .next (s.branch srcs len go) := by
  obtain ⟨p, n, o, rfl, rfl⟩ | ⟨p, n, o, rfl, rfl⟩ | ⟨g, b, rfl, hg, ho, he⟩ | ⟨g, b, rfl, hg, hw, rfl⟩ |
    ⟨g, rfl, hg, rfl, he⟩ | ⟨g, rfl, hg, rfl⟩ | ⟨rfl, rfl, he⟩ := h
  · exact ⟨_, _, exec_bp hm p n o⟩
  · exact ⟨_, _, exec_cBp hm p n o⟩
  · exact ⟨_, _, exec_jr_taken hg ho he⟩
  · exact ⟨_, _, exec_jr_through hm hg hw⟩
  · exact ⟨_, _, exec_ret_taken hg he⟩
  · exact ⟨_, _, exec_ret_through hm hg⟩
  · exact ⟨_, _, exec_cRet he⟩

/-! ## The completion of a muster (R172, R265) -/

/-- The member at a position of a string. -/
def memberAt (die str j : Nat) : Agent := { die := die, core := coreAt str j, ctx := 0 }

/-- A context that goes on attached, at place p of the stream. -/
def joinAt (p : Nat) (c : Ctx) : Ctx := { c with arrived := false, att := true, wpos := p }

/-- The member at a position passes the muster and becomes attached at place p of the stream. -/
def passMuster (die str len p : Nat) (s : State) (j : Nat) : State :=
  (((s.as (memberAt die str j)).retire len).modMe (joinAt p)).as s.cur

/-- The string's record when a muster is over: what comes before place `keep` of the stream is forgotten. -/
def clearMuster (keep : Option Nat) (x : Str) : Str :=
  { x with muster := none, window := [], brLog := x.brLog.filter fun b => (keep.map fun k => decide (k ≤ b.1)).getD false }

theorem musterCheck_complete {s : State} {die str : Nat} (hm : (s.strAt die str).muster.isSome = true)
    (ha : ∀ j ∈ s.liveMembers die str, s.arrivedAt die (coreAt str j) = true) :
    s.musterCheck die str = (s.liveMembers die str).foldl (passMuster die str (s.strAt die str).musterLen (s.nextPlace die str))
      (s.modStr die str (clearMuster (s.firstPlace die str))) := by
  have hall : ((s.liveMembers die str).all fun j => s.arrivedAt die (coreAt str j)) = true := List.all_eq_true.mpr ha
  simp only [State.musterCheck, hm, hall, Bool.and_self, if_true]
  rfl

/-- What passing a muster makes of a member. -/
structure Passed (len : Nat) (c c' : Ctx) : Prop where
  att : c'.att = true
  arrived : c'.arrived = false
  pc : c'.regs.pc = c.regs.pc + word len

section Pass

variable (die str len p : Nat) (s : State)

theorem passMuster_cur (j : Nat) : (passMuster die str len p s j).cur = s.cur := rfl
theorem passMuster_strs (j : Nat) : (passMuster die str len p s j).strs = s.strs :=
  retire_strs (s.as (memberAt die str j)) len

theorem passMuster_task_self (j : Nat) :
    Passed len (s.task die (coreAt str j)) ((passMuster die str len p s j).task die (coreAt str j)) := by
  have h : (passMuster die str len p s j).task die (coreAt str j) =
      joinAt p ((s.as (memberAt die str j)).retire len).me :=
    (ctxOf_modMe _ _ _).trans (if_pos (retire_key (s.as (memberAt die str j)) len).symm)
  rw [h, retire_me]
  exact ⟨rfl, rfl, advance_pc _ _ _⟩

theorem passMuster_task_ne {i j : Nat} (h : i ≠ j) :
    (passMuster die str len p s j).task die (coreAt str i) = s.task die (coreAt str i) := by
  have hne : ctxKey die (coreAt str i) 0 ≠ (s.as (memberAt die str j)).key := by
    change ctxKey die (coreAt str i) 0 ≠ ctxKey die (coreAt str j) 0
    unfold ctxKey coreAt
    omega
  calc (passMuster die str len p s j).task die (coreAt str i)
      = ((s.as (memberAt die str j)).retire len).ctxOf (ctxKey die (coreAt str i) 0) :=
        (ctxOf_modMe _ _ _).trans (if_neg fun e => hne (e.trans (retire_key _ _)))
    _ = s.task die (coreAt str i) := retire_others _ _ _ hne

theorem foldl_passMuster_cur (l : List Nat) : (l.foldl (passMuster die str len p) s).cur = s.cur := by
  induction l generalizing s with
  | nil => rfl
  | cons i l ih => exact ih _

theorem foldl_passMuster_strs (l : List Nat) : (l.foldl (passMuster die str len p) s).strs = s.strs := by
  induction l generalizing s with
  | nil => rfl
  | cons i l ih => exact (ih _).trans (passMuster_strs ..)

theorem foldl_passMuster_task_notMem {l : List Nat} {j : Nat} (h : j ∉ l) :
    (l.foldl (passMuster die str len p) s).task die (coreAt str j) = s.task die (coreAt str j) := by
  induction l generalizing s with
  | nil => rfl
  | cons i l ih =>
    obtain ⟨hi, hl⟩ := not_or.mp fun hm => h (List.mem_cons.mpr hm)
    exact (ih _ hl).trans (passMuster_task_ne die str len p s hi)

theorem foldl_passMuster_task {l : List Nat} (hl : l.Nodup) {j : Nat} (hj : j ∈ l) :
    Passed len (s.task die (coreAt str j)) ((l.foldl (passMuster die str len p) s).task die (coreAt str j)) := by
  induction l generalizing s with
  | nil => cases hj
  | cons i l ih =>
    obtain ⟨hi, hl⟩ := List.nodup_cons.mp hl
    by_cases h : j = i
    · subst h
      rw [List.foldl_cons, foldl_passMuster_task_notMem _ _ _ _ _ hi]
      exact passMuster_task_self die str len p s j
    · rw [← passMuster_task_ne die str len p s h]
      exact ih _ hl ((List.mem_cons.mp hj).resolve_left h)

end Pass

theorem nodup_liveMembers (s : State) (die str : Nat) : (s.liveMembers die str).Nodup := List.nodup_range.filter _

/-- A completed muster is over, every live member passes it, and the present agent stays the present agent. -/
theorem musterCheck_passed {s : State} {die str : Nat} (hm : (s.strAt die str).muster.isSome = true)
    (ha : ∀ j ∈ s.liveMembers die str, s.arrivedAt die (coreAt str j) = true) :
    (s.musterCheck die str).cur = s.cur ∧ ((s.musterCheck die str).strAt die str).muster = none ∧
      ∀ j ∈ s.liveMembers die str,
        Passed (s.strAt die str).musterLen (s.task die (coreAt str j)) ((s.musterCheck die str).task die (coreAt str j)) := by
  rw [musterCheck_complete hm ha]
  refine ⟨foldl_passMuster_cur .., ?_, fun j hj => ?_⟩
  · rw [State.strAt, foldl_passMuster_strs]
    change ((s.modStr die str _).strAt die str).muster = none
    rw [strAt_modStr_self]
    rfl
  · exact foldl_passMuster_task _ _ _ _ (s.modStr die str _) (nodup_liveMembers s die str) hj

/-! ## Arriving at a muster -/

/-- The present context waits at the pending muster. -/
def arrive (s : State) : State := s.modMe fun c => { c with arrived := true }

/-- Arriving changes of a context nothing but that it has arrived. -/
theorem ctxOf_arrive (s : State) (k : Nat) :
    (arrive s).ctxOf k = if k = s.key then { s.ctxOf k with arrived := true } else s.ctxOf k := by
  rw [arrive, ctxOf_modMe]
  split
  · subst_vars; rfl
  · rfl

theorem liveMember_arrive (s : State) (k : Nat) : ((arrive s).ctxOf k).liveMember = (s.ctxOf k).liveMember := by
  rw [ctxOf_arrive]; split <;> rfl

theorem pc_arrive (s : State) (k : Nat) : ((arrive s).ctxOf k).regs.pc = (s.ctxOf k).regs.pc := by
  rw [ctxOf_arrive]; split <;> rfl

theorem arrived_arrive (s : State) (k : Nat) :
    ((arrive s).ctxOf k).arrived = true ↔ k = s.key ∨ (s.ctxOf k).arrived = true := by
  rw [ctxOf_arrive]; split <;> simp [*]

theorem liveMembers_arrive (s : State) (die str : Nat) : (arrive s).liveMembers die str = s.liveMembers die str := by
  simp only [State.liveMembers, State.task, liveMember_arrive]

/-- A core is the one at its own position of its own string. -/
theorem coreAt_strOf_posOf (core : Nat) : coreAt (strOf core) (posOf core) = core := by
  unfold coreAt strOf posOf
  omega

theorem key_task {s : State} (h : s.inHandler = false) : s.key = ctxKey s.cur.die (coreAt s.strNo (posOf s.cur.core)) 0 := by
  have hctx : s.cur.ctx = 0 := by simpa [State.inHandler] using h
  rw [State.key, hctx, State.strNo, coreAt_strOf_posOf]

/-- With the last live member's arrival, every live member has arrived: none of them is saved. -/
theorem arrivedAt_arrive {s : State} (hh : s.inHandler = false)
    (hslot : ∀ j < 8, (s.task (slotDie s.cur.die) (coreAt s.strNo j)).liveMember = false)
    (hothers : ∀ j ∈ s.liveMembers s.cur.die s.strNo, j ≠ posOf s.cur.core → (s.task s.cur.die (coreAt s.strNo j)).arrived = true)
    {j : Nat} (hj : j ∈ s.liveMembers s.cur.die s.strNo) : (arrive s).arrivedAt s.cur.die (coreAt s.strNo j) = true := by
  have h8 : j < 8 := List.mem_range.mp (List.mem_filter.mp hj).1
  have hsaved : ((arrive s).task (slotDie s.cur.die) (coreAt s.strNo j)).liveMember = false :=
    (liveMember_arrive s _).trans (hslot j h8)
  have harr : ((arrive s).task s.cur.die (coreAt s.strNo j)).arrived = true := by
    refine (arrived_arrive s _).mpr ?_
    by_cases hpos : j = posOf s.cur.core
    · exact .inl (by rw [key_task hh, hpos])
    · exact .inr (hothers j hj hpos)
  simp [State.arrivedAt, harr, hsaved]

section Muster

variable {s : State} (hh : s.inHandler = false) (len : Nat)
include hh

theorem muster_noMember (h : s.me.member = false) : s.muster len = s.retire len := by
  simp [State.muster, hh, h]

theorem muster_alone (h : s.liveMembers s.cur.die s.strNo = [posOf s.cur.core]) : s.muster len = s.retire len := by
  simp [State.muster, hh, h]

variable (hmem : s.me.member = true) (harr : s.me.arrived = false)
  (hlive : s.liveMembers s.cur.die s.strNo ≠ [posOf s.cur.core])
include hmem harr hlive

theorem muster_elsewhere {w : Word} (hm : s.cur.rep = false) (h : s.myStr.muster = some w) (hw : w ≠ s.me.regs.pc) :
    s.muster len = s.trap causeMuster := by
  simp [State.muster, hh, hmem, harr, hlive, h, State.here, hm, hw]

theorem muster_here (hm : s.cur.rep = false) (h : s.myStr.muster = some s.me.regs.pc) :
    s.muster len = (arrive s).musterCheck s.cur.die s.strNo := by
  simp [State.muster, hh, hmem, harr, hlive, h, State.here, hm, arrive]

end Muster

/-- The last live member's arrival completes the muster: it is over, and every live member has passed it. -/
theorem muster_completes {s : State} {w : Word} (hh : s.inHandler = false) (hm : s.myStr.muster = some w)
    (hslot : ∀ j < 8, (s.task (slotDie s.cur.die) (coreAt s.strNo j)).liveMember = false)
    (hothers : ∀ j ∈ s.liveMembers s.cur.die s.strNo, j ≠ posOf s.cur.core → (s.task s.cur.die (coreAt s.strNo j)).arrived = true) :
    let t := (arrive s).musterCheck s.cur.die s.strNo
    t.myStr.muster = none ∧ ∀ j ∈ s.liveMembers s.cur.die s.strNo, (t.task s.cur.die (coreAt s.strNo j)).att = true ∧
      (t.task s.cur.die (coreAt s.strNo j)).arrived = false ∧
      (t.task s.cur.die (coreAt s.strNo j)).regs.pc = (s.task s.cur.die (coreAt s.strNo j)).regs.pc + word s.myStr.musterLen := by
  intro t
  have hsome : ((arrive s).strAt s.cur.die s.strNo).muster.isSome = true := Option.isSome_of_eq_some hm
  have hall : ∀ j ∈ (arrive s).liveMembers s.cur.die s.strNo, (arrive s).arrivedAt s.cur.die (coreAt s.strNo j) = true := by
    rw [liveMembers_arrive]
    exact fun j hj => arrivedAt_arrive hh hslot hothers hj
  obtain ⟨hcur, hover, hpassed⟩ := musterCheck_passed hsome hall
  rw [liveMembers_arrive] at hpassed
  refine ⟨?_, fun j hj => ?_⟩
  · rw [State.myStr, State.strNo, hcur]
    exact hover
  · obtain ⟨hatt, harr, hpc⟩ := hpassed j hj
    exact ⟨hatt, harr, hpc.trans (congrArg (· + word s.myStr.musterLen) (pc_arrive s _))⟩

/-- Settles O9: every such branch goes through one rule, and a completed muster is a pass over the live members, one by one. -/
theorem gangsAndMuster : Obligations.GangsAndMuster := by
  unfold Obligations.GangsAndMuster
  refine ⟨?_, ?_, ?_⟩
  · intro s i go hm hatt pc hb
    obtain ⟨srcs, len, he⟩ := exec_branches hm hb
    refine ⟨fun w hw => ⟨_, he, branch_recorded srcs len go hatt hw⟩, fun hn hl => ⟨_, he, branch_leader srcs len go hatt hn hl⟩,
      fun hn hl => ⟨fun hp => ⟨_, he, branch_leaderPast srcs len go hatt hn hl hp⟩, fun hp => ?_⟩⟩
    rw [he, branch_waits srcs len go hatt hn hl hp]
  · exact fun s _ => ⟨rfl, rfl, att_detach (s.retire 4)⟩
  · intro s hm hh
    refine ⟨fun h => ?_, fun h => ?_, fun hmem harr hlive => ⟨fun w hw hne => ?_, fun hw _ _ hslot hothers i hi => ?_⟩⟩
    · exact ⟨congrArg Host.Outcome.next (muster_noMember hh 4 h), congrArg Host.Outcome.next (muster_noMember hh 2 h)⟩
    · exact ⟨congrArg Host.Outcome.next (muster_alone hh 4 h), congrArg Host.Outcome.next (muster_alone hh 2 h)⟩
    · exact ⟨congrArg Host.Outcome.next (muster_elsewhere hh 4 hmem harr hlive hm hw hne),
        congrArg Host.Outcome.next (muster_elsewhere hh 2 hmem harr hlive hm hw hne)⟩
    · have hexec : exec i s = .next ((arrive s).musterCheck s.cur.die s.strNo) := by
        rcases hi with rfl | rfl
        · exact congrArg Host.Outcome.next (muster_here hh 4 hmem harr hlive hm hw)
        · exact congrArg Host.Outcome.next (muster_here hh 2 hmem harr hlive hm hw)
      exact ⟨_, hexec, muster_completes hh hw hslot hothers⟩

end Sys2Proof.Proofs.ExecutionModel
end
